-- ==== Sys2Proof/Word.lean ====
section
/-! DEFINITION. Word types of the Vexez: a byte, a 32-bit register word, a 64-bit doubleword
(memory is little-endian, R5; a register holds 32 bits per lane, R187). -/

namespace Sys2Proof

/-- One byte of memory (R5). -/
abbrev Byte := BitVec 8

/-- One register of one lane, and one instruction word (R187). -/
abbrev Word := BitVec 32

/-- A register pair, a program counter, an address as a program forms it (R11, R189). -/
abbrev DWord := BitVec 64

/-- A register quad (R189). -/
abbrev QWord := BitVec 128

/-- A register field: v0 to v127 (R187). -/
abbrev Reg := BitVec 7

/-- A mask with one bit per lane of a gang (R195). -/
abbrev LaneMask := BitVec 32

end Sys2Proof
end

