-- ==== Sys2Proof/Config.lean ====
section
/-! DEFINITION. What one Vexez fixes for good, and the free values: constants without a body, of which no proof can
see a value. Each free value is named in notes/assumptions. -/

namespace Sys2Proof.Config

/-- The H3 hash h_j of a line address to 7 bits (R65): "the hash matrices are not part of the architecture". -/
opaque sigHash : Nat → Nat → BitVec 7

/-- Which way of a full L1 or instruction-cache set a fill replaces (R39), by the running number of the choice. -/
opaque replaceWay : Nat → BitVec 4

/-- Which of the 4,096 victim tags a full set of tags replaces (R352). -/
opaque replaceTag : Nat → BitVec 12

/-- Which LLC line among those of lowest EVP a full slice replaces (R55). -/
opaque replaceLlc : Nat → Nat

/-- Which of the sixteen entries of a 64 KiB page translates, where they differ (R15). -/
opaque pick64K : Nat → BitVec 4

/-- A line enciphered under one key pair and read under another (R29, R30), by the place of a byte in it: the tweak PA[51:7],
both pairs, and the 128 plaintext bytes that stand in the line. -/
opaque recipher : Nat → Option (BitVec 512) → Option (BitVec 512) → List Byte → Nat → Byte

/-- Over which of the buses in service a line of a reach travels (R56): the lines are spread by a bus map whose form no rule
states; line, number of buses in service. -/
opaque busSpread : Nat → Nat → Nat

/-- The approximate special functions (R244): function number, operand. The result is used where it lies in the bound. -/
opaque approx : Nat → Word → Word

/-- A correctly rounded special function where the model's enclosure does not decide the rounding (R244). -/
opaque undecided : Nat → Nat → Word → Word

/-- Register and record contents that the spec leaves unstated, by the running number of the choice: TRAPADDR of a
poisoned register (R377), TRAPPC in the record of an undelivered error (R385), and others that a log entry names. -/
opaque unstated : Nat → BitVec 64

/-- Engine cycles of an instruction other than MMA and MMA.B, whose duration no rule states (R60, R280; log 22). -/
opaque engineCycles : Nat → Nat

/-- Lines of state-save traffic of one pre-emption or restore, whose image's layout no rule states (R372, R386; log 14). -/
opaque saveLines : Nat → Nat

/-- A byte of a refill whose source cannot be read at restore (R33; log 38), by the running number of the choice. -/
opaque refillByte : Nat → Nat → Byte

/-- The place in a peer's window to which PAGE.MIGRATE moves a page (R38), by the running number of the choice. -/
opaque peerFrame : Nat → Nat

/-- SHA-512 over a list of bytes (R387). -/
opaque sha512 : List Byte → BitVec 512

/-- The ROM image and the fuse configuration (R387). -/
opaque romImage : List Byte
opaque fuses : List Byte

/-- The Ed25519 identity key of the key store and its signature (R387). -/
opaque publicKey : BitVec 256
opaque sign : List Byte → BitVec 512

/-- Lines of one L1, sets and ways (R39). -/
def l1Sets : Nat := 128
def l1Ways : Nat := 16

/-- Ways of each set that serve unleased traffic: 256 lines in 128 sets (R39, R349; log 78). -/
def l1SharedWays : Nat := 2

/-- Leasable lines of one core (R39, R350). -/
def leasable : Nat := 1792

/-- The period of budgets and clock credit in cycles (R60, R159). -/
def period : Nat := 65536

/-- Instructions of one span (R62, code 3). -/
def spanLimit : Nat := 65536

/-- Version lines of one span (R54) and of one slice. -/
def spanLines : Nat := 512
def sliceLines : Nat := 32768

/-- Lines of one LLC slice of 16 MiB (R54). -/
def llcLines : Nat := 131072

/-- Decoded blocks of one core (R59). -/
def dbcBlocks : Nat := 2048

/-- Minimum residency of a cohort in core cycles (R362). -/
def residency : Nat := 8388608

end Sys2Proof.Config
end

