-- ==== Sys2Proof/Syntax.lean ====
section
/-! DEFINITION. The instructions and steps of the Vexez as syntax: one constructor of `Instr` for each row of
spec/opcode_table.json. Formats and fields follow R187 to R193; a firmware command's operands follow R384.
The chain bit C (R184) belongs to the packet, not to the operation, so it stands beside an `Instr`, not in it. -/

namespace Sys2Proof

/-- Scope of a release, acquire or fence (R90, R255). -/
inductive Scope where
  | lane | wg | cohort | dev | sys
deriving DecidableEq, Repr

/-- The MOD field of a rounding form: dynamic mode (FPCTL.RMODE) or a static mode (R193). -/
inductive RMod where
  | dyn | rn | rz | rp | rm
deriving DecidableEq, Repr

/-- Lease modes (R265, R268, R350). -/
inductive LeaseMode where
  | measured | declared | floor
deriving DecidableEq, Repr

/-- Operations of ATOM and ATOML (R262). -/
inductive AtomOp where
  | add | xchg | cas | and | or | xor | min | max | minu | maxu
deriving DecidableEq, Repr

/-- The FL field of an atomic: its ordering (R193, R263). -/
inductive AtomOrd where
  | relaxed | acq | rel | acqRel
deriving DecidableEq, Repr

/-- The six floating-point majors 0x14 to 0x19 (R237). -/
inductive FpMajor where
  | fp32 | fp64 | packed | special | conv | anchored
deriving DecidableEq, Repr

/-- A barrier operand: bN of the issuing workgroup, or qQ.bN (R191, R270). -/
inductive BarName where
  | own (n : Reg)
  | basin (q : BitVec 2) (n : Reg)
deriving DecidableEq, Repr

/-- The fields of an M-format word and its immediate word (R187, R190, R253). `x` is the immediate when X = 1. -/
structure MemOp where
  x : Option Word
  la : BitVec 4
  d : Reg
  base : BitVec 4
  off : Reg
  sz : BitVec 2
deriving DecidableEq, Repr

/-- The fields of ATOM and ATOML with their extension word (R262). `dbl` is size .D. -/
structure AtomArgs where
  op : AtomOp
  dbl : Bool
  scope : Scope
  ord : AtomOrd
  d : Reg
  base : BitVec 4
  off : Reg
  c : Reg
deriving DecidableEq, Repr

/-- TAG and CTX of a firmware submission entry (R382). -/
structure CmdHead where
  tag : BitVec 16
  ctx : Word
deriving DecidableEq, Repr

/-- What the link partner does in a hand-over to the device (R35): it completes, its data arrives poisoned
(OWNER 0x21), or it does not complete (OWNER 0x22). An input of the event. -/
inductive LinkResult where
  | ok | poisoned | failed
deriving DecidableEq, Repr

/-- Where an uncorrectable error lies (R377). An input of the event. -/
inductive ErrLoc where
  | l1Line (core line : Nat)
  | dbcBlock (core slot : Nat)
  | llcCommitted (line : Nat)
  | llcVersion (g line : Nat)
  | localWord (cohort wg off : Nat)
  | register (g reg lane : Nat)
  | accCell (core row col : Nat)
  | wbufColumn (core panel slot : Nat)
deriving DecidableEq, Repr

/-- One constructor for each row of spec/opcode_table.json. Rows without an instruction word (firmware commands and
the device's own steps) carry what selects and feeds the step. -/
inductive Instr where
  /-- RESET, R387. -/
  | reset
  /-- LINK_TRAINING, R379. -/
  | linkTraining (port : Nat) (up : Bool) (rate : Nat) (width : Nat) (mode : Nat)
  /-- SQTAIL_DOORBELL, R381. -/
  | sqtailDoorbell (v : Word)
  /-- HOST_REGISTER_WRITE, R381. -/
  | hostRegisterWrite (off : Nat) (v : DWord)
  /-- DEVICE_INIT, R389. -/
  | deviceInit (h : CmdHead)
  /-- CONTEXT_CREATE, R384. -/
  | contextCreate (h : CmdHead) (root saveBase saveSize poolBase : DWord) (poolPages : Word)
  /-- REGION_CREATE, R144. -/
  | regionCreate (h : CmdHead) (image rcb : DWord)
  /-- LAUNCH, R236. -/
  | launch (h : CmdHead) (desc : DWord)
  /-- PREEMPT, R383. -/
  | preempt (h : CmdHead) (rcb : DWord)
  /-- RESUME, R383. -/
  | resume (h : CmdHead) (rcb : DWord)
  /-- PAGE_MIGRATE, R38. -/
  | pageMigrate (h : CmdHead) (va : DWord) (owner : Byte)
  /-- SPRING_BIND, R338. -/
  | springBind (h : CmdHead) (image : DWord)
  /-- KEY_LOAD, R388. -/
  | keyLoad (h : CmdHead) (slot : Byte) (keys : DWord)
  /-- ATTEST, R387. -/
  | attest (h : CmdHead) (buf : DWord) (nonce : BitVec 256)
  /-- ERROR_QUERY, R385. -/
  | errorQuery (h : CmdHead) (buf : DWord) (n : Word) (fdom : Byte)
  /-- CAPACITY_MAP, R390. -/
  | capacityMap (h : CmdHead) (buf : DWord)
  /-- POISON_CLEAR, R28. -/
  | poisonClear (h : CmdHead) (page data : DWord) (key : Byte)
  /-- OWNERSHIP_HANDOVER, R35. -/
  | ownershipHandover (ctx : Nat) (va : DWord) (link : LinkResult)
  /-- HANDOVER_FROM_DEVICE, R84. -/
  | handoverFromDevice (ctx : Nat) (va : DWord) (moveTo : Option Nat)
  /-- SPAN_COMMIT, R68. -/
  | spanCommit (g : Nat)
  /-- TWO_PHASE_COMMIT, R69. -/
  | twoPhaseCommit (g : Nat)
  /-- FAVOUR_GRANT, R77. -/
  | favourGrant
  /-- SPAN_INSTRUCTION_LIMIT, R62. -/
  | spanInstructionLimit (g : Nat)
  /-- PATH_ROTATION, R150. -/
  | pathRotation (g slice : Nat)
  /-- METERING_PERIOD, R61. -/
  | meteringPeriod (reach : Nat)
  /-- COPY_CHUNK, R304. -/
  | copyChunk (cmd : Nat)
  /-- FOLLOW_ON_OFFER, R307. -/
  | followOnOffer (cmd : Nat)
  /-- MATRIX_ACCEPT, R278. -/
  | matrixAccept (core pos : Nat)
  /-- MATRIX_COMPLETE, R167. -/
  | matrixComplete (core pos : Nat)
  /-- SCALE_ENTRY_ARRIVAL, R290. -/
  | scaleEntryArrival (core entry : Nat)
  /-- RASTER_BINNING, R323. -/
  | rasterBinning (core : Nat)
  /-- FRAGMENT_GANG_LAUNCH, R324. -/
  | fragmentGangLaunch (core : Nat)
  /-- FRAGMENT_BLEND, R326. -/
  | fragmentBlend (core : Nat)
  /-- TILE_WRITE_BACK, R327. -/
  | tileWriteBack (core : Nat)
  /-- COHORT_RETIRE, R229. -/
  | cohortRetire (cohort : Nat)
  /-- COHORT_PLACEMENT, R347. -/
  | cohortPlacement
  /-- GROWTH_STALL, R358. -/
  | growthStall (core : Nat)
  /-- THERMAL_MIGRATION, R359. -/
  | thermalMigration (cohort : Nat)
  /-- PREEMPTION, R371. -/
  | preemption (cohort : Nat)
  /-- COHORT_RESTORE, R373. -/
  | cohortRestore (cohort basin : Nat)
  /-- ADMISSION_DECISION, R355. -/
  | admissionDecision (core : Nat)
  /-- GANG_AGING, R356. -/
  | gangAging (g : Nat)
  /-- PROTECTION_END, R355. -/
  | protectionEnd (g : Nat)
  /-- LEASE_MEASUREMENT_WINDOW, R351. -/
  | leaseMeasurementWindow (g : Nat)
  /-- LOST_LOCALITY_WINDOW, R353. -/
  | lostLocalityWindow (core : Nat)
  /-- CLOCK_CREDIT_PERIOD, R159. -/
  | clockCreditPeriod (core : Nat)
  /-- ACC_WIN_GRANT, R276. -/
  | accWinGrant (core : Nat)
  /-- REGS_GROW_GRANT, R269. -/
  | regsGrowGrant (core part : Nat)
  /-- ASYNC_ERROR_DELIVERY, R367. -/
  | asyncErrorDelivery (g : Nat)
  /-- UNCORRECTABLE_ERROR, R377. -/
  | uncorrectableError (loc : ErrLoc)
  /-- CORRECTED_SOFT_ERROR, R377. -/
  | correctedSoftError (count : Nat)
  /-- NOP, R183. -/
  | nop
  /-- IADD, R208. -/
  | iadd (d a b : Reg)
  /-- ISUB, R208. -/
  | isub (d a b : Reg)
  /-- IMUL, R208. -/
  | imul (d a b : Reg)
  /-- IMULHI, R208. -/
  | imulhi (d a b : Reg)
  /-- IMULHIU, R208. -/
  | imulhiu (d a b : Reg)
  /-- IMIN, R208. -/
  | imin (d a b : Reg)
  /-- IMAX, R208. -/
  | imax (d a b : Reg)
  /-- IMINU, R208. -/
  | iminu (d a b : Reg)
  /-- IMAXU, R208. -/
  | imaxu (d a b : Reg)
  /-- IABS, R208. -/
  | iabs (d a : Reg)
  /-- IADDS, R208. -/
  | iadds (d a b : Reg)
  /-- ISUBS, R208. -/
  | isubs (d a b : Reg)
  /-- IDIVU, R209. -/
  | idivu (d a b : Reg)
  /-- IREMU, R209. -/
  | iremu (d a b : Reg)
  /-- IMAD, R208. -/
  | imad (d a b : Reg)
  /-- IDIV, R209. -/
  | idiv (d a b : Reg)
  /-- IREM, R209. -/
  | irem (d a b : Reg)
  /-- IADDSU, R208. -/
  | iaddsu (d a b : Reg)
  /-- ISUBSU, R208. -/
  | isubsu (d a b : Reg)
  /-- AND, R210. -/
  | and (d a b : Reg)
  /-- OR, R210. -/
  | or (d a b : Reg)
  /-- XOR, R210. -/
  | xor (d a b : Reg)
  /-- ANDN, R210. -/
  | andn (d a b : Reg)
  /-- NOT, R210. -/
  | not (d a : Reg)
  /-- SHL, R210. -/
  | shl (d a b : Reg)
  /-- SHR, R210. -/
  | shr (d a b : Reg)
  /-- SAR, R210. -/
  | sar (d a b : Reg)
  /-- ROL, R210. -/
  | rol (d a b : Reg)
  /-- POPC, R210. -/
  | popc (d a : Reg)
  /-- CLZ, R210. -/
  | clz (d a : Reg)
  /-- BREV, R210. -/
  | brev (d a : Reg)
  /-- BFE, R211. -/
  | bfe (d a b : Reg)
  /-- BFES, R211. -/
  | bfes (d a b : Reg)
  /-- BFI, R211. -/
  | bfi (d a b : Reg)
  /-- IADD64, R212. -/
  | iadd64 (d a b : Reg)
  /-- ISUB64, R212. -/
  | isub64 (d a b : Reg)
  /-- IMUL64, R212. -/
  | imul64 (d a b : Reg)
  /-- SHL64, R212. -/
  | shl64 (d a b : Reg)
  /-- SHR64, R212. -/
  | shr64 (d a b : Reg)
  /-- SAR64, R212. -/
  | sar64 (d a b : Reg)
  /-- IMIN64, R212. -/
  | imin64 (d a b : Reg)
  /-- IMAX64, R212. -/
  | imax64 (d a b : Reg)
  /-- IMINU64, R212. -/
  | iminu64 (d a b : Reg)
  /-- IMAXU64, R212. -/
  | imaxu64 (d a b : Reg)
  /-- IMULW, R212. -/
  | imulw (d a b : Reg)
  /-- IMULWU, R212. -/
  | imulwu (d a b : Reg)
  /-- CMPEQ, R215. -/
  | cmpeq (d a b : Reg)
  /-- CMPNE, R215. -/
  | cmpne (d a b : Reg)
  /-- CMPLT, R215. -/
  | cmplt (d a b : Reg)
  /-- CMPLE, R215. -/
  | cmple (d a b : Reg)
  /-- CMPLTU, R215. -/
  | cmpltu (d a b : Reg)
  /-- CMPLEU, R215. -/
  | cmpleu (d a b : Reg)
  /-- CMPEQ64, R215. -/
  | cmpeq64 (d a b : Reg)
  /-- CMPLT64, R215. -/
  | cmplt64 (d a b : Reg)
  /-- CMPLTU64, R215. -/
  | cmpltu64 (d a b : Reg)
  /-- CMPLE64, R215. -/
  | cmple64 (d a b : Reg)
  /-- CMPLEU64, R215. -/
  | cmpleu64 (d a b : Reg)
  /-- FCMPEQ, R216. -/
  | fcmpeq (d a b : Reg)
  /-- FCMPNE, R216. -/
  | fcmpne (d a b : Reg)
  /-- FCMPLT, R216. -/
  | fcmplt (d a b : Reg)
  /-- FCMPLE, R216. -/
  | fcmple (d a b : Reg)
  /-- FCMPUN, R216. -/
  | fcmpun (d a b : Reg)
  /-- DCMPEQ, R216. -/
  | dcmpeq (d a b : Reg)
  /-- DCMPNE, R216. -/
  | dcmpne (d a b : Reg)
  /-- DCMPLT, R216. -/
  | dcmplt (d a b : Reg)
  /-- DCMPLE, R216. -/
  | dcmple (d a b : Reg)
  /-- DCMPUN, R216. -/
  | dcmpun (d a b : Reg)
  /-- MOV, R217. -/
  | mov (d a : Reg)
  /-- SEL, R217. -/
  | sel (d a b : Reg)
  /-- RDIND, R218. -/
  | rdind (d a : Reg)
  /-- WRIND, R218. -/
  | wrind (a b : Reg)
  /-- MOV64, R217. -/
  | mov64 (d a : Reg)
  /-- SHFL_IDX, R219. -/
  | shflIdx (d a b : Reg)
  /-- SHFL_UP, R219. -/
  | shflUp (d a b : Reg)
  /-- SHFL_DOWN, R219. -/
  | shflDown (d a b : Reg)
  /-- SHFL_XOR, R219. -/
  | shflXor (d a b : Reg)
  /-- VOTE_BALLOT, R220. -/
  | voteBallot (d a : Reg)
  /-- VOTE_ANY, R220. -/
  | voteAny (d a : Reg)
  /-- VOTE_ALL, R220. -/
  | voteAll (d a : Reg)
  /-- ELECT, R220. -/
  | elect (d : Reg)
  /-- REDADD, R221. -/
  | redadd (d a : Reg)
  /-- REDMIN, R221. -/
  | redmin (d a : Reg)
  /-- REDMAX, R221. -/
  | redmax (d a : Reg)
  /-- REDMINU, R221. -/
  | redminu (d a : Reg)
  /-- REDMAXU, R221. -/
  | redmaxu (d a : Reg)
  /-- REDAND, R221. -/
  | redand (d a : Reg)
  /-- REDOR, R221. -/
  | redor (d a : Reg)
  /-- REDXOR, R221. -/
  | redxor (d a : Reg)
  /-- SCANADD, R221. -/
  | scanadd (d a : Reg)
  /-- FREDADD, R222. -/
  | fredadd (d a : Reg) (rnd : RMod)
  /-- FREDMIN, R222. -/
  | fredmin (d a : Reg) (rnd : RMod)
  /-- FREDMAX, R222. -/
  | fredmax (d a : Reg) (rnd : RMod)
  /-- IADDI, R213. -/
  | iaddi (d a : Reg) (imm : BitVec 11)
  /-- ANDI, R213. -/
  | andi (d a : Reg) (imm : BitVec 11)
  /-- ORI, R213. -/
  | ori (d a : Reg) (imm : BitVec 11)
  /-- XORI, R213. -/
  | xori (d a : Reg) (imm : BitVec 11)
  /-- SHLI, R213. -/
  | shli (d a : Reg) (imm : BitVec 5)
  /-- CMPEQI, R213. -/
  | cmpeqi (d a : Reg) (imm : BitVec 11)
  /-- IMULI, R213. -/
  | imuli (d a : Reg) (imm : BitVec 11)
  /-- MOVI, R214. -/
  | movi (d : Reg) (imm : BitVec 18)
  /-- MOVH, R214. -/
  | movh (d : Reg) (imm : BitVec 18)
  /-- MOVPC, R214. -/
  | movpc (d : Reg) (imm : BitVec 18)
  /-- FADD, R240. -/
  | fadd (d a b : Reg)
  /-- FSUB, R240. -/
  | fsub (d a b : Reg)
  /-- FMUL, R240. -/
  | fmul (d a b : Reg)
  /-- FFMA, R240. -/
  | ffma (d a b : Reg)
  /-- FNMA, R240. -/
  | fnma (d a b : Reg)
  /-- FDIV, R240. -/
  | fdiv (d a b : Reg)
  /-- FSQRT, R240. -/
  | fsqrt (d a : Reg)
  /-- FMIN, R241. -/
  | fmin (d a b : Reg)
  /-- FMAX, R241. -/
  | fmax (d a b : Reg)
  /-- FABS, R241. -/
  | fabs (d a : Reg)
  /-- FNEG, R241. -/
  | fneg (d a : Reg)
  /-- FRND, R240. -/
  | frnd (d a : Reg)
  /-- FCLASS, R241. -/
  | fclass (d a : Reg)
  /-- FSCALE, R241. -/
  | fscale (d a b : Reg)
  /-- FCOPYSIGN, R241. -/
  | fcopysign (d a b : Reg)
  /-- FMINNUM, R241. -/
  | fminnum (d a b : Reg)
  /-- FMAXNUM, R241. -/
  | fmaxnum (d a b : Reg)
  /-- DADD, R240. -/
  | dadd (d a b : Reg)
  /-- DSUB, R240. -/
  | dsub (d a b : Reg)
  /-- DMUL, R240. -/
  | dmul (d a b : Reg)
  /-- DFMA, R240. -/
  | dfma (d a b : Reg)
  /-- DNMA, R240. -/
  | dnma (d a b : Reg)
  /-- DDIV, R240. -/
  | ddiv (d a b : Reg)
  /-- DSQRT, R240. -/
  | dsqrt (d a : Reg)
  /-- DMIN, R241. -/
  | dmin (d a b : Reg)
  /-- DMAX, R241. -/
  | dmax (d a b : Reg)
  /-- DABS, R241. -/
  | dabs (d a : Reg)
  /-- DNEG, R241. -/
  | dneg (d a : Reg)
  /-- DRND, R240. -/
  | drnd (d a : Reg)
  /-- DCLASS, R241. -/
  | dclass (d a : Reg)
  /-- DSCALE, R241. -/
  | dscale (d a b : Reg)
  /-- DCOPYSIGN, R241. -/
  | dcopysign (d a b : Reg)
  /-- DMINNUM, R241. -/
  | dminnum (d a b : Reg)
  /-- DMAXNUM, R241. -/
  | dmaxnum (d a b : Reg)
  /-- HADD2, R242. -/
  | hadd2 (d a b : Reg)
  /-- HSUB2, R242. -/
  | hsub2 (d a b : Reg)
  /-- HMUL2, R242. -/
  | hmul2 (d a b : Reg)
  /-- HFMA2, R242. -/
  | hfma2 (d a b : Reg)
  /-- HMIN2, R242. -/
  | hmin2 (d a b : Reg)
  /-- HMAX2, R242. -/
  | hmax2 (d a b : Reg)
  /-- BADD2, R242. -/
  | badd2 (d a b : Reg)
  /-- BSUB2, R242. -/
  | bsub2 (d a b : Reg)
  /-- BMUL2, R242. -/
  | bmul2 (d a b : Reg)
  /-- BFMA2, R242. -/
  | bfma2 (d a b : Reg)
  /-- BMIN2, R242. -/
  | bmin2 (d a b : Reg)
  /-- BMAX2, R242. -/
  | bmax2 (d a b : Reg)
  /-- HDOT2F, R243. -/
  | hdot2f (d a b : Reg) (rnd : RMod)
  /-- BDOT2F, R243. -/
  | bdot2f (d a b : Reg) (rnd : RMod)
  /-- FRCP, R244. -/
  | frcp (d a : Reg)
  /-- FRSQRT, R244. -/
  | frsqrt (d a : Reg)
  /-- FEXP2, R244. -/
  | fexp2 (d a : Reg)
  /-- FLOG2, R244. -/
  | flog2 (d a : Reg)
  /-- FSINPI, R244. -/
  | fsinpi (d a : Reg)
  /-- FCOSPI, R244. -/
  | fcospi (d a : Reg)
  /-- FRCP_A, R244. -/
  | frcpA (d a : Reg)
  /-- FRSQRT_A, R244. -/
  | frsqrtA (d a : Reg)
  /-- FEXP2_A, R244. -/
  | fexp2A (d a : Reg)
  /-- FLOG2_A, R244. -/
  | flog2A (d a : Reg)
  /-- FSIN_A, R244. -/
  | fsinA (d a : Reg)
  /-- FCOS_A, R244. -/
  | fcosA (d a : Reg)
  /-- FTANH_A, R244. -/
  | ftanhA (d a : Reg)
  /-- F2D, R246. -/
  | f2d (d a : Reg)
  /-- D2F, R247. -/
  | d2f (d a : Reg)
  /-- F2H, R247. -/
  | f2h (d a b : Reg)
  /-- H2F, R246. -/
  | h2f (d a : Reg)
  /-- F2BF, R247. -/
  | f2bf (d a b : Reg)
  /-- BF2F, R246. -/
  | bf2f (d a : Reg)
  /-- F2E4, R248. -/
  | f2e4 (d a b : Reg)
  /-- F2E5, R248. -/
  | f2e5 (d a b : Reg)
  /-- E42F, R246. -/
  | e42f (d a : Reg)
  /-- E52F, R246. -/
  | e52f (d a : Reg)
  /-- F2I, R249. -/
  | f2i (d a : Reg)
  /-- F2U, R249. -/
  | f2u (d a : Reg)
  /-- I2F, R249. -/
  | i2f (d a : Reg)
  /-- U2F, R249. -/
  | u2f (d a : Reg)
  /-- D2I, R249. -/
  | d2i (d a : Reg) (rnd : RMod)
  /-- D2U, R249. -/
  | d2u (d a : Reg) (rnd : RMod)
  /-- I2D, R246. -/
  | i2d (d a : Reg)
  /-- U2D, R246. -/
  | u2d (d a : Reg)
  /-- F2L, R249. -/
  | f2l (d a : Reg) (rnd : RMod)
  /-- F2UL, R249. -/
  | f2ul (d a : Reg) (rnd : RMod)
  /-- L2F, R246. -/
  | l2f (d a : Reg) (rnd : RMod)
  /-- UL2F, R246. -/
  | ul2f (d a : Reg) (rnd : RMod)
  /-- D2L, R249. -/
  | d2l (d a : Reg) (rnd : RMod)
  /-- D2UL, R249. -/
  | d2ul (d a : Reg) (rnd : RMod)
  /-- L2D, R246. -/
  | l2d (d a : Reg) (rnd : RMod)
  /-- UL2D, R246. -/
  | ul2d (d a : Reg) (rnd : RMod)
  /-- FP_EXTENDED_ROUNDING_FORM, R238. -/
  | fpExtendedRoundingForm (maj : FpMajor) (op : BitVec 4) (d a b : Reg) (rnd : RMod) (fl : BitVec 2)
  /-- AADDF, R250. -/
  | aaddf (d a b : Reg)
  /-- AADDD, R250. -/
  | aaddd (d a b : Reg)
  /-- AADDH, R250. -/
  | aaddh (d a b : Reg)
  /-- AADDBF, R250. -/
  | aaddbf (d a b : Reg)
  /-- AADDQ, R250. -/
  | aaddq (d a : Reg)
  /-- ARED, R252. -/
  | ared (d a : Reg)
  /-- ACVTF, R250. -/
  | acvtf (d a b : Reg)
  /-- ACVTD, R250. -/
  | acvtd (d a b : Reg)
  /-- BRA, R224. -/
  | bra (off : BitVec 18)
  /-- BRM, R225. -/
  | brm (r : Reg) (off : BitVec 18)
  /-- CALL, R226. -/
  | call (r : Reg) (off : BitVec 18)
  /-- JOIN, R149. -/
  | join
  /-- REGANG, R152. -/
  | regang
  /-- REGANG_WG, R153. -/
  | regangWg
  /-- RET, R227. -/
  | ret (a : Reg)
  /-- JMPI, R227. -/
  | jmpi (a : Reg)
  /-- EXIT, R229. -/
  | exit
  /-- YIELD, R230. -/
  | yield
  /-- TRAP, R231. -/
  | trap (n : BitVec 14)
  /-- BRK, R231. -/
  | brk (n : BitVec 14)
  /-- RTT, R366. -/
  | rtt
  /-- SYSRD, R233. -/
  | sysrd (d : Reg) (csr : BitVec 12)
  /-- SYSRD_CYCLELO, R205. -/
  | sysrdCyclelo (d : Reg)
  /-- SYSWR, R233. -/
  | syswr (d : Reg) (csr : BitVec 12)
  /-- SYSWR_FPFLAGS, R233. -/
  | syswrFpflags (d : Reg)
  /-- SYSWR_GANGCTL, R233. -/
  | syswrGangctl (d : Reg)
  /-- FENCE_ACQ, R266. -/
  | fenceAcq (scope : Scope)
  /-- FENCE_REL, R266. -/
  | fenceRel (scope : Scope)
  /-- FENCE_SC, R266. -/
  | fenceSc (scope : Scope)
  /-- SPAN_OPEN, R78. -/
  | spanOpen (d : Reg)
  /-- SPAN_CLOSE, R78. -/
  | spanClose
  /-- LEASE_SET, R268. -/
  | leaseSet (d : Reg) (mode : LeaseMode)
  /-- LEASE_GET, R268. -/
  | leaseGet (d : Reg)
  /-- REGS_GROW, R269. -/
  | regsGrow (d : Reg)
  /-- REGS_SHRINK, R269. -/
  | regsShrink (d : Reg)
  /-- GRID_LAUNCH, R235. -/
  | gridLaunch (d s : Reg)
  /-- LD, R256. -/
  | ld (m : MemOp)
  /-- LDS, R256. -/
  | lds (m : MemOp)
  /-- ST, R256. -/
  | st (m : MemOp)
  /-- STQ, R256. -/
  | stq (m : MemOp)
  /-- LD_BYP, R259. -/
  | ldByp (m : MemOp)
  /-- LD_ACQ, R260. -/
  | ldAcq (scope : Scope) (m : MemOp)
  /-- ST_REL, R261. -/
  | stRel (scope : Scope) (m : MemOp)
  /-- ATOM, R263. -/
  | atom (x : AtomArgs)
  /-- LDL, R257. -/
  | ldl (m : MemOp)
  /-- STL, R257. -/
  | stl (m : MemOp)
  /-- ATOML, R263. -/
  | atoml (x : AtomArgs)
  /-- PREF_L1, R264. -/
  | prefL1 (m : MemOp)
  /-- PREF_LLC, R264. -/
  | prefLlc (m : MemOp)
  /-- SURF_LD, R316. -/
  | surfLd (d a b : Reg)
  /-- SURF_ST, R316. -/
  | surfSt (d a b : Reg)
  /-- SURF_STC, R316. -/
  | surfStc (d a b : Reg)
  /-- SURF_MV, R316. -/
  | surfMv (d a b : Reg)
  /-- TEX, R319. -/
  | tex (d a b : Reg)
  /-- RAST_KICK, R322. -/
  | rastKick (d a : Reg)
  /-- FGRID, R295. -/
  | fgrid (d a b : Reg)
  /-- FGRID_2D, R295. -/
  | fgrid2d (d a b : Reg)
  /-- UNPACK, R314. -/
  | unpack (d a b : Reg)
  /-- PACK, R314. -/
  | pack (d a b : Reg)
  /-- MMA, R287. -/
  | mma (la func : BitVec 4) (a b : Reg) (flags : BitVec 3)
  /-- MMA_B, R289. -/
  | mmaB (la func : BitVec 4) (a b : Reg) (flags : BitVec 3)
  /-- ACC_WIN, R276. -/
  | accWin (la : BitVec 4) (a : Reg)
  /-- ACC_ZERO, R292. -/
  | accZero (la : BitVec 4) (b : Reg)
  /-- ACC_LD, R292. -/
  | accLd (la : BitVec 4) (a b : Reg)
  /-- ACC_ST, R292. -/
  | accSt (la : BitVec 4) (a b : Reg)
  /-- ACC_TOLM, R292. -/
  | accTolm (la : BitVec 4) (a b : Reg)
  /-- ACC_FROMLM, R292. -/
  | accFromlm (la : BitVec 4) (a b : Reg)
  /-- ACC_CVT, R293. -/
  | accCvt (la : BitVec 4) (fmt : BitVec 2) (a b : Reg)
  /-- SCACC, R291. -/
  | scacc (la : BitVec 4) (zp : Bool) (a b : Reg)
  /-- TSCALE_BIND, R290. -/
  | tscaleBind (la : BitVec 4) (a b : Reg)
  /-- WBUF_LD, R284. -/
  | wbufLd (la : BitVec 4) (a b : Reg)
  /-- WBUF_LDSP, R284. -/
  | wbufLdsp (la : BitVec 4) (a b : Reg)
  /-- CPY_KICK, R308. -/
  | cpyKick (a b : Reg)
  /-- CPY_STAT, R309. -/
  | cpyStat (done : Bool) (b a : Reg)
  /-- BAR_INIT, R272. -/
  | barInit (bar : BarName) (b : Reg)
  /-- BAR_EXPECT, R272. -/
  | barExpect (bar : BarName) (b : Reg)
  /-- BAR_ARRIVE, R272. -/
  | barArrive (bar : BarName)
  /-- BAR_WAIT, R272. -/
  | barWait (bar : BarName)
  /-- BAR_TEST, R272. -/
  | barTest (b : Reg) (bar : BarName)
  /-- SPRING, R335. -/
  | spring (s : BitVec 6) (d a b : Reg)
  /-- HOST_CXL_MEM_ACCESS, R23. -/
  | hostCxlMemAccess (agent : Byte) (pa : Nat) (wr : Option (List Byte)) (len : Nat)
  /-- PARTNER_SNOOP, R380. -/
  | partnerSnoop (pa : Nat)
  /-- FLIT_RETRY, R379. -/
  | flitRetry (port : Nat) (flit : Nat)
deriving DecidableEq, Repr

end Sys2Proof
end

