-- ==== Sys2Proof/WellFormed.lean ====
section
/-! DEFINITION. When an `Instr` is one the encoding can express and the decoder accepts: pair and quad fields (R189),
assigned sizes (R253), the forms of the floating-point extended words (R238, R246, R248), and the ranges and
alignments of firmware operands (R384). -/

namespace Sys2Proof

/-- A field that names a pair holds an even register (R189). -/
def evenReg (r : Reg) : Bool := r.toNat % 2 == 0

/-- A field that names a quad holds a multiple of 4 (R189). -/
def quadReg (r : Reg) : Bool := r.toNat % 4 == 0

/-- The data register of an M-format word against its pair or quad rule (R253). -/
def MemOp.regOK (m : MemOp) (pair quad : Bool) : Bool :=
  (!pair || evenReg m.d) && (!quad || quadReg m.d)

/-- The data registers of an atomic: d and value are pairs for .D; CAS names a pair for .W and a quad for .D (R262). -/
def AtomArgs.regOK (x : AtomArgs) : Bool :=
  match x.op, x.dbl with
  | .cas, false => evenReg x.c
  | .cas, true => evenReg x.d && quadReg x.c
  | _, false => true
  | _, true => evenReg x.d && evenReg x.c

/-- The shape of a floating-point form: whether it reads b, the widths of d, a, b in registers, whether it rounds,
and whether it takes .SAT and .HI (R240 to R250). -/
structure FpForm where
  usesB : Bool
  wd : Nat
  wa : Nat
  wb : Nat
  rounds : Bool
  sat : Bool
  hi : Bool
  readsD : Bool
deriving DecidableEq, Repr

/-- Alignment of one field of width 1, 2 or 4 registers (R189). -/
def widthOK (w : Nat) (r : Reg) : Bool := r.toNat % w == 0

def FpForm.regOK (f : FpForm) (d a b : Reg) : Bool :=
  widthOK f.wd d && widthOK f.wa a && (!f.usesB || widthOK f.wb b)

/-- The forms that func k of the floating-point majors names, k = 0x0 to 0xE (R240, R242, R244, R246, R250). -/
def fpForm (maj : FpMajor) (op : BitVec 4) : Option FpForm :=
  let k := op.toNat
  match maj with
  | .fp32 => if k = 15 then none else
      some ⟨!(k == 6 || k == 9 || k == 10 || k == 11 || k == 12), 1, 1, 1, k ≤ 6 || k == 11 || k == 13, false, false,
        k == 3 || k == 4⟩
  | .fp64 => if k = 15 then none else
      some ⟨!(k == 6 || k == 9 || k == 10 || k == 11 || k == 12), (if k = 12 then 1 else 2), 2, (if k = 13 then 1 else 2),
        k ≤ 6 || k == 11 || k == 13, false, false, k == 3 || k == 4⟩
  | .packed => if k % 8 ≤ 5 then some ⟨true, 1, 1, 1, k % 8 ≤ 3, false, false, k % 8 == 3⟩ else none
  | .special => if k ≤ 5 ∨ (8 ≤ k ∧ k ≤ 14) then some ⟨false, 1, 1, 1, k ≤ 5, false, false, false⟩ else none
  | .conv =>
    match k with
    | 0 => some ⟨false, 2, 1, 1, false, false, false, false⟩
    | 1 => some ⟨false, 1, 2, 1, true, true, false, false⟩
    | 2 => some ⟨true, 1, 1, 1, true, true, false, false⟩
    | 3 => some ⟨false, 2, 1, 1, false, false, false, false⟩
    | 4 => some ⟨true, 1, 1, 1, true, true, false, false⟩
    | 5 => some ⟨false, 2, 1, 1, false, false, false, false⟩
    | 6 => some ⟨true, 1, 1, 1, true, true, true, true⟩
    | 7 => some ⟨true, 1, 1, 1, true, true, true, true⟩
    | 8 => some ⟨false, 4, 1, 1, false, false, false, false⟩
    | 9 => some ⟨false, 4, 1, 1, false, false, false, false⟩
    | 10 => some ⟨false, 1, 1, 1, true, false, false, false⟩
    | 11 => some ⟨false, 1, 1, 1, true, false, false, false⟩
    | 12 => some ⟨false, 1, 1, 1, true, false, false, false⟩
    | 13 => some ⟨false, 1, 1, 1, true, false, false, false⟩
    | _ => none
  | .anchored =>
    match k with
    | 0 => some ⟨true, 4, 1, 1, false, false, false, true⟩
    | 1 => some ⟨true, 4, 2, 1, false, false, false, true⟩
    | 2 => some ⟨true, 4, 1, 1, false, false, false, true⟩
    | 3 => some ⟨true, 4, 1, 1, false, false, false, true⟩
    | 4 => some ⟨false, 4, 4, 1, false, false, false, true⟩
    | 5 => some ⟨false, 4, 4, 1, false, false, false, false⟩
    | 6 => some ⟨true, 1, 4, 1, true, false, false, false⟩
    | 7 => some ⟨true, 2, 4, 1, true, false, false, false⟩
    | _ => none

/-- Every pair and quad field of an instruction is aligned (R189); otherwise the word raises ILLEGAL 0x05. -/
def Instr.aligned : Instr → Bool
  | .iadd64 d a b => evenReg d && evenReg a && evenReg b
  | .isub64 d a b => evenReg d && evenReg a && evenReg b
  | .imul64 d a b => evenReg d && evenReg a && evenReg b
  | .shl64 d a _ => evenReg d && evenReg a
  | .shr64 d a _ => evenReg d && evenReg a
  | .sar64 d a _ => evenReg d && evenReg a
  | .imin64 d a b => evenReg d && evenReg a && evenReg b
  | .imax64 d a b => evenReg d && evenReg a && evenReg b
  | .iminu64 d a b => evenReg d && evenReg a && evenReg b
  | .imaxu64 d a b => evenReg d && evenReg a && evenReg b
  | .imulw d _ _ => evenReg d
  | .imulwu d _ _ => evenReg d
  | .cmpeq64 _ a b => evenReg a && evenReg b
  | .cmplt64 _ a b => evenReg a && evenReg b
  | .cmpltu64 _ a b => evenReg a && evenReg b
  | .cmple64 _ a b => evenReg a && evenReg b
  | .cmpleu64 _ a b => evenReg a && evenReg b
  | .dcmpeq _ a b => evenReg a && evenReg b
  | .dcmpne _ a b => evenReg a && evenReg b
  | .dcmplt _ a b => evenReg a && evenReg b
  | .dcmple _ a b => evenReg a && evenReg b
  | .dcmpun _ a b => evenReg a && evenReg b
  | .mov64 d a => evenReg d && evenReg a
  | .movpc d _ => evenReg d
  | .dadd d a b => evenReg d && evenReg a && evenReg b
  | .dsub d a b => evenReg d && evenReg a && evenReg b
  | .dmul d a b => evenReg d && evenReg a && evenReg b
  | .dfma d a b => evenReg d && evenReg a && evenReg b
  | .dnma d a b => evenReg d && evenReg a && evenReg b
  | .ddiv d a b => evenReg d && evenReg a && evenReg b
  | .dsqrt d a => evenReg d && evenReg a
  | .dmin d a b => evenReg d && evenReg a && evenReg b
  | .dmax d a b => evenReg d && evenReg a && evenReg b
  | .dabs d a => evenReg d && evenReg a
  | .dneg d a => evenReg d && evenReg a
  | .drnd d a => evenReg d && evenReg a
  | .dclass _ a => evenReg a
  | .dscale d a _ => evenReg d && evenReg a
  | .dcopysign d a b => evenReg d && evenReg a && evenReg b
  | .dminnum d a b => evenReg d && evenReg a && evenReg b
  | .dmaxnum d a b => evenReg d && evenReg a && evenReg b
  | .f2d d _ => evenReg d
  | .d2f _ a => evenReg a
  | .h2f d _ => evenReg d
  | .bf2f d _ => evenReg d
  | .e42f d _ => quadReg d
  | .e52f d _ => quadReg d
  | .d2i _ a _ => evenReg a
  | .d2u _ a _ => evenReg a
  | .i2d d _ => evenReg d
  | .u2d d _ => evenReg d
  | .f2l d _ _ => evenReg d
  | .f2ul d _ _ => evenReg d
  | .l2f _ a _ => evenReg a
  | .ul2f _ a _ => evenReg a
  | .d2l d a _ => evenReg d && evenReg a
  | .d2ul d a _ => evenReg d && evenReg a
  | .l2d d a _ => evenReg d && evenReg a
  | .ul2d d a _ => evenReg d && evenReg a
  | .fpExtendedRoundingForm maj op d a b _ _ => match fpForm maj op with
      | some f => f.regOK d a b
      | none => true
  | .aaddf d _ _ => quadReg d
  | .aaddd d a _ => quadReg d && evenReg a
  | .aaddh d _ _ => quadReg d
  | .aaddbf d _ _ => quadReg d
  | .aaddq d a => quadReg d && quadReg a
  | .ared d a => quadReg d && quadReg a
  | .acvtf _ a _ => quadReg a
  | .acvtd d a _ => evenReg d && quadReg a
  | .call r _ => evenReg r
  | .ret a => evenReg a
  | .jmpi a => evenReg a
  | .gridLaunch d _ => evenReg d
  | .ld m => m.regOK (m.sz == 3#2) false
  | .lds m => m.regOK false (m.sz == 3#2)
  | .st m => m.regOK (m.sz == 3#2) false
  | .stq m => m.regOK false true
  | .ldByp m => m.regOK (m.sz == 2#2) (m.sz == 3#2)
  | .ldAcq _ m => m.regOK (m.sz == 3#2) false
  | .stRel _ m => m.regOK (m.sz == 3#2) false
  | .atom x => x.regOK
  | .ldl m => m.regOK (m.sz == 3#2) false
  | .stl m => m.regOK (m.sz == 3#2) false
  | .atoml x => x.regOK
  | .surfLd _ a b => evenReg a && evenReg b
  | .surfSt _ a b => evenReg a && evenReg b
  | .surfStc _ a b => evenReg a && evenReg b
  | .surfMv _ a b => evenReg a && evenReg b
  | .tex d a b => quadReg d && evenReg a && quadReg b
  | .rastKick _ a => evenReg a
  | .fgrid _ a b => quadReg a && evenReg b
  | .fgrid2d _ a b => quadReg a && evenReg b
  | .accLd _ a _ => evenReg a
  | .accSt _ a _ => evenReg a
  | .tscaleBind _ a _ => evenReg a
  | .wbufLd _ a _ => evenReg a
  | .wbufLdsp _ a _ => evenReg a
  | _ => true

/-- The bits of flags that an MMA form reads: .REUSE in every form, flags[1:0] in the FP8, INT8 and INT16X8 forms (R286). -/
def mmaFlagBits (func : BitVec 4) : BitVec 3 := if [3, 4, 7, 8, 11, 12, 15].contains func.toNat then 7#3 else 4#3

/-- The operand values that the encoding of the row can hold: sizes its major assigns (R253), reserved bits of LA
(R255), CSR numbers that have no row of their own, and the options of an extended floating-point form (R238, R248). -/
def Instr.expressible : Instr → Bool
  | .lds m => m.sz != 2#2
  | .stq m => m.sz == 3#2
  | .ldAcq _ m => m.la == 0#4
  | .stRel _ m => m.la == 0#4
  | .prefL1 m => m.d == 0#7 && m.sz == 0#2
  | .prefLlc m => m.d == 0#7 && m.sz == 0#2
  | .mma _ func _ _ flags => flags &&& mmaFlagBits func == flags
  | .mmaB _ func _ _ flags => flags &&& mmaFlagBits func == flags
  | .sysrd _ csr => csr != 0x020#12
  | .leaseSet d mode => mode != .measured || d == 0#7
  | .syswr _ csr => csr != 0x111#12 && csr != 0x160#12
  | .fpExtendedRoundingForm maj op _ _ b rnd fl =>
    match fpForm maj op with
    | some f => (f.usesB || b == 0#7) && (f.rounds || rnd == .dyn) && (f.sat || !fl.getLsbD 0) && (f.hi || !fl.getLsbD 1)
    | none => false
  | _ => true

/-- A multiple of 2^k. -/
def alignedTo (k : Nat) (x : DWord) : Bool := x.toNat % 2 ^ k == 0

/-- The ranges and alignments of R384, with CTX = 0 in the device-wide commands. -/
def Instr.commandOK : Instr → Bool
  | .deviceInit h => h.ctx == 0#32
  | .contextCreate h root saveBase saveSize poolBase _ =>
      h.ctx == 0#32 && alignedTo 20 root && alignedTo 12 saveBase && saveSize != 0#64 && saveSize.toNat % (6 * 1048576) == 0
        && alignedTo 12 poolBase
  | .regionCreate _ image rcb => alignedTo 3 image && alignedTo 7 rcb
  | .launch _ desc => alignedTo 6 desc
  | .pageMigrate _ _ owner => owner.toNat ≤ 7
  | .keyLoad h slot keys => h.ctx == 0#32 && slot.toNat < 64 && alignedTo 3 keys
  | .attest h buf _ => h.ctx == 0#32 && alignedTo 3 buf
  | .errorQuery h buf n fdom =>
      alignedTo 6 buf && 1 ≤ n.toNat && n.toNat ≤ 65536 && (fdom.toNat ≤ 15 || fdom == 0xFF#8)
        && (h.ctx != 0#32 || fdom == 0xFF#8)
  | .capacityMap h buf => h.ctx == 0#32 && alignedTo 3 buf
  | .poisonClear h page data key => h.ctx == 0#32 && alignedTo 12 page && alignedTo 3 data && key.toNat < 64
  | _ => true

/-- An instruction or command that the encodings express and the decoders accept. -/
def Instr.wellFormed (i : Instr) : Bool := i.aligned && i.expressible && i.commandOK

end Sys2Proof
end

