-- ==== Sys2Proof/Decode.lean ====
section
/-! DEFINITION. The decoder of instruction words (R180 to R193, R201 to R203) and of firmware submission entries
(R382 to R384), and the encoders written from the same tables. A word is read in two parts: `decodeRaw` reads the
fields of the form that major, func, OP and sz select, and a reserved bit is found by comparing the word with the
encoding of what was read, so every bit of a word is either an operand, an opcode or a zero. -/

namespace Sys2Proof

/-! ## Fields -/

def fMajor (w : Word) : BitVec 6 := w.extractLsb' 25 6
def fFunc (w : Word) : BitVec 4 := w.extractLsb' 21 4
def fD (w : Word) : Reg := w.extractLsb' 14 7
def fA (w : Word) : Reg := w.extractLsb' 7 7
def fB (w : Word) : Reg := w.extractLsb' 0 7
def fID (w : Word) : Reg := w.extractLsb' 18 7
def fIA (w : Word) : Reg := w.extractLsb' 11 7
/-- C: the instruction issues with the next one (R184). -/
def fChain (w : Word) : Bool := w.getLsbD 31
def xOp (x : Word) : BitVec 8 := x.extractLsb' 24 8
def xMod (x : Word) : BitVec 3 := x.extractLsb' 21 3
def xC (x : Word) : Reg := x.extractLsb' 14 7
def xFl (x : Word) : BitVec 2 := x.extractLsb' 12 2

def encScope : Scope → BitVec 3
  | .lane => 0#3 | .wg => 1#3 | .cohort => 2#3 | .dev => 3#3 | .sys => 4#3

/-- Reserved codes 101 to 111 read as LANE here; the comparison with the re-encoded word then rejects them. -/
def decScope (b : BitVec 3) : Scope :=
  match b.toNat with
  | 1 => .wg | 2 => .cohort | 3 => .dev | 4 => .sys | _ => .lane

def encMod : RMod → BitVec 3
  | .dyn => 0#3 | .rn => 4#3 | .rz => 5#3 | .rp => 6#3 | .rm => 7#3

def decMod (b : BitVec 3) : RMod :=
  match b.toNat with
  | 4 => .rn | 5 => .rz | 6 => .rp | 7 => .rm | _ => .dyn

def encLease : LeaseMode → BitVec 2
  | .measured => 0#2 | .declared => 1#2 | .floor => 2#2

def decLease (b : BitVec 2) : LeaseMode :=
  match b.toNat with
  | 1 => .declared | 2 => .floor | _ => .measured

def encOrd : AtomOrd → BitVec 2
  | .relaxed => 0#2 | .acq => 1#2 | .rel => 2#2 | .acqRel => 3#2

def decOrd (b : BitVec 2) : AtomOrd :=
  match b.toNat with
  | 1 => .acq | 2 => .rel | 3 => .acqRel | _ => .relaxed

def encAtomOp : AtomOp → BitVec 8
  | .add => 1#8 | .xchg => 2#8 | .cas => 3#8 | .and => 4#8 | .or => 5#8 | .xor => 6#8
  | .min => 7#8 | .max => 8#8 | .minu => 9#8 | .maxu => 10#8

def decAtomOp (b : BitVec 8) : Option AtomOp :=
  match b.toNat with
  | 1 => some .add | 2 => some .xchg | 3 => some .cas | 4 => some .and | 5 => some .or | 6 => some .xor
  | 7 => some .min | 8 => some .max | 9 => some .minu | 10 => some .maxu | _ => none

def encFpMajor : FpMajor → BitVec 6
  | .fp32 => 0x14#6 | .fp64 => 0x15#6 | .packed => 0x16#6 | .special => 0x17#6 | .conv => 0x18#6 | .anchored => 0x19#6

def BarName.index : BarName → Reg
  | .own n => n
  | .basin _ n => n

def BarName.flags : BarName → BitVec 3
  | .own _ => 0#3
  | .basin q _ => 1#1 ++ q

def decBar (w : Word) : BarName :=
  if w.getLsbD 2 then .basin (w.extractLsb' 0 2) (w.extractLsb' 10 7) else .own (w.extractLsb' 10 7)

/-! ## The formats of R187 as encoders -/

def encA3 (c : Bool) (maj : BitVec 6) (func : BitVec 4) (d a b : Reg) : Word :=
  BitVec.ofBool c ++ maj ++ func ++ d ++ a ++ b

def encI (c : Bool) (maj : BitVec 6) (d a : Reg) (imm : BitVec 11) : Word := BitVec.ofBool c ++ maj ++ d ++ a ++ imm

/-- Formats L and B have one layout: a register field over 18 bits. -/
def encL (c : Bool) (maj : BitVec 6) (d : Reg) (imm : BitVec 18) : Word := BitVec.ofBool c ++ maj ++ d ++ imm

def encS (c : Bool) (func : BitVec 6) (d : Reg) (csr : BitVec 12) : Word := BitVec.ofBool c ++ 0x21#6 ++ func ++ d ++ csr

def encT (c : Bool) (maj : BitVec 6) (la func : BitVec 4) (a b : Reg) (flags : BitVec 3) : Word :=
  BitVec.ofBool c ++ maj ++ la ++ func ++ a ++ b ++ flags

def encMWord (c : Bool) (maj : BitVec 6) (x : Bool) (la : BitVec 4) (d : Reg) (base : BitVec 4) (off : Reg) (sz : BitVec 2) :
    Word := BitVec.ofBool c ++ maj ++ BitVec.ofBool x ++ la ++ d ++ base ++ off ++ sz

def encM (c : Bool) (maj : BitVec 6) (la : BitVec 4) (sz : BitVec 2) (m : MemOp) : List Word :=
  match m.x with
  | none => [encMWord c maj false la m.d m.base m.off sz]
  | some imm => [encMWord c maj true la m.d m.base m.off sz, imm]

/-- The extension word of R193. -/
def encExt (op : BitVec 8) (md : BitVec 3) (cc : Reg) (fl : BitVec 2) : Word := op ++ md ++ cc ++ fl ++ 0#12

def encAtom (c : Bool) (maj : BitVec 6) (x : AtomArgs) : List Word :=
  [encMWord c maj false 0#4 x.d x.base x.off (if x.dbl then 3#2 else 2#2),
   encExt (encAtomOp x.op) (encScope x.scope) x.c (encOrd x.ord)]

/-- The words of an instruction, first word first; [] for a step that has no instruction word. -/
def encode (c : Bool) : Instr → List Word
  | .nop => [encA3 c 0x20#6 0x0#4 0#7 0#7 0#7]
  | .iadd d a b => [encA3 c 0x1#6 0x0#4 d a b]
  | .isub d a b => [encA3 c 0x1#6 0x1#4 d a b]
  | .imul d a b => [encA3 c 0x1#6 0x2#4 d a b]
  | .imulhi d a b => [encA3 c 0x1#6 0x3#4 d a b]
  | .imulhiu d a b => [encA3 c 0x1#6 0x4#4 d a b]
  | .imin d a b => [encA3 c 0x1#6 0x5#4 d a b]
  | .imax d a b => [encA3 c 0x1#6 0x6#4 d a b]
  | .iminu d a b => [encA3 c 0x1#6 0x7#4 d a b]
  | .imaxu d a b => [encA3 c 0x1#6 0x8#4 d a b]
  | .iabs d a => [encA3 c 0x1#6 0x9#4 d a 0#7]
  | .iadds d a b => [encA3 c 0x1#6 0xa#4 d a b]
  | .isubs d a b => [encA3 c 0x1#6 0xb#4 d a b]
  | .idivu d a b => [encA3 c 0x1#6 0xc#4 d a b]
  | .iremu d a b => [encA3 c 0x1#6 0xd#4 d a b]
  | .imad d a b => [encA3 c 0x1#6 0xe#4 d a b]
  | .idiv d a b => [encA3 c 0x1#6 0xF#4 d a b, encExt 0x1#8 0#3 0#7 0#2]
  | .irem d a b => [encA3 c 0x1#6 0xF#4 d a b, encExt 0x2#8 0#3 0#7 0#2]
  | .iaddsu d a b => [encA3 c 0x1#6 0xF#4 d a b, encExt 0x3#8 0#3 0#7 0#2]
  | .isubsu d a b => [encA3 c 0x1#6 0xF#4 d a b, encExt 0x4#8 0#3 0#7 0#2]
  | .and d a b => [encA3 c 0x2#6 0x0#4 d a b]
  | .or d a b => [encA3 c 0x2#6 0x1#4 d a b]
  | .xor d a b => [encA3 c 0x2#6 0x2#4 d a b]
  | .andn d a b => [encA3 c 0x2#6 0x3#4 d a b]
  | .not d a => [encA3 c 0x2#6 0x4#4 d a 0#7]
  | .shl d a b => [encA3 c 0x2#6 0x5#4 d a b]
  | .shr d a b => [encA3 c 0x2#6 0x6#4 d a b]
  | .sar d a b => [encA3 c 0x2#6 0x7#4 d a b]
  | .rol d a b => [encA3 c 0x2#6 0x8#4 d a b]
  | .popc d a => [encA3 c 0x2#6 0x9#4 d a 0#7]
  | .clz d a => [encA3 c 0x2#6 0xa#4 d a 0#7]
  | .brev d a => [encA3 c 0x2#6 0xb#4 d a 0#7]
  | .bfe d a b => [encA3 c 0x2#6 0xc#4 d a b]
  | .bfes d a b => [encA3 c 0x2#6 0xd#4 d a b]
  | .bfi d a b => [encA3 c 0x2#6 0xe#4 d a b]
  | .iadd64 d a b => [encA3 c 0x3#6 0x0#4 d a b]
  | .isub64 d a b => [encA3 c 0x3#6 0x1#4 d a b]
  | .imul64 d a b => [encA3 c 0x3#6 0x2#4 d a b]
  | .shl64 d a b => [encA3 c 0x3#6 0x3#4 d a b]
  | .shr64 d a b => [encA3 c 0x3#6 0x4#4 d a b]
  | .sar64 d a b => [encA3 c 0x3#6 0x5#4 d a b]
  | .imin64 d a b => [encA3 c 0x3#6 0x6#4 d a b]
  | .imax64 d a b => [encA3 c 0x3#6 0x7#4 d a b]
  | .iminu64 d a b => [encA3 c 0x3#6 0x8#4 d a b]
  | .imaxu64 d a b => [encA3 c 0x3#6 0x9#4 d a b]
  | .imulw d a b => [encA3 c 0x3#6 0xa#4 d a b]
  | .imulwu d a b => [encA3 c 0x3#6 0xb#4 d a b]
  | .cmpeq d a b => [encA3 c 0x4#6 0x0#4 d a b]
  | .cmpne d a b => [encA3 c 0x4#6 0x1#4 d a b]
  | .cmplt d a b => [encA3 c 0x4#6 0x2#4 d a b]
  | .cmple d a b => [encA3 c 0x4#6 0x3#4 d a b]
  | .cmpltu d a b => [encA3 c 0x4#6 0x4#4 d a b]
  | .cmpleu d a b => [encA3 c 0x4#6 0x5#4 d a b]
  | .cmpeq64 d a b => [encA3 c 0x4#6 0x6#4 d a b]
  | .cmplt64 d a b => [encA3 c 0x4#6 0x7#4 d a b]
  | .cmpltu64 d a b => [encA3 c 0x4#6 0x8#4 d a b]
  | .cmple64 d a b => [encA3 c 0x4#6 0x9#4 d a b]
  | .cmpleu64 d a b => [encA3 c 0x4#6 0xa#4 d a b]
  | .fcmpeq d a b => [encA3 c 0x5#6 0x0#4 d a b]
  | .fcmpne d a b => [encA3 c 0x5#6 0x1#4 d a b]
  | .fcmplt d a b => [encA3 c 0x5#6 0x2#4 d a b]
  | .fcmple d a b => [encA3 c 0x5#6 0x3#4 d a b]
  | .fcmpun d a b => [encA3 c 0x5#6 0x4#4 d a b]
  | .dcmpeq d a b => [encA3 c 0x5#6 0x8#4 d a b]
  | .dcmpne d a b => [encA3 c 0x5#6 0x9#4 d a b]
  | .dcmplt d a b => [encA3 c 0x5#6 0xa#4 d a b]
  | .dcmple d a b => [encA3 c 0x5#6 0xb#4 d a b]
  | .dcmpun d a b => [encA3 c 0x5#6 0xc#4 d a b]
  | .mov d a => [encA3 c 0x6#6 0x0#4 d a 0#7]
  | .sel d a b => [encA3 c 0x6#6 0x1#4 d a b]
  | .rdind d a => [encA3 c 0x6#6 0x2#4 d a 0#7]
  | .wrind a b => [encA3 c 0x6#6 0x3#4 0#7 a b]
  | .mov64 d a => [encA3 c 0x6#6 0x4#4 d a 0#7]
  | .shflIdx d a b => [encA3 c 0x7#6 0x0#4 d a b]
  | .shflUp d a b => [encA3 c 0x7#6 0x1#4 d a b]
  | .shflDown d a b => [encA3 c 0x7#6 0x2#4 d a b]
  | .shflXor d a b => [encA3 c 0x7#6 0x3#4 d a b]
  | .voteBallot d a => [encA3 c 0x7#6 0x4#4 d a 0#7]
  | .voteAny d a => [encA3 c 0x7#6 0x5#4 d a 0#7]
  | .voteAll d a => [encA3 c 0x7#6 0x6#4 d a 0#7]
  | .elect d => [encA3 c 0x7#6 0x7#4 d 0#7 0#7]
  | .redadd d a => [encA3 c 0x7#6 0x8#4 d a 0#7]
  | .redmin d a => [encA3 c 0x7#6 0x9#4 d a 0#7]
  | .redmax d a => [encA3 c 0x7#6 0xa#4 d a 0#7]
  | .redminu d a => [encA3 c 0x7#6 0xb#4 d a 0#7]
  | .redmaxu d a => [encA3 c 0x7#6 0xc#4 d a 0#7]
  | .redand d a => [encA3 c 0x7#6 0xd#4 d a 0#7]
  | .redor d a => [encA3 c 0x7#6 0xe#4 d a 0#7]
  | .redxor d a => [encA3 c 0x7#6 0xF#4 d a 0#7, encExt 0x1#8 0#3 0#7 0#2]
  | .scanadd d a => [encA3 c 0x7#6 0xF#4 d a 0#7, encExt 0x5#8 0#3 0#7 0#2]
  | .fredadd d a rnd => [encA3 c 0x7#6 0xF#4 d a 0#7, encExt 0x2#8 (encMod rnd) 0#7 0#2]
  | .fredmin d a rnd => [encA3 c 0x7#6 0xF#4 d a 0#7, encExt 0x3#8 (encMod rnd) 0#7 0#2]
  | .fredmax d a rnd => [encA3 c 0x7#6 0xF#4 d a 0#7, encExt 0x4#8 (encMod rnd) 0#7 0#2]
  | .iaddi d a imm => [encI c 0x8#6 d a imm]
  | .andi d a imm => [encI c 0x9#6 d a imm]
  | .ori d a imm => [encI c 0xa#6 d a imm]
  | .xori d a imm => [encI c 0xb#6 d a imm]
  | .shli d a imm => [encI c 0xC#6 d a (0#6 ++ imm)]
  | .cmpeqi d a imm => [encI c 0xd#6 d a imm]
  | .imuli d a imm => [encI c 0xe#6 d a imm]
  | .movi d imm => [encL c 0x10#6 d imm]
  | .movh d imm => [encL c 0x11#6 d imm]
  | .movpc d imm => [encL c 0x12#6 d imm]
  | .fadd d a b => [encA3 c 0x14#6 0x0#4 d a b]
  | .fsub d a b => [encA3 c 0x14#6 0x1#4 d a b]
  | .fmul d a b => [encA3 c 0x14#6 0x2#4 d a b]
  | .ffma d a b => [encA3 c 0x14#6 0x3#4 d a b]
  | .fnma d a b => [encA3 c 0x14#6 0x4#4 d a b]
  | .fdiv d a b => [encA3 c 0x14#6 0x5#4 d a b]
  | .fsqrt d a => [encA3 c 0x14#6 0x6#4 d a 0#7]
  | .fmin d a b => [encA3 c 0x14#6 0x7#4 d a b]
  | .fmax d a b => [encA3 c 0x14#6 0x8#4 d a b]
  | .fabs d a => [encA3 c 0x14#6 0x9#4 d a 0#7]
  | .fneg d a => [encA3 c 0x14#6 0xa#4 d a 0#7]
  | .frnd d a => [encA3 c 0x14#6 0xb#4 d a 0#7]
  | .fclass d a => [encA3 c 0x14#6 0xc#4 d a 0#7]
  | .fscale d a b => [encA3 c 0x14#6 0xd#4 d a b]
  | .fcopysign d a b => [encA3 c 0x14#6 0xe#4 d a b]
  | .fminnum d a b => [encA3 c 0x14#6 0xF#4 d a b, encExt 0x10#8 0#3 0#7 0#2]
  | .fmaxnum d a b => [encA3 c 0x14#6 0xF#4 d a b, encExt 0x11#8 0#3 0#7 0#2]
  | .dadd d a b => [encA3 c 0x15#6 0x0#4 d a b]
  | .dsub d a b => [encA3 c 0x15#6 0x1#4 d a b]
  | .dmul d a b => [encA3 c 0x15#6 0x2#4 d a b]
  | .dfma d a b => [encA3 c 0x15#6 0x3#4 d a b]
  | .dnma d a b => [encA3 c 0x15#6 0x4#4 d a b]
  | .ddiv d a b => [encA3 c 0x15#6 0x5#4 d a b]
  | .dsqrt d a => [encA3 c 0x15#6 0x6#4 d a 0#7]
  | .dmin d a b => [encA3 c 0x15#6 0x7#4 d a b]
  | .dmax d a b => [encA3 c 0x15#6 0x8#4 d a b]
  | .dabs d a => [encA3 c 0x15#6 0x9#4 d a 0#7]
  | .dneg d a => [encA3 c 0x15#6 0xa#4 d a 0#7]
  | .drnd d a => [encA3 c 0x15#6 0xb#4 d a 0#7]
  | .dclass d a => [encA3 c 0x15#6 0xc#4 d a 0#7]
  | .dscale d a b => [encA3 c 0x15#6 0xd#4 d a b]
  | .dcopysign d a b => [encA3 c 0x15#6 0xe#4 d a b]
  | .dminnum d a b => [encA3 c 0x15#6 0xF#4 d a b, encExt 0x10#8 0#3 0#7 0#2]
  | .dmaxnum d a b => [encA3 c 0x15#6 0xF#4 d a b, encExt 0x11#8 0#3 0#7 0#2]
  | .hadd2 d a b => [encA3 c 0x16#6 0x0#4 d a b]
  | .hsub2 d a b => [encA3 c 0x16#6 0x1#4 d a b]
  | .hmul2 d a b => [encA3 c 0x16#6 0x2#4 d a b]
  | .hfma2 d a b => [encA3 c 0x16#6 0x3#4 d a b]
  | .hmin2 d a b => [encA3 c 0x16#6 0x4#4 d a b]
  | .hmax2 d a b => [encA3 c 0x16#6 0x5#4 d a b]
  | .badd2 d a b => [encA3 c 0x16#6 0x8#4 d a b]
  | .bsub2 d a b => [encA3 c 0x16#6 0x9#4 d a b]
  | .bmul2 d a b => [encA3 c 0x16#6 0xa#4 d a b]
  | .bfma2 d a b => [encA3 c 0x16#6 0xb#4 d a b]
  | .bmin2 d a b => [encA3 c 0x16#6 0xc#4 d a b]
  | .bmax2 d a b => [encA3 c 0x16#6 0xd#4 d a b]
  | .hdot2f d a b rnd => [encA3 c 0x16#6 0xF#4 d a b, encExt 0x10#8 (encMod rnd) 0#7 0#2]
  | .bdot2f d a b rnd => [encA3 c 0x16#6 0xF#4 d a b, encExt 0x11#8 (encMod rnd) 0#7 0#2]
  | .frcp d a => [encA3 c 0x17#6 0x0#4 d a 0#7]
  | .frsqrt d a => [encA3 c 0x17#6 0x1#4 d a 0#7]
  | .fexp2 d a => [encA3 c 0x17#6 0x2#4 d a 0#7]
  | .flog2 d a => [encA3 c 0x17#6 0x3#4 d a 0#7]
  | .fsinpi d a => [encA3 c 0x17#6 0x4#4 d a 0#7]
  | .fcospi d a => [encA3 c 0x17#6 0x5#4 d a 0#7]
  | .frcpA d a => [encA3 c 0x17#6 0x8#4 d a 0#7]
  | .frsqrtA d a => [encA3 c 0x17#6 0x9#4 d a 0#7]
  | .fexp2A d a => [encA3 c 0x17#6 0xa#4 d a 0#7]
  | .flog2A d a => [encA3 c 0x17#6 0xb#4 d a 0#7]
  | .fsinA d a => [encA3 c 0x17#6 0xc#4 d a 0#7]
  | .fcosA d a => [encA3 c 0x17#6 0xd#4 d a 0#7]
  | .ftanhA d a => [encA3 c 0x17#6 0xe#4 d a 0#7]
  | .f2d d a => [encA3 c 0x18#6 0x0#4 d a 0#7]
  | .d2f d a => [encA3 c 0x18#6 0x1#4 d a 0#7]
  | .f2h d a b => [encA3 c 0x18#6 0x2#4 d a b]
  | .h2f d a => [encA3 c 0x18#6 0x3#4 d a 0#7]
  | .f2bf d a b => [encA3 c 0x18#6 0x4#4 d a b]
  | .bf2f d a => [encA3 c 0x18#6 0x5#4 d a 0#7]
  | .f2e4 d a b => [encA3 c 0x18#6 0x6#4 d a b]
  | .f2e5 d a b => [encA3 c 0x18#6 0x7#4 d a b]
  | .e42f d a => [encA3 c 0x18#6 0x8#4 d a 0#7]
  | .e52f d a => [encA3 c 0x18#6 0x9#4 d a 0#7]
  | .f2i d a => [encA3 c 0x18#6 0xa#4 d a 0#7]
  | .f2u d a => [encA3 c 0x18#6 0xb#4 d a 0#7]
  | .i2f d a => [encA3 c 0x18#6 0xc#4 d a 0#7]
  | .u2f d a => [encA3 c 0x18#6 0xd#4 d a 0#7]
  | .d2i d a rnd => [encA3 c 0x18#6 0xF#4 d a 0#7, encExt 0x10#8 (encMod rnd) 0#7 0#2]
  | .d2u d a rnd => [encA3 c 0x18#6 0xF#4 d a 0#7, encExt 0x11#8 (encMod rnd) 0#7 0#2]
  | .i2d d a => [encA3 c 0x18#6 0xF#4 d a 0#7, encExt 0x12#8 0#3 0#7 0#2]
  | .u2d d a => [encA3 c 0x18#6 0xF#4 d a 0#7, encExt 0x13#8 0#3 0#7 0#2]
  | .f2l d a rnd => [encA3 c 0x18#6 0xF#4 d a 0#7, encExt 0x14#8 (encMod rnd) 0#7 0#2]
  | .f2ul d a rnd => [encA3 c 0x18#6 0xF#4 d a 0#7, encExt 0x15#8 (encMod rnd) 0#7 0#2]
  | .l2f d a rnd => [encA3 c 0x18#6 0xF#4 d a 0#7, encExt 0x16#8 (encMod rnd) 0#7 0#2]
  | .ul2f d a rnd => [encA3 c 0x18#6 0xF#4 d a 0#7, encExt 0x17#8 (encMod rnd) 0#7 0#2]
  | .d2l d a rnd => [encA3 c 0x18#6 0xF#4 d a 0#7, encExt 0x18#8 (encMod rnd) 0#7 0#2]
  | .d2ul d a rnd => [encA3 c 0x18#6 0xF#4 d a 0#7, encExt 0x19#8 (encMod rnd) 0#7 0#2]
  | .l2d d a rnd => [encA3 c 0x18#6 0xF#4 d a 0#7, encExt 0x1a#8 (encMod rnd) 0#7 0#2]
  | .ul2d d a rnd => [encA3 c 0x18#6 0xF#4 d a 0#7, encExt 0x1b#8 (encMod rnd) 0#7 0#2]
  | .fpExtendedRoundingForm maj op d a b rnd fl => [encA3 c (encFpMajor maj) 0xF#4 d a b, encExt (0#4 ++ op) (encMod rnd) 0#7 fl]
  | .aaddf d a b => [encA3 c 0x19#6 0x0#4 d a b]
  | .aaddd d a b => [encA3 c 0x19#6 0x1#4 d a b]
  | .aaddh d a b => [encA3 c 0x19#6 0x2#4 d a b]
  | .aaddbf d a b => [encA3 c 0x19#6 0x3#4 d a b]
  | .aaddq d a => [encA3 c 0x19#6 0x4#4 d a 0#7]
  | .ared d a => [encA3 c 0x19#6 0x5#4 d a 0#7]
  | .acvtf d a b => [encA3 c 0x19#6 0x6#4 d a b]
  | .acvtd d a b => [encA3 c 0x19#6 0x7#4 d a b]
  | .bra off => [encL c 0x1C#6 0#7 off]
  | .brm r off => [encL c 0x1D#6 r off]
  | .call r off => [encL c 0x1E#6 r off]
  | .join => [encA3 c 0x20#6 0x1#4 0#7 0#7 0#7]
  | .regang => [encA3 c 0x20#6 0x2#4 0#7 0#7 0#7]
  | .regangWg => [encA3 c 0x20#6 0x3#4 0#7 0#7 0#7]
  | .ret a => [encA3 c 0x20#6 0x4#4 0#7 a 0#7]
  | .jmpi a => [encA3 c 0x20#6 0x5#4 0#7 a 0#7]
  | .exit => [encA3 c 0x20#6 0x6#4 0#7 0#7 0#7]
  | .yield => [encA3 c 0x20#6 0x7#4 0#7 0#7 0#7]
  | .trap n => [encA3 c 0x20#6 0x8#4 0#7 (n.extractLsb' 7 7) (n.extractLsb' 0 7)]
  | .brk n => [encA3 c 0x20#6 0x9#4 0#7 (n.extractLsb' 7 7) (n.extractLsb' 0 7)]
  | .rtt => [encA3 c 0x20#6 0xa#4 0#7 0#7 0#7]
  | .sysrd d csr => [encS c 0x0#6 d csr]
  | .sysrdCyclelo d => [encS c 0x0#6 d 0x020#12]
  | .syswr d csr => [encS c 0x1#6 d csr]
  | .syswrFpflags d => [encS c 0x1#6 d 0x111#12]
  | .syswrGangctl d => [encS c 0x1#6 d 0x160#12]
  | .fenceAcq scope => [encS c 0x4#6 0#7 (0#9 ++ encScope scope)]
  | .fenceRel scope => [encS c 0x5#6 0#7 (0#9 ++ encScope scope)]
  | .fenceSc scope => [encS c 0x6#6 0#7 (0#9 ++ encScope scope)]
  | .spanOpen d => [encS c 0x8#6 d 0#12]
  | .spanClose => [encS c 0x9#6 0#7 0#12]
  | .leaseSet d mode => [encS c 0xc#6 d (0#10 ++ encLease mode)]
  | .leaseGet d => [encS c 0xd#6 d 0#12]
  | .regsGrow d => [encS c 0xe#6 d 0#12]
  | .regsShrink d => [encS c 0xf#6 d 0#12]
  | .gridLaunch d s => [encS c 0x10#6 d (0#5 ++ s)]
  | .ld m => encM c 0x24#6 m.la m.sz m
  | .lds m => encM c 0x25#6 m.la m.sz m
  | .st m => encM c 0x26#6 m.la m.sz m
  | .stq m => encM c 0x27#6 m.la 3#2 m
  | .ldByp m => encM c 0x28#6 m.la m.sz m
  | .ldAcq scope m => encM c 0x29#6 (encScope scope ++ m.la.extractLsb' 0 1) m.sz m
  | .stRel scope m => encM c 0x2a#6 (encScope scope ++ m.la.extractLsb' 0 1) m.sz m
  | .atom x => encAtom c 0x2B#6 x
  | .ldl m => encM c 0x2c#6 m.la m.sz m
  | .stl m => encM c 0x2d#6 m.la m.sz m
  | .atoml x => encAtom c 0x2E#6 x
  | .prefL1 m => encM c 0x2F#6 m.la 0#2 { m with d := 0#7 }
  | .prefLlc m => encM c 0x2F#6 m.la 1#2 { m with d := 0#7 }
  | .surfLd d a b => [encA3 c 0x30#6 0x0#4 d a b]
  | .surfSt d a b => [encA3 c 0x30#6 0x1#4 d a b]
  | .surfStc d a b => [encA3 c 0x30#6 0x2#4 d a b]
  | .surfMv d a b => [encA3 c 0x30#6 0x3#4 d a b]
  | .tex d a b => [encA3 c 0x31#6 0x0#4 d a b]
  | .rastKick d a => [encA3 c 0x31#6 8#4 d a 0#7]
  | .fgrid d a b => [encA3 c 0x32#6 0x0#4 d a b]
  | .fgrid2d d a b => [encA3 c 0x32#6 0x1#4 d a b]
  | .unpack d a b => [encA3 c 0x33#6 0x0#4 d a b]
  | .pack d a b => [encA3 c 0x33#6 0x1#4 d a b]
  | .mma la func a b flags => [encT c 0x34#6 la func a b flags]
  | .mmaB la func a b flags => [encT c 0x35#6 la func a b flags]
  | .accWin la a => [encT c 0x36#6 la 0#4 a 0#7 0#3]
  | .accZero la b => [encT c 0x36#6 la 1#4 0#7 b 0#3]
  | .accLd la a b => [encT c 0x36#6 la 2#4 a b 0#3]
  | .accSt la a b => [encT c 0x36#6 la 3#4 a b 0#3]
  | .accTolm la a b => [encT c 0x36#6 la 4#4 a b 0#3]
  | .accFromlm la a b => [encT c 0x36#6 la 5#4 a b 0#3]
  | .accCvt la fmt a b => [encT c 0x36#6 la 6#4 a b (0#1 ++ fmt)]
  | .scacc la zp a b => [encT c 0x37#6 la 0#4 a b (0#2 ++ BitVec.ofBool zp)]
  | .tscaleBind la a b => [encT c 0x37#6 la 1#4 a b 0#3]
  | .wbufLd la a b => [encT c 0x37#6 la 2#4 a b 0#3]
  | .wbufLdsp la a b => [encT c 0x37#6 la 3#4 a b 0#3]
  | .cpyKick a b => [encT c 0x38#6 0#4 0#4 a b 0#3]
  | .cpyStat done b a => [encT c 0x38#6 0#4 1#4 a b (0#2 ++ BitVec.ofBool done)]
  | .barInit bar b => [encT c 0x39#6 0#4 0#4 bar.index b bar.flags]
  | .barExpect bar b => [encT c 0x39#6 0#4 1#4 bar.index b bar.flags]
  | .barArrive bar => [encT c 0x39#6 0#4 2#4 bar.index 0#7 bar.flags]
  | .barWait bar => [encT c 0x39#6 0#4 3#4 bar.index 0#7 bar.flags]
  | .barTest b bar => [encT c 0x39#6 0#4 4#4 bar.index b bar.flags]
  | .spring s d a b => [encA3 c (0xF#4 ++ s.extractLsb' 4 2) (s.extractLsb' 0 4) d a b]
  | _ => []

/-! ## The decoder -/

def decMem (w x : Word) : MemOp :=
  { x := if w.getLsbD 24 then some x else none
    la := w.extractLsb' 20 4
    d := w.extractLsb' 13 7
    base := w.extractLsb' 9 4
    off := w.extractLsb' 2 7
    sz := w.extractLsb' 0 2 }

def decAtomArgs (w x : Word) (op : AtomOp) : AtomArgs :=
  { op := op
    dbl := (w.extractLsb' 0 2 : BitVec 2) == 3#2
    scope := decScope (xMod x)
    ord := decOrd (xFl x)
    d := w.extractLsb' 13 7
    base := w.extractLsb' 9 4
    off := w.extractLsb' 2 7
    c := xC x }

/-- ATOM or ATOML (R262): sizes 00 and 01 and OPs beyond 0x0A are unassigned. -/
noncomputable def decAtom (mk : AtomArgs → Instr) (w x : Word) : Option Instr :=
  if (w.extractLsb' 0 2 : BitVec 2).toNat < 2 then none
  else match decAtomOp (xOp x) with
    | some op => some (mk (decAtomArgs w x op))
    | none => none

/-- OPs 0x00 to 0x0E of majors 0x14 to 0x19 (R238). -/
def decFpExt (maj : FpMajor) (w x : Word) : Option Instr :=
  let op : BitVec 4 := (xOp x).extractLsb' 0 4
  match fpForm maj op with
  | some f =>
    some (.fpExtendedRoundingForm maj op (fD w) (fA w) (if f.usesB then fB w else 0#7)
      (if f.rounds then decMod (xMod x) else .dyn)
      (BitVec.ofBool ((xFl x).getLsbD 1 && f.hi) ++ BitVec.ofBool ((xFl x).getLsbD 0 && f.sat)))
  | none => none

def decMajor01 (w x : Word) : Option Instr :=
  match (fFunc w).toNat with
  | 0 => some (.iadd (fD w) (fA w) (fB w))
  | 1 => some (.isub (fD w) (fA w) (fB w))
  | 2 => some (.imul (fD w) (fA w) (fB w))
  | 3 => some (.imulhi (fD w) (fA w) (fB w))
  | 4 => some (.imulhiu (fD w) (fA w) (fB w))
  | 5 => some (.imin (fD w) (fA w) (fB w))
  | 6 => some (.imax (fD w) (fA w) (fB w))
  | 7 => some (.iminu (fD w) (fA w) (fB w))
  | 8 => some (.imaxu (fD w) (fA w) (fB w))
  | 9 => some (.iabs (fD w) (fA w))
  | 10 => some (.iadds (fD w) (fA w) (fB w))
  | 11 => some (.isubs (fD w) (fA w) (fB w))
  | 12 => some (.idivu (fD w) (fA w) (fB w))
  | 13 => some (.iremu (fD w) (fA w) (fB w))
  | 14 => some (.imad (fD w) (fA w) (fB w))
  | 15 => match (xOp x).toNat with
      | 1 => some (.idiv (fD w) (fA w) (fB w))
      | 2 => some (.irem (fD w) (fA w) (fB w))
      | 3 => some (.iaddsu (fD w) (fA w) (fB w))
      | 4 => some (.isubsu (fD w) (fA w) (fB w))
      | _ => none
  | _ => none

def decMajor02 (w _x : Word) : Option Instr :=
  match (fFunc w).toNat with
  | 0 => some (.and (fD w) (fA w) (fB w))
  | 1 => some (.or (fD w) (fA w) (fB w))
  | 2 => some (.xor (fD w) (fA w) (fB w))
  | 3 => some (.andn (fD w) (fA w) (fB w))
  | 4 => some (.not (fD w) (fA w))
  | 5 => some (.shl (fD w) (fA w) (fB w))
  | 6 => some (.shr (fD w) (fA w) (fB w))
  | 7 => some (.sar (fD w) (fA w) (fB w))
  | 8 => some (.rol (fD w) (fA w) (fB w))
  | 9 => some (.popc (fD w) (fA w))
  | 10 => some (.clz (fD w) (fA w))
  | 11 => some (.brev (fD w) (fA w))
  | 12 => some (.bfe (fD w) (fA w) (fB w))
  | 13 => some (.bfes (fD w) (fA w) (fB w))
  | 14 => some (.bfi (fD w) (fA w) (fB w))
  | _ => none

def decMajor03 (w _x : Word) : Option Instr :=
  match (fFunc w).toNat with
  | 0 => some (.iadd64 (fD w) (fA w) (fB w))
  | 1 => some (.isub64 (fD w) (fA w) (fB w))
  | 2 => some (.imul64 (fD w) (fA w) (fB w))
  | 3 => some (.shl64 (fD w) (fA w) (fB w))
  | 4 => some (.shr64 (fD w) (fA w) (fB w))
  | 5 => some (.sar64 (fD w) (fA w) (fB w))
  | 6 => some (.imin64 (fD w) (fA w) (fB w))
  | 7 => some (.imax64 (fD w) (fA w) (fB w))
  | 8 => some (.iminu64 (fD w) (fA w) (fB w))
  | 9 => some (.imaxu64 (fD w) (fA w) (fB w))
  | 10 => some (.imulw (fD w) (fA w) (fB w))
  | 11 => some (.imulwu (fD w) (fA w) (fB w))
  | _ => none

def decMajor04 (w _x : Word) : Option Instr :=
  match (fFunc w).toNat with
  | 0 => some (.cmpeq (fD w) (fA w) (fB w))
  | 1 => some (.cmpne (fD w) (fA w) (fB w))
  | 2 => some (.cmplt (fD w) (fA w) (fB w))
  | 3 => some (.cmple (fD w) (fA w) (fB w))
  | 4 => some (.cmpltu (fD w) (fA w) (fB w))
  | 5 => some (.cmpleu (fD w) (fA w) (fB w))
  | 6 => some (.cmpeq64 (fD w) (fA w) (fB w))
  | 7 => some (.cmplt64 (fD w) (fA w) (fB w))
  | 8 => some (.cmpltu64 (fD w) (fA w) (fB w))
  | 9 => some (.cmple64 (fD w) (fA w) (fB w))
  | 10 => some (.cmpleu64 (fD w) (fA w) (fB w))
  | _ => none

def decMajor05 (w _x : Word) : Option Instr :=
  match (fFunc w).toNat with
  | 0 => some (.fcmpeq (fD w) (fA w) (fB w))
  | 1 => some (.fcmpne (fD w) (fA w) (fB w))
  | 2 => some (.fcmplt (fD w) (fA w) (fB w))
  | 3 => some (.fcmple (fD w) (fA w) (fB w))
  | 4 => some (.fcmpun (fD w) (fA w) (fB w))
  | 8 => some (.dcmpeq (fD w) (fA w) (fB w))
  | 9 => some (.dcmpne (fD w) (fA w) (fB w))
  | 10 => some (.dcmplt (fD w) (fA w) (fB w))
  | 11 => some (.dcmple (fD w) (fA w) (fB w))
  | 12 => some (.dcmpun (fD w) (fA w) (fB w))
  | _ => none

def decMajor06 (w _x : Word) : Option Instr :=
  match (fFunc w).toNat with
  | 0 => some (.mov (fD w) (fA w))
  | 1 => some (.sel (fD w) (fA w) (fB w))
  | 2 => some (.rdind (fD w) (fA w))
  | 3 => some (.wrind (fA w) (fB w))
  | 4 => some (.mov64 (fD w) (fA w))
  | _ => none

def decMajor07 (w x : Word) : Option Instr :=
  match (fFunc w).toNat with
  | 0 => some (.shflIdx (fD w) (fA w) (fB w))
  | 1 => some (.shflUp (fD w) (fA w) (fB w))
  | 2 => some (.shflDown (fD w) (fA w) (fB w))
  | 3 => some (.shflXor (fD w) (fA w) (fB w))
  | 4 => some (.voteBallot (fD w) (fA w))
  | 5 => some (.voteAny (fD w) (fA w))
  | 6 => some (.voteAll (fD w) (fA w))
  | 7 => some (.elect (fD w))
  | 8 => some (.redadd (fD w) (fA w))
  | 9 => some (.redmin (fD w) (fA w))
  | 10 => some (.redmax (fD w) (fA w))
  | 11 => some (.redminu (fD w) (fA w))
  | 12 => some (.redmaxu (fD w) (fA w))
  | 13 => some (.redand (fD w) (fA w))
  | 14 => some (.redor (fD w) (fA w))
  | 15 => match (xOp x).toNat with
      | 1 => some (.redxor (fD w) (fA w))
      | 2 => some (.fredadd (fD w) (fA w) (decMod (xMod x)))
      | 3 => some (.fredmin (fD w) (fA w) (decMod (xMod x)))
      | 4 => some (.fredmax (fD w) (fA w) (decMod (xMod x)))
      | 5 => some (.scanadd (fD w) (fA w))
      | _ => none
  | _ => none

def decMajor14 (w x : Word) : Option Instr :=
  match (fFunc w).toNat with
  | 0 => some (.fadd (fD w) (fA w) (fB w))
  | 1 => some (.fsub (fD w) (fA w) (fB w))
  | 2 => some (.fmul (fD w) (fA w) (fB w))
  | 3 => some (.ffma (fD w) (fA w) (fB w))
  | 4 => some (.fnma (fD w) (fA w) (fB w))
  | 5 => some (.fdiv (fD w) (fA w) (fB w))
  | 6 => some (.fsqrt (fD w) (fA w))
  | 7 => some (.fmin (fD w) (fA w) (fB w))
  | 8 => some (.fmax (fD w) (fA w) (fB w))
  | 9 => some (.fabs (fD w) (fA w))
  | 10 => some (.fneg (fD w) (fA w))
  | 11 => some (.frnd (fD w) (fA w))
  | 12 => some (.fclass (fD w) (fA w))
  | 13 => some (.fscale (fD w) (fA w) (fB w))
  | 14 => some (.fcopysign (fD w) (fA w) (fB w))
  | 15 => if (xOp x).toNat < 15 then decFpExt .fp32 w x else match (xOp x).toNat with
      | 16 => some (.fminnum (fD w) (fA w) (fB w))
      | 17 => some (.fmaxnum (fD w) (fA w) (fB w))
      | _ => none
  | _ => none

def decMajor15 (w x : Word) : Option Instr :=
  match (fFunc w).toNat with
  | 0 => some (.dadd (fD w) (fA w) (fB w))
  | 1 => some (.dsub (fD w) (fA w) (fB w))
  | 2 => some (.dmul (fD w) (fA w) (fB w))
  | 3 => some (.dfma (fD w) (fA w) (fB w))
  | 4 => some (.dnma (fD w) (fA w) (fB w))
  | 5 => some (.ddiv (fD w) (fA w) (fB w))
  | 6 => some (.dsqrt (fD w) (fA w))
  | 7 => some (.dmin (fD w) (fA w) (fB w))
  | 8 => some (.dmax (fD w) (fA w) (fB w))
  | 9 => some (.dabs (fD w) (fA w))
  | 10 => some (.dneg (fD w) (fA w))
  | 11 => some (.drnd (fD w) (fA w))
  | 12 => some (.dclass (fD w) (fA w))
  | 13 => some (.dscale (fD w) (fA w) (fB w))
  | 14 => some (.dcopysign (fD w) (fA w) (fB w))
  | 15 => if (xOp x).toNat < 15 then decFpExt .fp64 w x else match (xOp x).toNat with
      | 16 => some (.dminnum (fD w) (fA w) (fB w))
      | 17 => some (.dmaxnum (fD w) (fA w) (fB w))
      | _ => none
  | _ => none

def decMajor16 (w x : Word) : Option Instr :=
  match (fFunc w).toNat with
  | 0 => some (.hadd2 (fD w) (fA w) (fB w))
  | 1 => some (.hsub2 (fD w) (fA w) (fB w))
  | 2 => some (.hmul2 (fD w) (fA w) (fB w))
  | 3 => some (.hfma2 (fD w) (fA w) (fB w))
  | 4 => some (.hmin2 (fD w) (fA w) (fB w))
  | 5 => some (.hmax2 (fD w) (fA w) (fB w))
  | 8 => some (.badd2 (fD w) (fA w) (fB w))
  | 9 => some (.bsub2 (fD w) (fA w) (fB w))
  | 10 => some (.bmul2 (fD w) (fA w) (fB w))
  | 11 => some (.bfma2 (fD w) (fA w) (fB w))
  | 12 => some (.bmin2 (fD w) (fA w) (fB w))
  | 13 => some (.bmax2 (fD w) (fA w) (fB w))
  | 15 => if (xOp x).toNat < 15 then decFpExt .packed w x else match (xOp x).toNat with
      | 16 => some (.hdot2f (fD w) (fA w) (fB w) (decMod (xMod x)))
      | 17 => some (.bdot2f (fD w) (fA w) (fB w) (decMod (xMod x)))
      | _ => none
  | _ => none

def decMajor17 (w x : Word) : Option Instr :=
  match (fFunc w).toNat with
  | 0 => some (.frcp (fD w) (fA w))
  | 1 => some (.frsqrt (fD w) (fA w))
  | 2 => some (.fexp2 (fD w) (fA w))
  | 3 => some (.flog2 (fD w) (fA w))
  | 4 => some (.fsinpi (fD w) (fA w))
  | 5 => some (.fcospi (fD w) (fA w))
  | 8 => some (.frcpA (fD w) (fA w))
  | 9 => some (.frsqrtA (fD w) (fA w))
  | 10 => some (.fexp2A (fD w) (fA w))
  | 11 => some (.flog2A (fD w) (fA w))
  | 12 => some (.fsinA (fD w) (fA w))
  | 13 => some (.fcosA (fD w) (fA w))
  | 14 => some (.ftanhA (fD w) (fA w))
  | 15 => if (xOp x).toNat < 15 then decFpExt .special w x else none
  | _ => none

def decMajor18 (w x : Word) : Option Instr :=
  match (fFunc w).toNat with
  | 0 => some (.f2d (fD w) (fA w))
  | 1 => some (.d2f (fD w) (fA w))
  | 2 => some (.f2h (fD w) (fA w) (fB w))
  | 3 => some (.h2f (fD w) (fA w))
  | 4 => some (.f2bf (fD w) (fA w) (fB w))
  | 5 => some (.bf2f (fD w) (fA w))
  | 6 => some (.f2e4 (fD w) (fA w) (fB w))
  | 7 => some (.f2e5 (fD w) (fA w) (fB w))
  | 8 => some (.e42f (fD w) (fA w))
  | 9 => some (.e52f (fD w) (fA w))
  | 10 => some (.f2i (fD w) (fA w))
  | 11 => some (.f2u (fD w) (fA w))
  | 12 => some (.i2f (fD w) (fA w))
  | 13 => some (.u2f (fD w) (fA w))
  | 15 => if (xOp x).toNat < 15 then decFpExt .conv w x else match (xOp x).toNat with
      | 16 => some (.d2i (fD w) (fA w) (decMod (xMod x)))
      | 17 => some (.d2u (fD w) (fA w) (decMod (xMod x)))
      | 18 => some (.i2d (fD w) (fA w))
      | 19 => some (.u2d (fD w) (fA w))
      | 20 => some (.f2l (fD w) (fA w) (decMod (xMod x)))
      | 21 => some (.f2ul (fD w) (fA w) (decMod (xMod x)))
      | 22 => some (.l2f (fD w) (fA w) (decMod (xMod x)))
      | 23 => some (.ul2f (fD w) (fA w) (decMod (xMod x)))
      | 24 => some (.d2l (fD w) (fA w) (decMod (xMod x)))
      | 25 => some (.d2ul (fD w) (fA w) (decMod (xMod x)))
      | 26 => some (.l2d (fD w) (fA w) (decMod (xMod x)))
      | 27 => some (.ul2d (fD w) (fA w) (decMod (xMod x)))
      | _ => none
  | _ => none

noncomputable def decMajor19 (w x : Word) : Option Instr :=
  match (fFunc w).toNat with
  | 0 => some (.aaddf (fD w) (fA w) (fB w))
  | 1 => some (.aaddd (fD w) (fA w) (fB w))
  | 2 => some (.aaddh (fD w) (fA w) (fB w))
  | 3 => some (.aaddbf (fD w) (fA w) (fB w))
  | 4 => some (.aaddq (fD w) (fA w))
  | 5 => some (.ared (fD w) (fA w))
  | 6 => some (.acvtf (fD w) (fA w) (fB w))
  | 7 => some (.acvtd (fD w) (fA w) (fB w))
  | 15 => if (xOp x).toNat < 15 then decFpExt .anchored w x else none
  | _ => none

noncomputable def decMajor20 (w : Word) : Option Instr :=
  match (fFunc w).toNat with
  | 0 => some (.nop)
  | 1 => some (.join)
  | 2 => some (.regang)
  | 3 => some (.regangWg)
  | 4 => some (.ret (fA w))
  | 5 => some (.jmpi (fA w))
  | 6 => some (.exit)
  | 7 => some (.yield)
  | 8 => some (.trap (w.extractLsb' 0 14))
  | 9 => some (.brk (w.extractLsb' 0 14))
  | 10 => some (.rtt)
  | _ => none

noncomputable def decMajor30 (w : Word) : Option Instr :=
  match (fFunc w).toNat with
  | 0 => some (.surfLd (fD w) (fA w) (fB w))
  | 1 => some (.surfSt (fD w) (fA w) (fB w))
  | 2 => some (.surfStc (fD w) (fA w) (fB w))
  | 3 => some (.surfMv (fD w) (fA w) (fB w))
  | _ => none

noncomputable def decMajor31 (w : Word) : Option Instr :=
  match (fFunc w).toNat with
  | 0 => some (.tex (fD w) (fA w) (fB w))
  | 8 => some (.rastKick (fD w) (fA w))
  | _ => none

noncomputable def decMajor32 (w : Word) : Option Instr :=
  match (fFunc w).toNat with
  | 0 => some (.fgrid (fD w) (fA w) (fB w))
  | 1 => some (.fgrid2d (fD w) (fA w) (fB w))
  | _ => none

noncomputable def decMajor33 (w : Word) : Option Instr :=
  match (fFunc w).toNat with
  | 0 => some (.unpack (fD w) (fA w) (fB w))
  | 1 => some (.pack (fD w) (fA w) (fB w))
  | _ => none

/-- Major 0x21 (R233, R234, R265). -/
noncomputable def decMajor21 (w : Word) : Option Instr :=
  let d : Reg := w.extractLsb' 12 7
  let csr : BitVec 12 := w.extractLsb' 0 12
  match (w.extractLsb' 19 6 : BitVec 6).toNat with
  | 0x00 => some (if csr = 0x020#12 then .sysrdCyclelo d else .sysrd d csr)
  | 0x01 => some (if csr = 0x111#12 then .syswrFpflags d else if csr = 0x160#12 then .syswrGangctl d else .syswr d csr)
  | 0x04 => some (.fenceAcq (decScope (csr.extractLsb' 0 3)))
  | 0x05 => some (.fenceRel (decScope (csr.extractLsb' 0 3)))
  | 0x06 => some (.fenceSc (decScope (csr.extractLsb' 0 3)))
  | 0x08 => some (.spanOpen d)
  | 0x09 => some .spanClose
  | 0x0C =>
    let mode := decLease (csr.extractLsb' 0 2)
    some (.leaseSet (if mode = .measured then 0#7 else d) mode)
  | 0x0D => some (.leaseGet d)
  | 0x0E => some (.regsGrow d)
  | 0x0F => some (.regsShrink d)
  | 0x10 => some (.gridLaunch d (csr.extractLsb' 0 7))
  | _ => none

/-- Majors 0x24 to 0x2F (R253). -/
noncomputable def decMemMajor (maj : Nat) (w x : Word) : Option Instr :=
  let m := decMem w x
  let ms : MemOp := { m with la := 0#3 ++ m.la.extractLsb' 0 1 }
  let scope := decScope (w.extractLsb' 21 3)
  match maj with
  | 0x24 => some (.ld m)
  | 0x25 => if m.sz = 2#2 then none else some (.lds m)
  | 0x26 => some (.st m)
  | 0x27 => if m.sz = 3#2 then some (.stq m) else none
  | 0x28 => some (.ldByp m)
  | 0x29 => some (.ldAcq scope { ms with la := 0#4 })
  | 0x2A => some (.stRel scope { ms with la := 0#4 })
  | 0x2B => decAtom .atom w x
  | 0x2C => some (.ldl m)
  | 0x2D => some (.stl m)
  | 0x2E => decAtom .atoml w x
  | 0x2F => match m.sz.toNat with
    | 0 => some (.prefL1 { m with d := 0#7, sz := 0#2 })
    | 1 => some (.prefLlc { m with d := 0#7, sz := 0#2 })
    | _ => none
  | _ => none

/-- Majors 0x34 to 0x39 (T format; R191, R272, R286, R291, R292, R296, R308, R309). -/
noncomputable def decTile (maj : Nat) (w : Word) : Option Instr :=
  let la : BitVec 4 := if maj = 0x38 ∨ maj = 0x39 then 0#4 else w.extractLsb' 21 4
  let func : BitVec 4 := w.extractLsb' 17 4
  let a : Reg := w.extractLsb' 10 7
  let b : Reg := w.extractLsb' 3 7
  let g0 := w.getLsbD 0
  match maj, func.toNat with
  | 0x34, _ => some (.mma la func a b (w.extractLsb' 0 3 &&& mmaFlagBits func))
  | 0x35, _ => some (.mmaB la func a b (w.extractLsb' 0 3 &&& mmaFlagBits func))
  | 0x36, 0 => some (.accWin la a)
  | 0x36, 1 => some (.accZero la b)
  | 0x36, 2 => some (.accLd la a b)
  | 0x36, 3 => some (.accSt la a b)
  | 0x36, 4 => some (.accTolm la a b)
  | 0x36, 5 => some (.accFromlm la a b)
  | 0x36, 6 => some (.accCvt la (w.extractLsb' 0 2) a b)
  | 0x37, 0 => some (.scacc la g0 a b)
  | 0x37, 1 => some (.tscaleBind la a b)
  | 0x37, 2 => some (.wbufLd la a b)
  | 0x37, 3 => some (.wbufLdsp la a b)
  | 0x38, 0 => some (.cpyKick a b)
  | 0x38, 1 => some (.cpyStat g0 b a)
  | 0x39, 0 => some (.barInit (decBar w) b)
  | 0x39, 1 => some (.barExpect (decBar w) b)
  | 0x39, 2 => some (.barArrive (decBar w))
  | 0x39, 3 => some (.barWait (decBar w))
  | 0x39, 4 => some (.barTest b (decBar w))
  | _, _ => none

/-- What major, func, OP and sz select, with reserved bits dropped; `none` where one of them is unassigned. -/
noncomputable def decodeRaw (w x : Word) : Option Instr :=
  let maj := (fMajor w).toNat
  match maj with
  | 0x01 => decMajor01 w x
  | 0x02 => decMajor02 w x
  | 0x03 => decMajor03 w x
  | 0x04 => decMajor04 w x
  | 0x05 => decMajor05 w x
  | 0x06 => decMajor06 w x
  | 0x07 => decMajor07 w x
  | 0x14 => decMajor14 w x
  | 0x15 => decMajor15 w x
  | 0x16 => decMajor16 w x
  | 0x17 => decMajor17 w x
  | 0x18 => decMajor18 w x
  | 0x19 => decMajor19 w x
  | 0x20 => decMajor20 w
  | 0x21 => decMajor21 w
  | 0x30 => decMajor30 w
  | 0x31 => decMajor31 w
  | 0x32 => decMajor32 w
  | 0x33 => decMajor33 w
  | 0x08 => some (.iaddi (fID w) (fIA w) (w.extractLsb' 0 11))
  | 0x09 => some (.andi (fID w) (fIA w) (w.extractLsb' 0 11))
  | 0x0a => some (.ori (fID w) (fIA w) (w.extractLsb' 0 11))
  | 0x0b => some (.xori (fID w) (fIA w) (w.extractLsb' 0 11))
  | 0x0c => some (.shli (fID w) (fIA w) (w.extractLsb' 0 5))
  | 0x0d => some (.cmpeqi (fID w) (fIA w) (w.extractLsb' 0 11))
  | 0x0e => some (.imuli (fID w) (fIA w) (w.extractLsb' 0 11))
  | 0x10 => some (.movi (fID w) (w.extractLsb' 0 18))
  | 0x11 => some (.movh (fID w) (w.extractLsb' 0 18))
  | 0x12 => some (.movpc (fID w) (w.extractLsb' 0 18))
  | 0x1c => some (.bra (w.extractLsb' 0 18))
  | 0x1d => some (.brm (fID w) (w.extractLsb' 0 18))
  | 0x1e => some (.call (fID w) (w.extractLsb' 0 18))
  | _ =>
    if 0x24 ≤ maj ∧ maj ≤ 0x2F then decMemMajor maj w x
    else if 0x34 ≤ maj ∧ maj ≤ 0x39 then decTile maj w
    else if 0x3C ≤ maj then some (.spring ((fMajor w).extractLsb' 0 2 ++ fFunc w) (fD w) (fA w) (fB w))
    else none

/-- Why a word is refused: the subcauses 0x01 to 0x05 of ILLEGAL (R202). -/
inductive IllegalWord where
  | unassignedMajor
  | unassigned
  | reserved
  | beyondSlot2
  | misalignedField
deriving DecidableEq, Repr

def IllegalWord.subcause : IllegalWord → Nat
  | .unassignedMajor => 0x01
  | .unassigned => 0x02
  | .reserved => 0x03
  | .beyondSlot2 => 0x04
  | .misalignedField => 0x05

/-- Majors of the opcode map that name a group (R201). -/
def majorAssigned (maj : Nat) : Bool :=
  maj != 0 && maj != 0x0F && maj != 0x13 && maj != 0x1A && maj != 0x1B && maj != 0x1F && maj != 0x22 && maj != 0x23
    && maj != 0x3A && maj != 0x3B

/-- The A3 majors (R187), whose func 0xF always has an extension word (R189). -/
def majorA3 (maj : Nat) : Bool :=
  (1 ≤ maj && maj ≤ 7) || (0x14 ≤ maj && maj ≤ 0x19) || maj == 0x20 || (0x30 ≤ maj && maj ≤ 0x33)

/-- The word requires an extension or immediate word after it (R181, R189, R190, R193). -/
def needsSecond (w : Word) : Bool :=
  let maj := (fMajor w).toNat
  (majorA3 maj && fFunc w == 0xF#4) || maj == 0x2B || maj == 0x2E
    || (0x24 ≤ maj && maj ≤ 0x2F && w.getLsbD 24)

/-- The number of words of the instruction that starts with w. -/
def wordCount (w : Word) : Nat := if needsSecond w then 2 else 1

def wordsOf (w x : Word) : List Word := if needsSecond w then [w, x] else [w]

/-- Decode the instruction that starts with word w in slot `slot` of its packet, x being the word after it. The
conditions are judged in the order of R202: 0x01, 0x04, 0x02, 0x03, 0x05. -/
noncomputable def decode (slot : Nat) (w x : Word) : Except IllegalWord Instr :=
  if !majorAssigned (fMajor w).toNat then .error .unassignedMajor
  else if needsSecond w && slot == 2 then .error .beyondSlot2
  else match decodeRaw w x with
    | none => .error .unassigned
    | some i =>
      if encode (fChain w) i != wordsOf w x then .error .reserved
      else if !i.aligned then .error .misalignedField
      else .ok i

/-! ## Bytes, words and packets (R5, R180) -/

/-- Four little-endian bytes as a word. -/
def wordOfBytes (b0 b1 b2 b3 : Byte) : Word := b3 ++ b2 ++ b1 ++ b0

/-- The bytes of a value of n bytes, lowest address first. -/
def bytesOf (n : Nat) (v : Nat) : List Byte := (List.range n).map fun k => BitVec.ofNat 8 (v / 2 ^ (8 * k))

/-- The little-endian value of a byte list. -/
def natOfBytes : List Byte → Nat
  | [] => 0
  | b :: bs => b.toNat + 256 * natOfBytes bs

/-- The words of a packet from its twelve bytes. -/
def packetWords : List Byte → Word × Word × Word
  | [a0, a1, a2, a3, b0, b1, b2, b3, c0, c1, c2, c3] =>
    (wordOfBytes a0 a1 a2 a3, wordOfBytes b0 b1 b2 b3, wordOfBytes c0 c1 c2 c3)
  | _ => (0#32, 0#32, 0#32)

/-- The instruction that the decoder reads from a row's bits, numbered as spec/opcode_table.json numbers them: the first
word is bits 31..0, the word after it bits 63..32; bits above nbits are 0. The words lie in slot 0 and slot 1 of a packet. -/
noncomputable def decodeTableWord (nbits w : Nat) : Option Instr :=
  let (w0, w1, _) := packetWords (bytesOf 8 (w % 2 ^ nbits) ++ bytesOf 4 0)
  match decode 0 w0 w1 with
  | .ok i => some i
  | .error _ => none

/-! ## Firmware submission entries (R382, R384) -/

/-- Bytes 0 to 7 of an entry. -/
def encHead (opc : BitVec 8) (h : CmdHead) : DWord := h.ctx ++ h.tag ++ 0#8 ++ opc

/-- The 64-byte submission entry of a firmware command, byte 0 lowest; `none` for anything else. -/
def encodeCommand : Instr → Option (BitVec 512)
  | .deviceInit h => some (0#448 ++ encHead 0x01#8 h)
  | .contextCreate h root saveBase saveSize poolBase poolPages =>
      some (0#160 ++ poolPages ++ poolBase ++ saveSize ++ saveBase ++ root ++ encHead 0x02#8 h)
  | .regionCreate h image rcb => some (0#320 ++ rcb ++ image ++ encHead 0x03#8 h)
  | .launch h desc => some (0#384 ++ desc ++ encHead 0x04#8 h)
  | .preempt h rcb => some (0#384 ++ rcb ++ encHead 0x05#8 h)
  | .resume h rcb => some (0#384 ++ rcb ++ encHead 0x06#8 h)
  | .pageMigrate h va owner => some (0#376 ++ owner ++ va ++ encHead 0x07#8 h)
  | .springBind h image => some (0#384 ++ image ++ encHead 0x08#8 h)
  | .keyLoad h slot keys => some (0#320 ++ keys ++ 0#56 ++ slot ++ encHead 0x09#8 h)
  | .attest h buf nonce => some (0#128 ++ nonce ++ buf ++ encHead 0x0A#8 h)
  | .errorQuery h buf n fdom => some (0#344 ++ fdom ++ n ++ buf ++ encHead 0x0B#8 h)
  | .capacityMap h buf => some (0#384 ++ buf ++ encHead 0x0C#8 h)
  | .poisonClear h page data key => some (0#312 ++ key ++ data ++ page ++ encHead 0x0D#8 h)
  | _ => none

/-- What an entry's OPC selects, with reserved bytes dropped; `none` for an unassigned OPC. -/
noncomputable def decodeCommandRaw (e : BitVec 512) : Option Instr :=
  let h : CmdHead := ⟨e.extractLsb' 16 16, e.extractLsb' 32 32⟩
  let q (byte : Nat) : DWord := e.extractLsb' (8 * byte) 64
  match (e.extractLsb' 0 8 : BitVec 8).toNat with
  | 0x01 => some (.deviceInit h)
  | 0x02 => some (.contextCreate h (q 8) (q 16) (q 24) (q 32) (e.extractLsb' 320 32))
  | 0x03 => some (.regionCreate h (q 8) (q 16))
  | 0x04 => some (.launch h (q 8))
  | 0x05 => some (.preempt h (q 8))
  | 0x06 => some (.resume h (q 8))
  | 0x07 => some (.pageMigrate h (q 8) (e.extractLsb' 128 8))
  | 0x08 => some (.springBind h (q 8))
  | 0x09 => some (.keyLoad h (e.extractLsb' 64 8) (q 16))
  | 0x0A => some (.attest h (q 8) (e.extractLsb' 128 256))
  | 0x0B => some (.errorQuery h (q 8) (e.extractLsb' 128 32) (e.extractLsb' 160 8))
  | 0x0C => some (.capacityMap h (q 8))
  | 0x0D => some (.poisonClear h (q 8) (q 16) (e.extractLsb' 192 8))
  | _ => none

/-- An entry is laid out as R384 says: reserved bytes 0, every field in its range and alignment. -/
def commandLayoutOK (e : BitVec 512) (i : Instr) : Bool := encodeCommand i == some e && i.commandOK

end Sys2Proof
end

