-- ==== Sys2Proof/Machine/State.lean ====
section
/-! DEFINITION. The state of the Vexez as plain data: everything the spec names (INVENTORY.md lists each piece with its
rule), and the model's own bookkeeping (`now`, `fresh`, `agenda`, `round`, `iss`). Sparse stores are lists of key and value in
rising key order; what an unlisted key reads as is said where the store is read (Machine/Store.lean). -/

namespace Sys2Proof.Machine

/-! ## Reasons a step can stop -/

/-- Faults of the model. The manual's own faults are traps and are taken as next states; what is here stops a question
that no step of the machine asks. -/
inductive Fault where
  /-- An instruction of a gang is asked of a state in which no gang issues. Raised by every meaning of an instruction word
  through `withGang`. Safe: `step` asks only while a gang issues. -/
  | noIssuingGang
deriving DecidableEq, Repr

/-- Refusals of the model. -/
inductive Refusal where
  /-- No meaning yet for this instruction. Raised by an arm of `exec`. Safe. -/
  | notModelled (mnemonic : String)
deriving DecidableEq, Repr

/-! ## Traps -/

/-- The contents of a trap: cause (R206), TRAPINFO, TRAPADDR and TRAPLANES; none where the spec states no value for the
cause, so that the delivery writes a free one (log 19). -/
structure Trap where
  cause : BitVec 6
  info : Word
  addr : Option DWord
  lanes : Option LaneMask
  /-- RACECSN and RACESRC of a RACE (R74, R81). -/
  race : Option (Nat × Word) := none
deriving DecidableEq, Repr

/-- The fault record (R258, R369): the failing instruction's PC, its uniform base with the immediate, the owed lanes, the
resume PC, the split that resumes there and the execute mask of the instruction (R364). -/
structure FaultRecord where
  pc : DWord
  base : DWord
  owed : LaneMask
  resume : DWord
  split : Nat
  mask : LaneMask
deriving DecidableEq, Repr

/-- A fault met under lookahead and not yet delivered (R368). -/
structure PendingFault where
  trap : Trap
  record : FaultRecord
  /-- Later instructions that may still issue. -/
  left : Nat
  reads : List Nat
  writes : List Nat
deriving DecidableEq, Repr

/-- An entry of a slice's divergence stack (R147). -/
inductive StackEntry where
  | pending (pc : DWord) (mask : BitVec 4)
  | join (mask : BitVec 4) (pc : Option DWord)
deriving DecidableEq, Repr

/-- Where a slice waits (R152, R153). -/
inductive SliceWait where
  | none | regang | regangWg
deriving DecidableEq, Repr

/-- A packet as fetched: its address and its three words (R180, R197). -/
structure Packet where
  addr : DWord
  w0 : Word
  w1 : Word
  w2 : Word
deriving DecidableEq, Repr

/-- One slice of a gang (R147). `back` is the backward-branch count (R150). -/
structure Slice where
  pc : DWord
  path : BitVec 4
  stack : List StackEntry
  back : Nat
  split : Nat
  wait : SliceWait
  /-- The slice has no lane that can execute on any path, or never existed (R141, R149). -/
  ended : Bool
  /-- The slice stands still while a handler of its gang runs (R364). -/
  held : Bool
  /-- The packet from which it issued last: a packet is read whole from one fill (R197). -/
  packet : Option Packet := none
deriving DecidableEq, Repr

/-- What the hidden frame keeps of one slice (R364). -/
structure FrameSlice where
  pc : DWord
  path : BitVec 4
  depth : Nat
  split : Nat
  wait : SliceWait
  /-- The slice entered the handler. -/
  entered : Bool
  ended : Bool
deriving DecidableEq, Repr

/-- The hidden frame (R364). `trapPc` is the value that delivery wrote to TRAPPC (R366). -/
structure Frame where
  slices : List FrameSlice
  record : Option FaultRecord
  trapPc : DWord
  /-- The trap rolled a transaction back, so that SPAN.OPEN issued again writes status 4 (R79). -/
  txTrap : Bool
deriving DecidableEq, Repr

/-- Trap registers and queues of a gang (R204, R363, R367). -/
structure TrapState where
  base : DWord
  cause : Word
  pc : DWord
  addr : DWord
  lanes : LaneMask
  info : Word
  qovf : Bool
  async : Bool
  nest : Bool
  raceCsn : DWord
  raceSrc : Word
  queue : List Trap
  /-- A loss noted with the queue (R367). -/
  lost : Bool
  frame : Option Frame
  /-- A fault record whose owed lanes are performed next (R366). -/
  replay : Option FaultRecord
  /-- A fault met and not yet delivered: under lookahead (R368), or while the gang is stopped (R371, R375). -/
  pending : Option PendingFault
deriving DecidableEq, Repr

/-! ## Spans -/

/-- One entry of the read record (R66): words taken from committed data, and for those taken from the L1 the fill point
of the line they came from (R43). -/
structure ReadEntry where
  line : Nat
  words : BitVec 32
  fills : List (Nat × Nat)
deriving DecidableEq, Repr

/-- A sample of a coded surface by the physical address of its block's slot and its place in the block (R86). -/
structure Sample where
  slot : Nat
  idx : Nat
deriving DecidableEq, Repr

/-- A span's touch of a sample (R103): whether it touched it as written, and the fill point of the decoded-block entry it
came from (R59, R43), if it did. -/
structure Touch where
  loc : Sample
  wr : Bool
  fill : Option Nat
deriving DecidableEq, Repr

/-- A surface descriptor as one instruction read it (R119, R121). -/
structure SurfDesc where
  va : DWord
  slotBase : DWord
  mvBase : DWord
  spillBase : DWord
  refA : DWord
  refB : DWord
  width : Nat
  height : Nat
  spillCount : Nat
  rc : Nat
  qbase : Nat
  slotBits : Nat
  lossless : Bool
  anchor : Bool
  bits : Nat
  /-- Number of channels. -/
  chans : Nat
deriving DecidableEq, Repr

/-- A surface with its references (R120). -/
structure Surface where
  d : SurfDesc
  a : Option SurfDesc
  b : Option SurfDesc
deriving DecidableEq, Repr

/-- A page through which a pinned block's re-encoding may write (R136): KIND, write, a virtual address in it and where that
address translated when the block was pinned. -/
structure PinPage where
  kind : Nat
  write : Bool
  va : DWord
  pa : Nat
deriving DecidableEq, Repr

/-- A pinned decoded block of a span (R59, R136): the samples written so far, as the span sees them. -/
structure Pin where
  surf : Surface
  chan : Nat
  bx : Nat
  by' : Nat
  /-- Physical addresses of the slot's first byte and of the arena header. -/
  slot : Nat
  arena : Nat
  pages : List PinPage
  writes : List (Nat × Nat)
deriving DecidableEq, Repr

/-- A motion entry that the span writes (R135). -/
structure MvWrite where
  surf : Surface
  px : Nat
  py : Nat
  pa : Nat
  value : Word
deriving DecidableEq, Repr

/-- What a conflict was about (R71, R73). -/
inductive Loc where
  | word (pa : Nat)
  | sample (p : Sample)
deriving DecidableEq, Repr

/-- A target of a locate span: the location, the subcause, the writer's CSN and identity (R73, R74). -/
structure Target where
  loc : Loc
  sub : Nat
  csn : Nat
  src : Word
deriving DecidableEq, Repr

/-- An explicit transaction (R78): SPAN.OPEN's destination, execute mask, PC and split. -/
structure TxInfo where
  d : Reg
  mask : LaneMask
  pc : DWord
  npc : DWord
  split : Nat
deriving DecidableEq, Repr

/-- The span checkpoint (R63). -/
structure Checkpoint where
  alloc : Nat
  regs : List (Nat × Word)
  slices : List Slice
  fpctl : Word
  fpflags : Word
  replay : Option FaultRecord
  pending : Option PendingFault
deriving DecidableEq, Repr

/-- A line as the home slice gave it to an untracked read that is performed ahead of the instructions before it (R95): when, the
key slot of its leaf, its bytes, and the stamp found at each of them (R70). -/
structure EarlyRead where
  line : Nat
  key : Nat
  time : Nat
  data : List Byte
  stamps : List Nat
deriving DecidableEq, Repr

/-- The open span of a gang (R62 to R67) and its status (R80). -/
structure Span where
  chk : Checkpoint
  /-- An instruction of the span has come to issue: before it, the gang stands between spans (R62, R63; log 18). -/
  begun : Bool
  reads : List ReadEntry
  /-- Lines in the read signature without an entry of the record (R66), and for those read from the L1 their fill points
  (R43). -/
  sigReads : List Nat
  sigFills : List (Nat × Nat)
  /-- Lines of slots and motion entries in the read signature (R65), and every line of a stored form that a surface
  instruction read (R84). -/
  surfReads : List Nat
  formReads : List Nat
  ver : List (Nat × Byte)
  pins : List Pin
  moves : List MvWrite
  touched : List Touch
  /-- Leaves of the 4 KiB pages that the span accessed, as its translations found them (R55, R72). -/
  leaves : List (Nat × DWord)
  targets : List Target
  tx : Option TxInfo
  exact : Bool
  locate : Bool
  ovf : Bool
  pol : Bool
  restarts : Nat
  lastEnd : Nat
  count : Nat
  /-- The split and PC of the SPAN.OPEN that writes status 4 when it is performed again after a trap in its transaction (R79). -/
  txNext : Option (Nat × DWord)
  /-- Untracked reads of the span performed early (R95). -/
  early : List EarlyRead
deriving DecidableEq, Repr

/-! ## Leases, engine grants, scheduling -/

/-- Lease registers and the measurement window (R350, R351). `applied` is what the scheduler now applies (R357). -/
structure Lease where
  meas : Nat
  decl : Nat
  mode : LeaseMode
  apDecl : Nat
  apMode : LeaseMode
  lost : Nat
  winCount : Nat
  winLines : List Nat
  /-- The lease has changed since the core's last admission decision (R355, R357). -/
  changed : Bool
deriving DecidableEq, Repr

/-- Source of the last fill of a panel column or scale entry (R280): kind 0 WBUF.LD, 1 WBUF.LDSP, 2 TSCALE.BIND. -/
structure FillRec where
  kind : Nat
  panel : Nat
  index : Nat
  va : DWord
deriving DecidableEq, Repr

/-- The engine grant of a gang (R274, R275). -/
structure Grant where
  base : Nat
  rows : Nat
  panels : List Nat
  scales : List Nat
  fills : List FillRec
deriving DecidableEq, Repr

/-- What a gang waits for, and the split that stands at the waiting instruction (R354). -/
inductive Wait where
  | none
  | barrier (core obj split : Nat)
  /-- The same wait of a saved cohort, by workgroup and name (R372). -/
  | barName (wg name split : Nat)
  | accWin (w : Word) (split : Nat)
  | grow (n split : Nat)
  /-- No split can issue (R152). -/
  | noSplit
deriving DecidableEq, Repr

/-- Scheduling state of a gang (R354 to R356). -/
structure Sched where
  active : Bool
  wait : Wait
  /-- When the gang became parked and ready. -/
  readySince : Nat
  aged : Option Nat
  protUntil : Option Nat
  /-- Held by a freeze of the workgroup: the freezing gang (R375). -/
  heldBy : Option Nat
  /-- The split issued last (R151). -/
  lastSplit : Nat
  /-- Splits whose next instruction was found to wait, since their partition issued last (R349). -/
  stalled : List Nat
  /-- Splits that gave up their issue slot, each with the splits of the gang and the other gangs, by uid, that issue before
  it (R230). -/
  yields : List (Nat × List Nat × List Nat)
deriving DecidableEq, Repr

/-- W and AP of a gang for one object (R271). -/
structure BarRec where
  core : Nat
  obj : Nat
  w : Nat
  ap : Nat
deriving DecidableEq, Repr

/-- One gang. `uid` is the model's name of it. -/
structure Gang where
  uid : Nat
  cohort : Nat
  wg : Nat
  gangid : Nat
  core : Nat
  alloc : Nat
  regs : List (Nat × Word)
  regPoison : List Nat
  launchMask : LaneMask
  live : LaneMask
  slices : List Slice
  codeBase : DWord
  prot : Bool
  deadsrc : Bool
  freeze : Bool
  sstep : Bool
  fpctl : Word
  fpflags : Word
  cycleLatch : Word
  lease : Lease
  grant : Grant
  span : Span
  trap : TrapState
  acq : Nat
  floor : Nat
  relFloor : Nat
  /-- The floor at the last FENCE.REL or FENCE.SC, from which every later write of the gang is a release (R91). -/
  fenceFloor : Nat
  pendFloor : Nat
  /-- For each line, when the newest value that an access of the gang returned from it was current: no later untracked read goes
  back behind it (R93). -/
  seen : List (Nat × Nat)
  sched : Sched
  bars : List BarRec
  mismatches : Nat
  /-- An instruction that ended as a wait has been performed, and SHADOW or STEP is raised before the next (R374, R378). -/
  stepDue : Bool := false
  /-- SHADOW is raised after the instruction whose mismatch killed these lanes: its subcause, and whether that instruction
  belongs to a handler (R378). -/
  shadow : Option (Nat × LaneMask × Bool) := none
  /-- Failed hand-overs that the gang's next accesses to the pages report (R35): virtual page (R25), subcause. -/
  ownerFail : List (Nat × Nat)
  /-- The fragment gang's outputs as lanes exit (R324): lane, component, value. -/
  outputs : List (Nat × Nat × Word)
  /-- Local stores of the gang all performed: the model performs each at its instruction (R47, R48). -/
  ended : Bool
deriving DecidableEq, Repr

/-! ## Launches -/

/-- The checked contents of a launch (R234) and what names its grid. -/
structure Grid where
  uid : Nat
  ctx : Nat
  region : Nat
  codeBase : DWord
  entry : Word
  wgs : Nat
  prot : Bool
  pol : Bool
  lmode : LeaseMode
  lease : Nat
  granules : Nat
  localBytes : Nat
  dims : Nat × Nat × Nat
  wgdim : Nat × Nat × Nat
  args : DWord
  doneVa : DWord
  /-- Launched by GRID.LAUNCH (R236) of this region, or by the firmware. -/
  device : Bool
  launcher : Nat
  launchFloor : Nat
  /-- A failed hand-over of the page of DONE: its OWNER subcause (R35). -/
  doneFail : Option Nat
  placed : Nat
  retired : Nat
  stamp : Nat
  /-- A fragment cohort of a core's raster unit (R324): core, tile block, triangle, launch mask, lane registers. -/
  raster : Option (Nat × Nat × Nat)
  masks : LaneMask
  laneRegs : List (Nat × Word)
deriving DecidableEq, Repr

/-- An entry of a region's queue: the cohorts of a grid from a number on, in ascending order, or a saved cohort (R344,
R372). -/
inductive Waiting where
  | fresh (grid : Nat) (number : Nat)
  | saved (cohort : Nat)
deriving DecidableEq, Repr

/-- A barrier object (R271). -/
structure BarObj where
  e : Nat
  arr : Nat
  bytes : Int
  phase : Nat
  part : List Nat
  stamp : Nat
  arrived : Bool
deriving DecidableEq, Repr

/-- One workgroup of a cohort: its core, its allocation and its barrier names (R31, R270). -/
structure Workgroup where
  core : Nat
  /-- The core's cycle when it was placed there: the start of the residency count (R359). -/
  placed : Nat
  mem : List (Nat × Byte)
  /-- Poisoned words, by offset (R377). -/
  poison : List Nat
  /-- Release stamps of its bytes (R70). -/
  stamps : List (Nat × Nat)
  names : List (Nat × Nat)
  /-- Barrier objects as saved with the cohort (R372). -/
  savedBars : List (Nat × BarObj)
deriving DecidableEq, Repr

/-- Why a cohort is pre-empted: to re-enter its queue, or to be restored at once on another basin (R344, R359). -/
inductive Stop where
  | requeue | migrate
deriving DecidableEq, Repr

/-- The follow-on of a copy command (R307): not yet due, due after the last chunk's writes, offered to the engine. -/
inductive FollowStage where
  | none | due | offered
deriving DecidableEq, Repr

/-- A copy command in flight (R297 to R307): its 64 bytes as fetched and its course. -/
structure CopyCmd where
  uid : Nat
  basin : Nat
  core : Nat
  slot : Nat
  cohort : Nat
  wg : Nat
  gang : Nat
  ctx : Nat
  region : Nat
  addr : Nat
  bytes : List Byte
  /-- The next chunk, and how many there are. -/
  next : Nat
  total : Nat
  /-- The completion barrier's object: core and number (R308). -/
  bar : Option (Nat × Nat)
  flags : BitVec 8
  sat : Nat
  /-- CSN of the last chunk with global writes (R99). -/
  csn : Nat
  kickFloor : Nat
  /-- The basin's engine that runs it, once it has started (R304). -/
  engine : Option Nat
  /-- Byte offset of the next chunk's record in a stream, where the engine knows it (R303, R306). -/
  pos : Option Nat
  follow : FollowStage
  /-- What a partner makes of the command's reads over a link (R13, R37): an input. -/
  answer : LinkResult := .ok
deriving DecidableEq, Repr

/-- A resident or saved cohort. -/
structure Cohort where
  uid : Nat
  grid : Nat
  ctx : Nat
  region : Nat
  number : Nat
  basin : Nat
  wgs : List Workgroup
  localBytes : Nat
  age : Nat
  resident : Bool
  /-- A request to pre-empt it that has been made (R362), and after the pre-emption whether it waits for its migration. -/
  stop : Option Stop
  /-- The number of that request: pre-empted cohorts of one region re-enter its queue in the order of their pre-emption (R344,
  R346). -/
  stopAt : Nat := 0
  /-- Saved cells of the gangs' windows (R372): gang, row, column, value, and whether the cell was poisoned. -/
  savedRows : List (Nat × Nat × Nat × Word × Bool)
  /-- W and AP of its gangs (R372): gang, workgroup, name, W, AP. -/
  savedRecs : List (Nat × Nat × Nat × Nat × Nat)
  /-- Its copy commands (R306, R372). -/
  savedCmds : List CopyCmd
  saveSlot : Option Nat
  /-- Recorded fills that a restore has still to repeat before its gangs resume: gang and fill (R33, R373). -/
  refills : List (Nat × FillRec) := []
  /-- Found hot with no cooler basin to go to, the cohort is checked again at this cycle of its first core (R359). -/
  recheck : Option Nat := none
deriving DecidableEq, Repr

/-! ## Regions and contexts -/

/-- A region control block as the device holds it (R143), with the placer's and the meter's state. -/
structure Region where
  pa : Nat
  ctx : Nat
  parent : Nat
  ovr : Word
  fdom : BitVec 4
  key : BitVec 6
  prot : Bool
  pol : Bool
  prio : BitVec 3
  lmq : Nat
  regq : Nat
  gangq : Nat
  coreMask : BitVec 256
  budget : List Nat
  trapBase : DWord
  spring : Nat
  queue : List Waiting
  deficit : Nat
  reserved : Option Nat
  /-- When the reservation was made. -/
  reservedAt : Nat := 0
  /-- The basin that the placer clears for the region's head (R346). -/
  clearing : Option Nat := none
  suspended : Bool
  /-- Balances: activity × 4 + reach (R61). -/
  balance : List Int
deriving DecidableEq, Repr

/-- A context (R384). `slots` are the save slots in use, `pool` the free migration frames. -/
structure Context where
  num : Nat
  root : Nat
  saveBase : Nat
  saveSlots : Nat
  used : List Nat
  pool : List Nat
deriving DecidableEq, Repr

/-! ## Cores and basins -/

/-- One L1 or instruction-cache line (R39, R197): line address, the key slot under which it was read (R29), fill point,
bytes, the gang whose fill brought it, and whether it stands among the 256 lines that serve unleased traffic (R349, R357). -/
structure CacheLine where
  line : Nat
  key : Nat
  fill : Nat
  data : List Byte
  owner : Nat
  shared : Bool
deriving DecidableEq, Repr

/-- A decoded block (R59): slot address, descriptor address, the slot leaf's key (R29), fill point, samples, and the lines
of its stored form that its decoding read. -/
structure DbcEntry where
  slot : Nat
  desc : Nat
  key : Nat
  fill : Nat
  samples : List Nat
  lines : List Nat
deriving DecidableEq, Repr

/-- A spring bank: its tag and image bytes (R341). Whether it is active follows from the resident gangs. -/
structure Bank where
  tag : Nat
  image : List (Nat × Byte)
deriving DecidableEq, Repr

/-- What an engine instruction does (R286 to R293): the form and its static fields. -/
inductive Work where
  | mma (func : BitVec 4) (flags : BitVec 3)
  | mmaB (func : BitVec 4) (flags : BitVec 3)
  | zero
  | load
  | store
  | toLm
  | fromLm
  | cvt (fmt : BitVec 2)
  | scacc (zp : Bool)
  | bind
  | fill (sparse : Bool)
deriving DecidableEq, Repr

/-- An engine instruction offered or accepted (R278), with the operand words it read. -/
structure EngineOp where
  uid : Nat
  work : Work
  gang : Nat
  region : Nat
  a : DWord
  b : Word
  /-- The gang whose grant it acts on: the issuer, or for a basin-wide MMA the engine's peer (R289). -/
  peer : Nat
  /-- Pieces of lines that it reads or writes, in order: physical address, leaf, bytes (R284, R292). -/
  pieces : List (Nat × DWord × Nat)
  /-- Lines of the page-table entries that translated them (R23). -/
  walks : List Nat
  /-- Memory bytes read at acceptance (R284, R290, R292), or A rows that a basin-wide MMA received (R289). -/
  bytes : List Byte
  /-- Places among these bytes that arrived poisoned. -/
  poisoned : List Nat
  /-- The bytes are there. -/
  ready : Bool
  /-- Scale entries whose values have not arrived (R290). -/
  left : List Nat
  /-- Instructions that the gang may still issue before this one is accepted (R186). -/
  la : Nat
  /-- The copy command whose follow-on it is (R307). -/
  follow : Option Nat
deriving DecidableEq, Repr

/-- A record of the request engine (R308, R309). -/
structure CopyRec where
  slot : Nat
  stamp : Nat
  cohort : Nat
  addr : Nat
  state : Nat
  flags : BitVec 8
  sat : Nat
  done : Nat
deriving DecidableEq, Repr

/-- The stage of the tile that the raster unit works on (R323 to R327). -/
inductive RasterPhase where
  | idle | shading | done
deriving DecidableEq, Repr

/-- A raster command as read at the kick (R321, R322). -/
structure RasterCmd where
  gang : Nat
  gangid : Nat
  cohort : Nat
  ctx : Nat
  region : Nat
  core : Nat
  floor : Nat
  vtx : DWord
  nprim : Nat
  granules : Nat
  blend : Nat
  coarse : Nat
  cull : Bool
  surf : Surface
  kernel : DWord
  entry : Word
  sx0 : Nat
  sy0 : Nat
  sx1 : Nat
  sy1 : Nat
  doneVa : DWord
  stamp : Nat
  wrote : Bool
  /-- Triangles after step 1 and 2 of R323: index, three vertices in 1/256 pixel, six attributes, negated or not. -/
  tris : List (Nat × List Int × List Word × Bool)
  binned : Bool
  /-- Tiles still to be processed, ascending. -/
  tiles : List Nat
deriving DecidableEq, Repr

/-- One (triangle, block) fragment job of the current tile (R324, R326). -/
structure Fragment where
  tri : Nat
  block : Nat
  pixels : List (Nat × Nat)
  grid : Option Nat
  /-- Outputs of the ended gang: lane, component, value. -/
  out : Option (List (Nat × Nat × Word))
  /-- Its floor at its end (R327). -/
  floor : Nat
  blended : Bool
deriving DecidableEq, Repr

/-- The raster unit of a core (R321 to R327). `tileMem` holds samples by channel, y and x in the current tile;
`touched` lists its blended pixels, y × 65,536 + x. -/
structure Raster where
  queue : List RasterCmd
  phase : RasterPhase
  tile : Nat
  tileMem : List (Nat × Nat)
  touched : List Nat
  frags : List Fragment
  /-- The tile's blocks have been read in (R327). -/
  loaded : Bool
  /-- Failed hand-overs that the unit's next accesses to the pages report (R35): virtual page, subcause. -/
  ownerFail : List (Nat × Nat)
deriving DecidableEq, Repr

/-- The units of one core. -/
structure Core where
  /-- CYCLE of the core is this plus `clock` (R205). -/
  cycleOff : Nat
  l1 : List CacheLine
  icache : List CacheLine
  victims : List (Nat × Nat)
  lostCount : Nat
  lostStart : Nat
  dbc : List DbcEntry
  acc : List (Nat × Word)
  accPoison : List Nat
  wbuf : List (Nat × Byte)
  wbufPoison : List Nat
  scales : List (Nat × Word)
  scalePoison : List Nat
  accWaiters : List (Nat × Word)
  offers : List EngineOp
  engine : List EngineOp
  /-- The instruction whose A rows are kept for .REUSE (R288). -/
  reuse : Option Nat
  bars : List (Nat × BarObj)
  records : List CopyRec
  raster : Raster
  banks : List Bank
  growers : List (Nat × Nat)
  lastIssued : List (Nat × Nat)
  /-- Idle lane-instructions of the period and the credit of the governor (R159). -/
  gated : Nat
  credit : Nat
  creditStart : Nat
  temp : Nat
  /-- The hot threshold that the firmware has set for the core (R359); until it does, the device's. -/
  hot : Option Nat
deriving DecidableEq, Repr

/-- An entry of a basin's range scoreboard (R49): cohort, workgroup, bounds, and the core and uid of the copy command or
engine instruction that owns it; `kept` for rows kept after the fetch (R288). -/
structure ScoreEntry where
  cohort : Nat
  wg : Nat
  lo : Nat
  hi : Nat
  core : Nat
  owner : Nat
  kept : Bool
deriving DecidableEq, Repr

/-- A basin: its range scoreboard. -/
structure Basin where
  score : List ScoreEntry
deriving DecidableEq, Repr

/-! ## Device-wide state -/

/-- The owner of a page (R34): the device, or the host or a peer. -/
inductive Party where
  | device | partner
deriving DecidableEq, Repr

/-- A committed write set (R43, R68, R70, R81): when, its CSN and writer, the words and samples it wrote. -/
structure CommitRec where
  time : Nat
  csn : Nat
  src : Word
  words : List Nat
  samples : List Sample
deriving DecidableEq, Repr

/-- A line held by an LLC slice (R55), with the region that its write-back is charged to (R60). -/
structure LlcLine where
  line : Nat
  dirty : Bool
  evp : BitVec 2
  slot : BitVec 6
  region : Nat
deriving DecidableEq, Repr

/-- Who makes a metered request (R60, R360): a split of a gang, a copy command, an engine instruction, a raster unit by its
core, a grid's completion write, a hand-over by its context and page, or the refills of a restored cohort. -/
inductive Asker where
  | gang (uid split : Nat)
  | command (uid : Nat)
  | engine (uid : Nat)
  | unit (core : Nat)
  | grid (uid : Nat)
  | move (ctx page : Nat)
  | restore (cohort : Nat)
deriving DecidableEq, Repr

/-- A request that waits for a budget (R61): the requester, the region charged, the activity by its place in R60, the reach, the
line, where it is one, and the units. -/
structure Waiter where
  who : Asker
  region : Nat
  act : Nat
  reach : Nat
  line : Nat
  units : Nat
deriving DecidableEq, Repr

/-- A request that has issued and is charged, of a requester that still waits for others (R53, R61). -/
structure Sent where
  who : Asker
  act : Nat
  line : Nat
deriving DecidableEq, Repr

/-- An error record (R385). -/
structure ErrRec where
  kind : Byte
  fdom : Byte
  ctx : Word
  cohort : DWord
  gangid : BitVec 16
  wg : BitVec 16
  cause : Word
  info : Word
  lanes : Word
  pc : DWord
  addr : DWord
  count : DWord
deriving DecidableEq, Repr

/-- A link port (R379): up, rate in GT/s, width. Port 0 is the host port, 1 + p peer port p. -/
structure Link where
  up : Bool
  rate : Nat
  width : Nat
deriving DecidableEq, Repr

/-- A PREEMPT command that has begun: its TAG, the cohorts that it saves, and whether the save area had no slot for some
cohort (R383). -/
structure PendingCmd where
  tag : BitVec 16
  cohorts : List Nat
  lacked : Bool
deriving DecidableEq, Repr

/-- The firmware's registers and stores (R381 to R390). -/
structure Device where
  boot : BitVec 2
  sqBase : DWord
  cqBase : DWord
  qEn : Bool
  logN : BitVec 4
  sqTail : Word
  sqHead : Word
  cqIndex : Nat
  cqPhase : Bool
  repair : List (Nat × BitVec 16)
  busRetired : List (BitVec 64)
  populated : List (BitVec 64)
  reserved : List (Nat × Nat)
  /-- What the walking-ones test reads wrongly (R389), an input: reach, bus, the one connection driven to 1, and the connection
  that reads wrongly at an end. -/
  busFaults : List (Nat × Nat × Nat × Nat)
  /-- The same of the test after repair (R389), an input. -/
  badBuses : List (Nat × Nat × Nat × Nat)
  /-- The bus map of each reach: the buses over which its lines are spread, ascending (R56, R389). -/
  busMap : List (List Nat)
  digest : BitVec 512
  hotThreshold : Nat
  /-- The PREEMPT command being served, if any (R382, R383). -/
  current : Option PendingCmd
  /-- The submission entry that the firmware has read and is serving (R381, R382). -/
  serving : Option (BitVec 512)
deriving DecidableEq, Repr

/-- A hand-over that some accesses wait for (R35): context, first 4 KiB of the virtual page (R25), waiting gangs, copy
commands with the address that each accesses (R37, R305), completion writes of grids (R235) and raster units, by core
(R328). -/
structure HandReq where
  ctx : Nat
  page : Nat
  waiters : List Nat
  cmds : List (Nat × DWord)
  grids : List Nat
  units : List Nat
deriving DecidableEq, Repr

/-- Who moves next. The agenda is the model's own; any interleaving the spec allows is some agenda. -/
inductive Turn where
  /-- A partition of a core has an issue slot (R349). -/
  | issue (core part : Nat)
  /-- The next instruction of a split waits for results that are still on their way: the split is not ready when its partition
  issues next (R349). -/
  | stall (gang split : Nat)
  /-- A step of the device that has a row of its own in the opcode table. -/
  | event (i : Instr)
  /-- The firmware reads and serves the next submission entry, or goes on with the one it serves (R382). -/
  | serve
  /-- Core cycles pass (R204, R205). -/
  | elapse (core n : Nat)
  /-- A core's temperature input, and the hot threshold that the firmware sets for it (R359). -/
  | heat (core temp : Nat)
  | threshold (core t : Nat)
  /-- The bus test's inputs (R389): while one connection is driven to 1, another or itself reads wrongly, in the first test and in
  the one after repair. -/
  | busFault (reach bus driven reader : Nat)
  | badBus (reach bus driven reader : Nat)
  /-- The home slice performs a later untracked read of a gang at an address ahead of time (R95). -/
  | early (gang : Nat) (va : DWord)
  /-- What a partner makes of a copy command's reads over a link (R13, R37). -/
  | answer (cmd : Nat) (link : LinkResult)
  /-- The host or a peer writes its own memory, at its window's address (R12, R34). -/
  | hostStore (pa : Nat) (bytes : List Byte)
  /-- The host or a peer reads its own memory: an access to a page that it was handed (R36). -/
  | hostLoad (pa n : Nat)
  /-- A line of a window that will arrive with the poison flag of the link flit (R27). -/
  | linkPoison (line : Nat)
  /-- One idle step. -/
  | idle
deriving DecidableEq, Repr

/-- The issue of one instruction: the gang and split, the PCs of the instruction, of what follows it and of what follows
its chain, the fault record that a replay performs (R258), the gang before the chain (R184), and what the instruction did. -/
structure Issue where
  gang : Nat
  split : Nat
  pc : DWord
  rpc : DWord
  npc : DWord
  replay : Option FaultRecord
  pre : Gang
  /-- Flags raised, and a dead lane read, by members of the chain so far. -/
  raised : Word
  rdead : Bool
  /-- The instruction could not issue: it waits, and nothing of a chain is performed. -/
  waited : Bool
  /-- A trap was taken, a span rolled back, or control moved: the rest of the chain does not follow. -/
  stopped : Bool
  /-- The instruction, and with it its chain, meets a limit of R62: the span ends before it with this code. -/
  limit : Option Nat := none
deriving DecidableEq, Repr

/-- The whole machine. -/
structure State where
  mem : List Host.Cell
  lineKey : List (Nat × BitVec 512)
  keys : List (Nat × BitVec 512)
  wStamp : List (Nat × Nat)
  rStamp : List (Nat × Nat)
  relStamp : List (Nat × Nat)
  linePoison : List Nat
  llc : List LlcLine
  log : List CommitRec
  weirClock : List Nat
  psn : Nat
  favoured : Option Nat
  favourQueue : List Nat
  dev : Device
  contexts : List Context
  regions : List Region
  grids : List Grid
  cohorts : List Cohort
  gangs : List Gang
  cores : List (Nat × Core)
  basins : List (Nat × Basin)
  copies : List CopyCmd
  handReqs : List HandReq
  /-- Leaf entries of pages just handed over, whose new owner has not yet performed an access (R36). -/
  handedOver : List (Nat × Party)
  /-- 4 KiB frames of device DRAM that a peer owns in place, with its port (R36, R379); the others that are handed away in place
  are the host's (R34). -/
  lent : List (Nat × Nat)
  sealed : List (Nat × Nat)
  errors : List ErrRec
  /-- The region whose turn it is in the placer's round robin, by priority (R345). -/
  turns : List (Nat × Nat)
  /-- Contexts whose record store lost a record (R385). -/
  errorsLost : List Word
  corrected : Nat
  links : List (Nat × Link)
  periodStart : List Nat
  /-- Requests that wait for a budget, in the order in which they began to wait (R360). -/
  waiting : List Waiter
  sent : List Sent
  nextUid : Nat
  /-- Moments: every commit and every step takes a later one. Fill points, acquire points and commits are compared by it. -/
  now : Nat
  /-- Cycles: a step takes one (R204, R205). -/
  clock : Nat
  fresh : Nat
  agenda : List Turn
  /-- Turns taken of the machine's own choice, while the agenda was empty. -/
  round : Nat
  iss : Option Issue
deriving DecidableEq, Repr

/-- The device registers at reset (R381; log 2 for the rows without a reset value). -/
def Device.reset : Device :=
  { boot := 0#2, sqBase := 0, cqBase := 0, qEn := false, logN := 0, sqTail := 0, sqHead := 0, cqIndex := 0,
    cqPhase := true, repair := [], busRetired := [0, 0, 0, 0], populated := [0, 0, 0, 0],
    reserved := [(0, 0), (0, 0), (0, 0), (0, 0)], busFaults := [], badBuses := [], busMap := [[], [], [], []], digest := 0, hotThreshold := 100,
    current := none, serving := none }

/-- The machine right after reset: BOOT = 00, no context, no region, nothing resident (R381, R387; log 2). -/
def State.reset : State :=
  { mem := [], lineKey := [], keys := [], wStamp := [], rStamp := [], relStamp := [], linePoison := [], llc := [],
    log := [], weirClock := [0, 0, 0, 0], psn := 0, favoured := none, favourQueue := [], dev := Device.reset,
    contexts := [], regions := [], grids := [], cohorts := [], gangs := [], cores := [], basins := [], copies := [],
    handReqs := [], handedOver := [], lent := [], sealed := [], errors := [], turns := [], errorsLost := [], corrected := 0, links := [],
    periodStart := [0, 0, 0, 0], waiting := [], sent := [], nextUid := 1, now := 0, clock := 0, fresh := 0, agenda := [], round := 0,
    iss := none }

end Sys2Proof.Machine
end

