-- ==== Sys2Proof/Machine/Store.lean ====
section
/-! DEFINITION. Sparse stores, bytes of physical memory with their keys and poison, and the accessors of the state's
records. Every read and write of a record of `State` goes through an operation of this file. -/

namespace Sys2Proof.Machine

/-- The outcome of a meaning. -/
abbrev Out := Host.Outcome State Fault Refusal

/-! ## Sparse stores -/

/-- The value a store lists for a key. -/
def getK {α : Type} (k : Nat) : List (Nat × α) → Option α
  | [] => none
  | (k', v) :: r => if k' = k then some v else getK k r

/-- Insert or replace, keeping rising keys. -/
def setK {α : Type} (k : Nat) (v : α) : List (Nat × α) → List (Nat × α)
  | [] => [(k, v)]
  | (k', v') :: r => if k < k' then (k, v) :: (k', v') :: r else if k' = k then (k, v) :: r else (k', v') :: setK k v r

/-- Remove a key. -/
def delK {α : Type} (k : Nat) : List (Nat × α) → List (Nat × α)
  | [] => []
  | (k', v') :: r => if k' = k then delK k r else (k', v') :: delK k r

/-- Read with a default for an unlisted key. -/
def readK {α : Type} (dflt : α) (k : Nat) (l : List (Nat × α)) : α := (getK k l).getD dflt

/-- Write; writing the default removes the entry, so equal stores are equal lists. -/
def putK {α : Type} [DecidableEq α] (dflt : α) (k : Nat) (v : α) (l : List (Nat × α)) : List (Nat × α) :=
  if v = dflt then delK k l else setK k v l

/-! ## Bits and lanes -/

/-- The lanes of a mask, ascending. -/
def lanesOf (m : LaneMask) : List Nat := (List.range 32).filter fun i => m.getLsbD i

/-- The mask of a list of lanes. -/
def maskOf (l : List Nat) : LaneMask := l.foldl (fun m i => m ||| (1#32 <<< i)) 0#32

/-- The lowest lane of a mask: the leader (R154). -/
def leader (m : LaneMask) : Option Nat := (lanesOf m).head?

/-- 2^k steps: x rounded up to a multiple of n. -/
def ceilTo (n x : Nat) : Nat := (x + n - 1) / n * n

/-- The signed value of a word. -/
def sInt {w : Nat} (x : BitVec w) : Int := x.toInt

/-- An exact integer cut to a width (R8). -/
def ofInt (w : Nat) (x : Int) : BitVec w := BitVec.ofInt w x

def minI (a b : Int) : Int := if a ≤ b then a else b
def maxI (a b : Int) : Int := if a ≤ b then b else a
def clampI (lo hi x : Int) : Int := minI (maxI x lo) hi

/-! ## Physical memory (R12, R13) -/

/-- What a byte of memory that nothing has written reads as (log 1). -/
def unwritten : Byte := 0#8

/-- The plaintext byte at a physical address. -/
def memByte (s : State) (a : Nat) : Byte := readK unwritten a s.mem

/-- Memory with one byte written, in canonical form. -/
def memPut (a : Nat) (b : Byte) (m : List Host.Cell) : List Host.Cell := putK unwritten a b m

/-- Bytes written upward from an address. -/
def memPuts (a : Nat) : List Byte → List Host.Cell → List Host.Cell
  | [], m => m
  | b :: bs, m => memPuts (a + 1) bs (memPut a b m)

/-- The canonical form of memory: addresses strictly rising, no entry equal to what an unlisted address reads as. -/
def Memory.wf : List Host.Cell → Bool
  | [] => true
  | [(_, b)] => b != unwritten
  | (a, b) :: (a', b') :: r => decide (a < a') && b != unwritten && Memory.wf ((a', b') :: r)

def lineOf (pa : Nat) : Nat := pa / 128
def lineBase (l : Nat) : Nat := l * 128

/-- Device DRAM window (R12). -/
def isDram (pa : Nat) : Bool := pa < 2 ^ 40
def isHostWin (pa : Nat) : Bool := 2 ^ 48 ≤ pa && pa < 2 ^ 51
def isPeerWin (pa : Nat) : Bool := 2 ^ 51 ≤ pa && pa < 0xE000000000000

/-- The physical address of a host physical address: host memory is reached through the host window (R12; log 16). -/
def hostPA (h : Nat) : Nat := 2 ^ 48 + h

/-- Home reach of a line (R13, R52). -/
def reachOf (pa : Nat) : Nat := if isDram pa then pa / 2 ^ 38 % 4 else pa / 2 ^ 15 % 4

/-- The slice of a line: the fold of the nibbles of L (R52). -/
def sliceFold : Nat → Nat → Nat
  | 0, _ => 0
  | n + 1, l => Nat.xor (l % 16) (sliceFold n (l / 16))

def sliceOf (pa : Nat) : Nat := reachOf pa * 16 + sliceFold 11 (lineOf pa)

/-- A GiB of a reach is present in the capacity map (R13, R390). -/
def gibPresent (s : State) (reach gib : Nat) : Bool := gib < 64 && (s.dev.populated.getD reach 0#64).getLsbD gib

/-- Populated device DRAM (R13). -/
def populated (s : State) (pa : Nat) : Bool :=
  isDram pa && gibPresent s (pa / 2 ^ 38) (pa % 2 ^ 38 / 2 ^ 30)

/-- The frame points at memory (R13): populated DRAM, or a host or peer window. -/
def pointsAtMemory (s : State) (pa : Nat) : Bool := populated s pa || isHostWin pa || isPeerWin pa

/-! ## Links (R379) -/

def linkUp (s : State) (port : Nat) : Bool := ((getK port s.links).map (·.up)).getD false

/-- The port of an owner's memory: host port 0, peer port 1 + p. -/
def portOf (pa : Nat) : Nat := if isPeerWin pa then 1 + (pa - 2 ^ 51) / 2 ^ 48 else 0

/-- The port of the owner of a page with OWN = 1, by its frame: a window's, or of a page in device DRAM the host's, where it was
not handed to a peer in place (R34, R379; log 44). -/
def ownerPort (s : State) (frame : Nat) : Nat := if isDram frame then readK 0 (frame / 4096) s.lent else portOf frame

/-- A byte of the firmware's reserved range of a reach (R339, R390). -/
def inReserved (s : State) (pa : Nat) : Bool :=
  let r := s.dev.reserved.getD (pa / 2 ^ 38) (0, 0)
  r.1 ≤ pa && pa < r.1 + r.2

/-! ## Poison bitmap (R26) -/

/-- Where the poison bitmap byte of a DRAM page stands, and the bit in it (R26). -/
def poisonBit (s : State) (pa : Nat) : Nat × Nat :=
  let page := pa % 2 ^ 38 / 4096
  ((s.dev.reserved.getD (pa / 2 ^ 38) (0, 0)).1 + page / 8, page % 8)

/-- The 4 KiB page of DRAM is marked in the bitmap (R26). -/
def pagePoisoned (s : State) (pa : Nat) : Bool :=
  isDram pa && (memByte s (poisonBit s pa).1).getLsbD (poisonBit s pa).2

def setPagePoison (s : State) (pa : Nat) (v : Bool) : State :=
  let (a, b) := poisonBit s pa
  let m := memByte s a
  { s with mem := memPut a (if v then m ||| (1#8 <<< b) else m &&& ~~~(1#8 <<< b)) s.mem }

/-- The key pair that stands in a slot (R29). -/
def keyPair (s : State) (slot : Nat) : Option (BitVec 512) := getK slot s.keys

/-- The 128 bytes of a line as they stand. -/
def lineBytes (s : State) (line : Nat) : List Byte := (List.range 128).map fun i => memByte s (lineBase line + i)

/-- A byte of DRAM as it deciphers under a key pair: the plaintext where the line was enciphered under the same pair,
otherwise "whatever that gives" of the whole line, which is the data unit (R29, R30; log 8). A line that nothing has written
reads as log 1 says. -/
def byteUnder (s : State) (k : Option (BitVec 512)) (pa : Nat) : Byte :=
  match getK (lineOf pa) s.lineKey with
  | none => memByte s pa
  | some p => if k = some p then memByte s pa else Config.recipher (lineOf pa) (some p) k (lineBytes s (lineOf pa)) (pa % 128)

/-- A byte as an access through a leaf with this key reads it; keys are not applied to the windows (R29). -/
def readByte (s : State) (key : Nat) (pa : Nat) : Byte :=
  if isDram pa then byteUnder s (keyPair s key) pa else memByte s pa

def readBytes (s : State) (key pa n : Nat) : List Byte := (List.range n).map fun i => readByte s key (pa + i)

/-- The bytes as the device's own agents read them: a line under the pair it was enciphered under (log 15). -/
def rawBytes (s : State) (pa n : Nat) : List Byte := (List.range n).map fun i => memByte s (pa + i)

def rawNat (s : State) (pa n : Nat) : Nat := natOfBytes (rawBytes s pa n)

/-- The line under a key: its bytes are first read under that key, then it is enciphered under it (R29, R30). -/
def retag (s : State) (k : BitVec 512) (line : Nat) : State :=
  match getK line s.lineKey with
  | none => { s with lineKey := setK line k s.lineKey }
  | some p =>
    if p = k then s else
    let bs := (List.range 128).map fun i => byteUnder s (some k) (lineBase line + i)
    { s with mem := memPuts (lineBase line) bs s.mem, lineKey := setK line k s.lineKey }

/-- Write one byte through a leaf with this key. -/
def writeByte (s : State) (key : Nat) (pa : Nat) (b : Byte) : State :=
  let s := if isDram pa then
      match keyPair s key with
      | some k => retag s k (lineOf pa)
      | none => s
    else s
  { s with mem := memPut pa b s.mem }

def writeBytes (s : State) (key pa : Nat) : List Byte → State
  | [] => s
  | b :: bs => writeBytes (writeByte s key pa b) key (pa + 1) bs

/-- A write by the device's own agents: the line keeps the pair it is enciphered under. -/
def rawWrite (s : State) (pa : Nat) (bs : List Byte) : State := { s with mem := memPuts pa bs s.mem }

/-! ## Records of the state -/

def gang? (s : State) (uid : Nat) : Option Gang := s.gangs.find? fun g => g.uid == uid

def setGang (s : State) (g : Gang) : State := { s with gangs := s.gangs.map fun h => if h.uid = g.uid then g else h }

def modGang (s : State) (uid : Nat) (f : Gang → Gang) : State :=
  { s with gangs := s.gangs.map fun h => if h.uid = uid then f h else h }

/-- A core that nothing has used yet: empty caches, engines and banks (log 2). -/
def Core.zero : Core :=
  { cycleOff := 0, l1 := [], icache := [], victims := [], lostCount := 0, lostStart := 0, dbc := [], acc := [],
    accPoison := [], wbuf := [], wbufPoison := [], scales := [], scalePoison := [], accWaiters := [],
    offers := [], engine := [], reuse := none, bars := [], records := [],
    raster := { queue := [], phase := .idle, tile := 0, tileMem := [], touched := [], frags := [],
                loaded := false, ownerFail := [] },
    banks := [⟨0, []⟩, ⟨0, []⟩], growers := [], lastIssued := [], gated := 0, credit := 0, creditStart := 0,
    temp := 0, hot := none }

def coreOf (s : State) (c : Nat) : Core := (getK c s.cores).getD Core.zero
def setCore (s : State) (c : Nat) (x : Core) : State := { s with cores := setK c x s.cores }
def modCore (s : State) (c : Nat) (f : Core → Core) : State := setCore s c (f (coreOf s c))

def basinOf (s : State) (b : Nat) : Basin := (getK b s.basins).getD ⟨[]⟩
def setBasin (s : State) (b : Nat) (x : Basin) : State := { s with basins := setK b x s.basins }

/-- CYCLE of a core (R204, R205). -/
def coreCycle (s : State) (c : Nat) : Nat := s.clock + (coreOf s c).cycleOff

def region? (s : State) (pa : Nat) : Option Region := s.regions.find? fun r => r.pa == pa
def modRegion (s : State) (pa : Nat) (f : Region → Region) : State :=
  { s with regions := s.regions.map fun r => if r.pa = pa then f r else r }

def context? (s : State) (n : Nat) : Option Context := s.contexts.find? fun c => c.num == n
def modContext (s : State) (n : Nat) (f : Context → Context) : State :=
  { s with contexts := s.contexts.map fun c => if c.num = n then f c else c }

def grid? (s : State) (u : Nat) : Option Grid := s.grids.find? fun g => g.uid == u
def modGrid (s : State) (u : Nat) (f : Grid → Grid) : State :=
  { s with grids := s.grids.map fun g => if g.uid = u then f g else g }

def cohort? (s : State) (u : Nat) : Option Cohort := s.cohorts.find? fun c => c.uid == u
def modCohort (s : State) (u : Nat) (f : Cohort → Cohort) : State :=
  { s with cohorts := s.cohorts.map fun c => if c.uid = u then f c else c }

/-- The workgroup of a cohort. -/
def workgroup? (c : Cohort) (w : Nat) : Option Workgroup := c.wgs[w]?

def modWg (s : State) (u w : Nat) (f : Workgroup → Workgroup) : State :=
  modCohort s u fun c => { c with wgs := c.wgs.modify w f }

def cohortOf (s : State) (g : Gang) : Option Cohort := cohort? s g.cohort

def ctxOf (s : State) (g : Gang) : Nat := ((cohortOf s g).map (·.ctx)).getD 0
def regionOf (s : State) (g : Gang) : Nat := ((cohortOf s g).map (·.region)).getD 0

/-- The partition of a gang: GANGID mod 4 (R347). -/
def partOf (g : Gang) : Nat := g.gangid % 4

def gangsOf (s : State) (c : Nat) : List Gang := s.gangs.filter fun g => g.cohort == c && !g.ended

/-- A free value's number: each free choice takes the next one (log 6). -/
def nextFresh (s : State) : Nat × State := (s.fresh, { s with fresh := s.fresh + 1 })

/-! ## Holders of inherited fields (R144) -/

/-- Override bits of R143. -/
inductive Field where
  | prio | pol | prot | key | fdom | gangq | regq | lmq | coreMask | budget (k : Nat) | trapBase | spring
deriving DecidableEq, Repr

def Field.bit : Field → Nat
  | .prio => 0 | .pol => 1 | .prot => 2 | .key => 3 | .fdom => 4 | .gangq => 5 | .regq => 6 | .lmq => 7 | .coreMask => 8
  | .budget k => 9 + k | .trapBase => 15 | .spring => 16

/-- The nodes from a region to its root; a chain of parents is no longer than the number of regions. -/
def regionPath (s : State) : Nat → Nat → List Region
  | 0, _ => []
  | n + 1, pa =>
    match region? s pa with
    | none => []
    | some r => if r.parent = 0 then [r] else r :: regionPath s n r.parent

def pathOf (s : State) (pa : Nat) : List Region := regionPath s (s.regions.length + 1) pa

/-- The holder of a field (R144): the first node of the path that overrides it, or the root. -/
def holderIn (f : Field) : List Region → Option Region
  | [] => none
  | [r] => some r
  | r :: rs => if r.ovr.getLsbD f.bit then some r else holderIn f rs

def holder (s : State) (pa : Nat) (f : Field) : Option Region := holderIn f (pathOf s pa)

def heldKey (s : State) (pa : Nat) : Nat := ((holder s pa .key).map (·.key.toNat)).getD 0
def heldPrio (s : State) (pa : Nat) : Nat := ((holder s pa .prio).map (·.prio.toNat)).getD 0
def heldSpring (s : State) (pa : Nat) : Nat := ((holder s pa .spring).map (·.spring)).getD 0
def heldMask (s : State) (pa : Nat) : BitVec 256 := ((holder s pa .coreMask).map (·.coreMask)).getD 0
def heldFdom (s : State) (pa : Nat) : BitVec 4 := ((holder s pa .fdom).map (·.fdom)).getD 0
def heldTrapBase (s : State) (pa : Nat) : DWord := ((holder s pa .trapBase).map (·.trapBase)).getD 0
def heldPol (s : State) (pa : Nat) : Bool := ((holder s pa .pol).map (·.pol)).getD false
def heldProt (s : State) (pa : Nat) : Bool := ((holder s pa .prot).map (·.prot)).getD false

/-- The distinct holders of a field on the path to the root (R145). -/
def holders (s : State) (pa : Nat) (f : Field) : List Region :=
  ((pathOf s pa).filterMap fun r => (holder s r.pa f).map (·.pa)).eraseDups.filterMap (region? s)

/-! ## Budgets (R60, R61, R145) -/

/-- The six activities in the order of R60. -/
inductive Activity where
  | dram | version | copy | matrix | hostLink | peerLink
deriving DecidableEq, Repr

def Activity.idx : Activity → Nat
  | .dram => 0 | .version => 1 | .copy => 2 | .matrix => 3 | .hostLink => 4 | .peerLink => 5

/-- The link activity of a window address (R60). -/
def linkOf (pa : Nat) : Activity := if isPeerWin pa then .peerLink else .hostLink

/-- Link bytes count against the budget of reach 0 (R60). -/
def Activity.reach (a : Activity) (r : Nat) : Nat :=
  match a with
  | .hostLink => 0 | .peerLink => 0 | _ => r

/-- A request for the activity at place k of R60 that would be charged now may issue: every metered balance is above 0 (R61,
R145). -/
def mayChargeAt (s : State) (region k r : Nat) : Bool :=
  (holders s region (.budget k)).all fun h => h.budget.getD k 0 == 0 || (0 : Int) < h.balance.getD (k * 4 + r) 0

def mayCharge (s : State) (region : Nat) (a : Activity) (r : Nat) : Bool := mayChargeAt s region a.idx (a.reach r)

/-- Charge n units of the activity at place k (R61, R145). -/
def chargeAt (s : State) (region k r n : Nat) : State :=
  (holders s region (.budget k)).foldl (init := s) fun s h =>
    if h.budget.getD k 0 = 0 then s
    else modRegion s h.pa fun h => { h with balance := h.balance.modify (k * 4 + r) (· - n) }

def charge (s : State) (region : Nat) (a : Activity) (r n : Nat) : State := chargeAt s region a.idx (a.reach r) n

/-- The requester still stands in the queue: a split of a gang that may issue, a command, instruction, raster unit, grid,
hand-over or restored cohort that is still there. -/
def stillAsks (s : State) : Asker → Bool
  | .gang u _ => (gang? s u).any fun g => !g.ended && g.sched.active && g.sched.heldBy.isNone
  | .command u => s.copies.any fun c => c.uid == u
  | .engine u => s.cores.any fun c => (c.2.offers ++ c.2.engine).any fun o => o.uid == u
  | .unit c => !(coreOf s c).raster.queue.isEmpty
  | .grid u => s.grids.any fun g => g.uid == u
  | .move c p => s.handReqs.any fun r => r.ctx == c && r.page == p
  | .restore u => s.cohorts.any fun c => c.uid == u && !c.refills.isEmpty

/-- The request has issued, at once or when a period released it. -/
def hasIssued (s : State) (who : Asker) (a : Activity) (line : Nat) : Bool := s.sent.contains ⟨who, a.idx, line⟩

/-- The request may issue now, or has issued (R61, R145, R360). -/
def mayAsk (s : State) (who : Asker) (region : Nat) (a : Activity) (r line : Nat) : Bool :=
  hasIssued s who a line || mayCharge s region a r

/-- The request issues and is charged n units, once. -/
def chargeAs (s : State) (who : Asker) (region : Nat) (a : Activity) (r line n : Nat) : State :=
  if hasIssued s who a line then s else charge s region a r n

/-- The request begins to wait for the next period, if it does not wait already (R61, R360). -/
def waitFor (s : State) (who : Asker) (region : Nat) (a : Activity) (r line n : Nat) : State :=
  let w : Waiter := ⟨who, region, a.idx, a.reach r, line, n⟩
  if s.waiting.any fun v => v.who == who && v.act == a.idx && v.line == line then s else { s with waiting := s.waiting ++ [w] }

/-- A request of n units: it has issued, issues now and is charged, or waits. -/
def ask (s : State) (who : Asker) (region : Nat) (a : Activity) (r line n : Nat) : State × Bool :=
  if mayAsk s who region a r line then
    let it : Sent := ⟨who, a.idx, line⟩
    ({ chargeAs s who region a r line n with sent := if s.sent.contains it then s.sent else it :: s.sent }, true)
  else (waitFor s who region a r line n, false)

/-- One waiting request at the start of a period: it issues where the balances allow it (R61, R360). -/
def releaseOne (s : State) (w : Waiter) : State :=
  if !stillAsks s w.who then { s with waiting := s.waiting.filter (· != w) }
  else if mayChargeAt s w.region w.act w.reach then
    let t := chargeAt s w.region w.act w.reach w.units
    { t with waiting := s.waiting.filter (· != w), sent := ⟨w.who, w.act, w.line⟩ :: s.sent }
  else s

/-- The waiting requests of a reach are released at the start of its period in the order in which they began to wait (R360). -/
def releaseWaiting (s : State) (reach : Nat) : State := (s.waiting.filter fun w => w.reach == reach).foldl releaseOne s

/-- The instruction or command has what it asked for, or asks no more. -/
def doneAsking (s : State) (who : Asker) : State :=
  { s with waiting := s.waiting.filter fun w => w.who != who, sent := s.sent.filter fun w => w.who != who }

/-- Every split of a gang asks no more: its instruction is given up. -/
def dropAsks (s : State) (uid : Nat) : State :=
  let mine : Asker → Bool | .gang u _ => u == uid | _ => false
  { s with waiting := s.waiting.filter fun w => !mine w.who, sent := s.sent.filter fun w => !mine w.who }

/-- What a waiting requester keeps of an attempt: the requests that issued, their charges, and its place in the queue. -/
def keepAsks (s0 s : State) : State :=
  { s0 with llc := s.llc, regions := s.regions, waiting := s.waiting, sent := s.sent, fresh := s.fresh }

end Sys2Proof.Machine
end

