-- ==== Sys2Proof/Machine/Slices.lean ====
section
/-! DEFINITION. Slices, splits and masks of a gang (R147 to R152, R155): the execute mask, the divergence events of R149,
path rotation (R150) and the division of a gang into splits (R151). -/

namespace Sys2Proof.Machine

/-- Bits of a lane mask for slice k. -/
def nibble (m : LaneMask) (k : Nat) : BitVec 4 := m.extractLsb' (4 * k) 4

/-- A slice's four bits as a lane mask. -/
def spread (b : BitVec 4) (k : Nat) : LaneMask := (BitVec.zeroExtend 32 b) <<< (4 * k)

/-- The execute mask of a slice (R148). -/
def sliceExec (g : Gang) (k : Nat) (sl : Slice) : BitVec 4 :=
  if sl.ended then 0#4 else sl.path &&& nibble g.live k &&& nibble g.launchMask k

def enumSlices (g : Gang) : List (Nat × Slice) := (List.range g.slices.length).zip g.slices

/-- The execute mask of an instruction that the split issues (R148). -/
def splitMask (g : Gang) (split : Nat) : LaneMask :=
  (enumSlices g).foldl (fun m p => if p.2.split = split && !p.2.ended && !p.2.held then m ||| spread (sliceExec g p.1 p.2) p.1 else m)
    0#32

/-- The slices of the split that can issue. -/
def splitSlices (g : Gang) (split : Nat) : List (Nat × Slice) :=
  (enumSlices g).filter fun p => p.2.split == split && !p.2.ended && !p.2.held

/-- Splits that can issue, by lowest slice. -/
def readySplits (g : Gang) : List Nat :=
  ((enumSlices g).filterMap fun p => if p.2.ended || p.2.held || p.2.wait != .none then none else some p.2.split).eraseDups

/-- The gang could issue an instruction if it were active. -/
def canIssue (g : Gang) : Bool := !g.ended && g.sched.wait == .none && g.sched.heldBy.isNone && !(readySplits g).isEmpty

def modSlices (g : Gang) (f : Nat → Slice → Slice) : Gang :=
  { g with slices := (enumSlices g).map fun p => f p.1 p.2 }

def modSplit (g : Gang) (split : Nat) (f : Nat → Slice → Slice) : Gang :=
  modSlices g fun k sl => if sl.split = split && !sl.ended && !sl.held then f k sl else sl

/-- The packet address of a PC (R180). -/
def packetOf (pc : DWord) : DWord := pc &&& ~~~3#64

/-- Move every slice of a split. -/
def setPc (g : Gang) (split : Nat) (pc : DWord) : Gang := modSplit g split fun _ sl => { sl with pc }

/-- A change of path sets the backward-branch count to 0 (R150). -/
def toPath (sl : Slice) (pc : DWord) (mask : BitVec 4) (stack : List StackEntry) : Slice :=
  { sl with pc, path := mask, stack, back := 0, wait := .none }

/-- A path that ends under R148 (R149). -/
def endPath (sl : Slice) : Slice :=
  match sl.stack with
  | .pending p m :: r => toPath sl p m r
  | .join m q :: r => toPath sl (q.getD sl.pc) m r
  | [] => { sl with ended := true }

/-- End paths until the execute mask is not empty or the slice ends. -/
def settleSlice (g : Gang) (k : Nat) : Nat → Slice → Slice
  | 0, sl => sl
  | n + 1, sl => if sl.ended || sl.held || sliceExec g k sl != 0#4 then sl else settleSlice g k n (endPath sl)

/-- Divide splits whose slices stand at different PCs (R151): the group of the lowest slice keeps the number. -/
def regroupFrom : List (Nat × DWord × Nat) → Nat → List Slice → List Slice
  | _, _, [] => []
  | tab, next, sl :: r =>
    if sl.ended || sl.held then sl :: regroupFrom tab next r
    else match tab.find? fun t => t.1 == sl.split && t.2.1 == sl.pc with
      | some t => { sl with split := t.2.2 } :: regroupFrom tab next r
      | none =>
        if tab.any fun t => t.1 == sl.split then
          { sl with split := next } :: regroupFrom ((sl.split, sl.pc, next) :: tab) (next + 1) r
        else sl :: regroupFrom ((sl.split, sl.pc, sl.split) :: tab) next r

def nextSplit (g : Gang) : Nat := g.slices.foldl (fun m sl => max m (sl.split + 1)) 0

def regroup (g : Gang) : Gang := { g with slices := regroupFrom [] (nextSplit g) g.slices }

/-- Ended paths popped and splits divided. -/
def settle (g : Gang) : Gang :=
  regroup (modSlices g fun k sl => settleSlice g k (sl.stack.length + 1) sl)

/-- Entries of a slice's stack beyond the 16 resident ones (R147). -/
def spilled (sl : Slice) : Nat := sl.stack.length - 16
def spillTotal (g : Gang) : Nat := g.slices.foldl (fun n sl => n + spilled sl) 0

/-- Whether a PENDING entry stands anywhere in the stack (R150). -/
def hasPending (st : List StackEntry) : Bool := st.any fun e => match e with
  | .pending _ _ => true | .join _ _ => false

/-- The entries above the topmost PENDING entry, that entry, and those below. -/
def splitPending : List StackEntry → Option (List StackEntry × (DWord × BitVec 4) × List StackEntry)
  | [] => none
  | .pending p m :: r => some ([], (p, m), r)
  | e :: r => (splitPending r).map fun t => (e :: t.1, t.2.1, t.2.2)

/-- The running path yields to the topmost pending path (R150). -/
def rotate (sl : Slice) : Slice :=
  match splitPending sl.stack with
  | none => sl
  | some (above, (p, m), below) => toPath sl p m (.pending sl.pc sl.path :: (above ++ below))

/-- Count a taken branch whose target lies at or below its own PC; at 64 the path rotates before the gang's next instruction
(R150, PATH_ROTATION). -/
def countBack (own : DWord) (sl : Slice) : Slice :=
  if sl.pc.toNat ≤ own.toNat && hasPending sl.stack then { sl with back := sl.back + 1 } else sl

/-- JOIN at a slice that stands after the JOIN already (R149). -/
def joinSlice (sl : Slice) : Slice :=
  match sl.stack with
  | .pending p m :: .join jm none :: r => toPath sl p m (.join jm (some sl.pc) :: r)
  | .pending p m :: r => toPath sl p m r
  | .join m _ :: r => toPath sl sl.pc m r
  | [] => sl

/-- BRM in one slice: t the taken lanes of the path, the slice standing at the fall-through PC (R149, R225). -/
def branchSlice (t : BitVec 4) (target own : DWord) (sl : Slice) : Slice :=
  let m := sl.path
  let t := t &&& m
  if t = 0#4 then sl
  else if t = m then countBack own { sl with pc := target }
  else toPath sl sl.pc (m &&& ~~~t) (.pending target t :: .join m none :: sl.stack)

/-- Snapshot for the checkpoint (R63). -/
def checkpoint (g : Gang) : Checkpoint :=
  { alloc := g.alloc, regs := g.regs, slices := g.slices.map fun sl => { sl with packet := none }, fpctl := g.fpctl,
    fpflags := g.fpflags, replay := g.trap.replay,
    pending := g.trap.pending }

/-- The lane of a visible lane number: 2k in protected mode (R158). -/
def visWidth (g : Gang) : Nat := if g.prot then 16 else 32
def laneOfVis (g : Gang) (k : Nat) : Nat := if g.prot then 2 * k else k
def visOf (g : Gang) (i : Nat) : Nat := if g.prot then i / 2 else i

/-- A lane mask as programs see it (R157, R158): bit k from lane 2k in protected mode. -/
def visMask (g : Gang) (m : LaneMask) : LaneMask :=
  if g.prot then maskOf ((List.range 16).filter fun k => m.getLsbD (2 * k)) else m

/-- Lanes that a visible mask names. -/
def ofVisMask (g : Gang) (m : LaneMask) : LaneMask :=
  if g.prot then maskOf ((List.range 32).filter fun i => m.getLsbD (i / 2)) else m

end Sys2Proof.Machine
end

