-- ==== Sys2Proof/Machine/Codec.lean ====
section
/-! DEFINITION. The arithmetic of coded surfaces (R122 to R137) and of the stream code (R312, R313), over lists of
integers and bits. A block is a list of 16 values in raster order, or of 16 coefficients by index 4i + j. -/

namespace Sys2Proof.Machine

/-! ## Bits -/

/-- The bits of bytes in the order of R124: bit 0 of the first byte first. -/
def bitsOfBytes (bs : List Byte) : List Bool := bs.flatMap fun b => (List.range 8).map fun i => b.getLsbD i

/-- A number of n bits, most significant bit first. -/
def bitsMsb (n v : Nat) : List Bool := (List.range n).map fun i => Nat.testBit v (n - 1 - i)

/-- The value of a bit list, most significant bit first. -/
def natMsb (l : List Bool) : Nat := l.foldl (fun a b => 2 * a + (if b then 1 else 0)) 0

/-- Bits, in the order of R124, as bytes; the last byte is filled with zeros. -/
def bytesOfBits (n : Nat) (l : List Bool) : List Byte :=
  (List.range n).map fun k =>
    BitVec.ofNat 8 ((List.range 8).foldl (fun a i => a + if l.getD (8 * k + i) false then 2 ^ i else 0) 0)

/-- n bits of a list, or none where it ends. -/
def takeBits (n : Nat) (l : List Bool) : Option (List Bool × List Bool) :=
  if l.length < n then none else some (l.take n, l.drop n)

/-! ## Transform (R128, R129) -/

/-- One forward step on four values: ss, dd, d0, d1. -/
def s4 (x0 x1 x2 x3 : Int) : List Int :=
  let d0 := x1 - x0; let s0 := x0 + d0 / 2
  let d1 := x3 - x2; let s1 := x2 + d1 / 2
  let dd := s1 - s0; let ss := s0 + dd / 2
  [ss, dd, d0, d1]

/-- One inverse step. -/
def invS4 (ss dd d0 d1 : Int) : List Int :=
  let s0 := ss - dd / 2; let s1 := s0 + dd
  let x0 := s0 - d0 / 2; let x1 := x0 + d0
  let x2 := s1 - d1 / 2; let x3 := x2 + d1
  [x0, x1, x2, x3]

def row4 (l : List Int) (i : Nat) : List Int := (List.range 4).map fun j => l.getD (4 * i + j) 0
def col4 (l : List Int) (j : Nat) : List Int := (List.range 4).map fun i => l.getD (4 * i + j) 0
def app4 (f : Int → Int → Int → Int → List Int) (l : List Int) : List Int :=
  f (l.getD 0 0) (l.getD 1 0) (l.getD 2 0) (l.getD 3 0)
def transpose4 (l : List Int) : List Int := (List.range 4).flatMap fun j => col4 l j

def rowPass (f : Int → Int → Int → Int → List Int) (l : List Int) : List Int :=
  (List.range 4).flatMap fun i => app4 f (row4 l i)
def colPass (f : Int → Int → Int → Int → List Int) (l : List Int) : List Int := transpose4 (rowPass f (transpose4 l))

/-- T: rows, then columns. -/
def fwdT (r : List Int) : List Int := colPass s4 (rowPass s4 r)
/-- The inverse of T: columns, then rows. -/
def invT (c : List Int) : List Int := rowPass invS4 (colPass invS4 c)

def quant (q : Nat) (c : Int) : Int := if c < 0 then -((c.natAbs / 2 ^ q : Nat) : Int) else ((c.natAbs / 2 ^ q : Nat) : Int)

/-- Coefficient index at each scan position (R129). -/
def scan : List Nat := [0, 1, 4, 5, 2, 3, 8, 12, 6, 7, 9, 13, 10, 11, 14, 15]

/-! ## The block code (R130, R131) -/

def leadZeros : List Bool → Nat
  | false :: r => leadZeros r + 1
  | _ => 0

/-- ue(v) of order-0 Exp-Golomb. -/
def ueCode (v : Nat) : List Bool := let m := Nat.log2 (v + 1); List.replicate m false ++ bitsMsb (m + 1) (v + 1)
def seMap (v : Int) : Nat := if 0 < v then (2 * v - 1).toNat else (-2 * v).toNat
def seCode (v : Int) : List Bool := ueCode (seMap v)

def readUe (l : List Bool) : Option (Nat × List Bool) :=
  let m := leadZeros l
  match takeBits (2 * m + 1) l with
  | some (c, r) => some (natMsb c - 1, r)
  | none => none

def readSe (l : List Bool) : Option (Int × List Bool) :=
  match readUe l with
  | some (u, r) => some (if u % 2 = 1 then ((u + 1) / 2 : Nat) else -((u / 2 : Nat) : Int), r)
  | none => none

/-- The pairs of a CODED slot into the coefficient list. -/
def readPairs : Nat → Nat → List Bool → List Int → Option (List Int)
  | 0, _, _, q => some q
  | p + 1, pos, l, q =>
    match readUe l with
    | none => none
    | some (run, l) =>
      let pos := pos + run
      if 15 < pos then none else
      match readSe l with
      | none => none
      | some (v, l) => readPairs p (pos + 1) l (q.set (scan.getD pos 0) v)

/-- A slot as R131 reads it: residuals of SKIP and CODED, the spill entry of RAW, or malformed. -/
inductive SlotCode where
  | residual (r : List Int)
  | raw (e : Nat)
  | bad
deriving DecidableEq, Repr

/-- Width of a RAW index (R130). -/
def rawBits (b : Nat) : Nat := min (b - 2) 24

def readSlot (d : SurfDesc) (l : List Bool) : SlotCode :=
  match l with
  | false :: false :: _ => .residual (List.replicate 16 0)
  | false :: true :: r =>
    match takeBits 8 r with
    | none => .bad
    | some (h, r) =>
      let q := natMsb (h.take 3); let nnz := natMsb (h.drop 3)
      if d.lossless && q != 0 then .bad
      else if 16 < nnz then .bad
      else match readPairs nnz 0 r (List.replicate 16 0) with
        | none => .bad
        | some c => .residual (invT (c.map fun x => x * 2 ^ q))
  | true :: false :: r =>
    match takeBits (rawBits d.slotBits) r with
    | none => .bad
    | some (e, _) => if natMsb e < d.spillCount then .raw (natMsb e) else .bad
  | _ => .bad

def maxSample (d : SurfDesc) : Int := 2 ^ d.bits - 1
def midSample (d : SurfDesc) : Int := 2 ^ (d.bits - 1)

def clampSample (d : SurfDesc) (x : Int) : Int := clampI 0 (maxSample d) x

/-- Scan positions of nonzero levels, with the lowest others added until there are nmin (R137). -/
def padPositions (nmin : Nat) (q : List Int) : List Nat :=
  let nz := (List.range 16).filter fun p => q.getD (scan.getD p 0) 0 != 0
  let zs := (List.range 16).filter fun p => q.getD (scan.getD p 0) 0 == 0
  let s := nz ++ zs.take (nmin - nz.length)
  (List.range 16).filter fun p => s.contains p

def pairCode (q : List Int) : Nat → List Nat → List Bool
  | _, [] => []
  | pos, p :: ps => ueCode (p - pos) ++ seCode (q.getD (scan.getD p 0) 0) ++ pairCode q (p + 1) ps

/-- What the encoder stores for a block (R137): the slot's bits, or none where the block becomes RAW. -/
def encodeFrom (d : SurfDesc) (c : List Int) : Nat → Nat → Option (List Bool)
  | 0, _ => none
  | n + 1, q =>
    let nmin := 16 / d.rc - 1
    let qs := c.map (quant q)
    let s := padPositions nmin qs
    if s.isEmpty then some [false, false]
    else
      let code := [false, true] ++ bitsMsb 3 q ++ bitsMsb 5 s.length ++ pairCode qs 0 s
      if code.length ≤ d.slotBits then some code else encodeFrom d c n (q + 1)

def encodeBlock (d : SurfDesc) (res : List Int) : Option (List Bool) :=
  encodeFrom d (fwdT res) (if d.lossless then 1 else 8 - d.qbase) d.qbase

/-- The code of a RAW slot. -/
def rawCode (d : SurfDesc) (e : Nat) : List Bool := [true, false] ++ bitsMsb (rawBits d.slotBits) e

/-! ## Prediction (R127) -/

/-- The four reference samples (clamped coordinates) and their weights in sixteenths, for the sample at (x, y). -/
def predTaps (w h x y : Nat) (mvx mvy : Int) : List ((Nat × Nat) × Int) :=
  let x4 : Int := 4 * x + mvx; let y4 : Int := 4 * y + mvy
  let ix := x4 / 4; let fx := x4 % 4
  let iy := y4 / 4; let fy := y4 % 4
  let cx (i : Int) : Nat := (clampI 0 (w - 1) i).toNat
  let cy (j : Int) : Nat := (clampI 0 (h - 1) j).toNat
  [((cx ix, cy iy), (4 - fx) * (4 - fy)), ((cx (ix + 1), cy iy), fx * (4 - fy)),
   ((cx ix, cy (iy + 1)), (4 - fx) * fy), ((cx (ix + 1), cy (iy + 1)), fx * fy)]

def predOf (taps : List (Int × Int)) : Int := (taps.foldl (fun a t => a + t.1 * t.2) 8) / 16

/-! ## The stream code (R313) -/

/-- Bits of a group. -/
def groupBits (e w : Nat) : Nat := 6 + e + 32 * w

/-- The least width whose decoding takes 32/RC cycles (R313); cycles is 32 div RC. -/
def wMin (e cycles : Nat) : Nat :=
  ((List.range 33).find? fun w => cycles ≤ (groupBits e w + 127) / 128).getD 32

def bitLength (n : Nat) : Nat := if n = 0 then 0 else Nat.log2 n + 1

/-- The group of 32 elements with offsets from `base`, as a number whose bit k is bit k of the string. -/
def packGroup (e w base : Nat) (offs : List Nat) : Nat :=
  w + base * 2 ^ 6 + ((List.range 32).foldl (fun a k => a + offs.getD k 0 * 2 ^ (w * k)) 0) * 2 ^ (6 + e)

/-- Element k of the group that starts at bit 0 of v. -/
def groupElem (e v k : Nat) : Nat :=
  let w := v % 64
  (v / 2 ^ 6 % 2 ^ e + v / 2 ^ (6 + e + w * k) % 2 ^ w) % 2 ^ e

/-- Base, width and offsets that an encoder of the device chooses for values (R313, R314). -/
def chooseGroup (wmin : Nat) (vals : List Nat) : Nat × Nat :=
  let base := vals.foldl Nat.min (vals.headD 0)
  let top := vals.foldl Nat.max 0
  (base, max (bitLength (top - base)) wmin)

end Sys2Proof.Machine
end

