-- ==== Sys2Proof/Machine/Translate.lean ====
section
/-! DEFINITION. Translation and its checks (R11 to R27), the update of A and D (R24), and the hand-over of a page to the
device (R35). The model holds no translation cache: every access walks, which is what R23 makes of the caches. -/

namespace Sys2Proof.Machine

/-! ## Trap causes (R206) -/

def cILLEGAL : BitVec 6 := 0x01#6
def cCHAIN : BitVec 6 := 0x02#6
def cREGRANGE : BitVec 6 := 0x03#6
def cPRIV : BitVec 6 := 0x04#6
def cMISALIGN : BitVec 6 := 0x05#6
def cXLATE : BitVec 6 := 0x06#6
def cPERM : BitVec 6 := 0x07#6
def cOWNER : BitVec 6 := 0x08#6
def cPOISON : BitVec 6 := 0x09#6
def cRACE : BitVec 6 := 0x0A#6
def cACCWIN : BitVec 6 := 0x0C#6
def cSPRING : BitVec 6 := 0x0D#6
def cBARRIER : BitVec 6 := 0x0E#6
def cFPX : BitVec 6 := 0x0F#6
def cSTEP : BitVec 6 := 0x10#6
def cBREAK : BitVec 6 := 0x11#6
def cTRAPI : BitVec 6 := 0x12#6
def cSHADOW : BitVec 6 := 0x13#6
def cDOUBLE : BitVec 6 := 0x14#6
def cSURFRATE : BitVec 6 := 0x16#6
def cCOPY : BitVec 6 := 0x17#6

/-- TRAPINFO with a subcause alone. -/
def subInfo (n : Nat) : Word := BitVec.ofNat 32 n

/-! ## Page-table entries (R16) -/

def pteV (e : DWord) : Bool := e.getLsbD 0
def pteW (e : DWord) : Bool := e.getLsbD 1
def pteX (e : DWord) : Bool := e.getLsbD 2
def pteU (e : DWord) : Bool := e.getLsbD 3
def pteA (e : DWord) : Bool := e.getLsbD 4
def pteD (e : DWord) : Bool := e.getLsbD 5
def pteLeaf (e : DWord) : Bool := e.getLsbD 6
def ptePS (e : DWord) : Bool := e.getLsbD 7
def pteCL (e : DWord) : Nat := (e.extractLsb' 8 2 : BitVec 2).toNat
def pteWP (e : DWord) : Bool := e.getLsbD 10
def pteCMP (e : DWord) : Bool := e.getLsbD 11
def pteFrame (e : DWord) : Nat := (e.extractLsb' 12 40 : BitVec 40).toNat * 4096
def pteEVP (e : DWord) : BitVec 2 := e.extractLsb' 52 2
def pteCPOL (e : DWord) : Bool := e.getLsbD 54
def pteKind (e : DWord) : Nat := (e.extractLsb' 55 2 : BitVec 2).toNat
def pteOwn (e : DWord) : Bool := e.getLsbD 57
def pteKey (e : DWord) : Nat := (e.extractLsb' 58 6 : BitVec 6).toNat

/-- Bits of an entry that a non-leaf uses: V, LEAF and FRAME. -/
def nonLeafBits : DWord := 0x000FFFFFFFFFF041#64

/-- Bits of the page offset at a level, with PS (R14). -/
def pageBits (level : Nat) (ps : Bool) : Nat :=
  match level with
  | 1 => 30 | 2 => 21 | _ => if ps then 16 else 12

/-- An entry with V = 1 is malformed (R18). -/
def malformed (level : Nat) (e : DWord) : Bool :=
  if pteLeaf e then
    level == 0 || (level != 3 && ptePS e) || pteCL e == 3
      || pteFrame e % 2 ^ pageBits level (ptePS e) != 0
      || (level != 3 && pteOwn e)
      || (!pteOwn e && (isHostWin (pteFrame e) || isPeerWin (pteFrame e)))
  else level == 3 || (e &&& ~~~nonLeafBits) != 0#64

/-- Index of a level (R14). -/
def levelIndex (level : Nat) (va : DWord) : Nat :=
  if level = 0 then va.toNat / 2 ^ 39 % 2 ^ 17 else va.toNat / 2 ^ (39 - 9 * level) % 512

/-- What a walk ends in: a fault of R19 with its level, or a leaf. -/
inductive Walk where
  | fault (sub level : Nat)
  | leaf (level entry : Nat) (e : DWord)
deriving DecidableEq, Repr

def pteAt (s : State) (a : Nat) : DWord := BitVec.ofNat 64 (rawNat s a 8)

/-- The entries that a walk reads, level by level (R23). -/
def walkEntries (s : State) (va : DWord) : Nat → Nat → Nat → List Nat
  | 0, _, _ => []
  | n + 1, level, table =>
    let entry := table + 8 * levelIndex level va
    let e := pteAt s entry
    if !pteV e || malformed level e || pteLeaf e then [entry] else entry :: walkEntries s va n (level + 1) (pteFrame e)

/-- A member of a 64 KiB page whose sixteen entries differ translates as any one of them (R15; log 7). -/
def member64K (s : State) (entry : Nat) (e : DWord) : Nat × DWord :=
  let first := entry / 128 * 128
  let same := fun (x : DWord) => (x &&& ~~~0x30#64) == (e &&& ~~~0x30#64)
  if (List.range 16).all fun i => same (pteAt s (first + 8 * i)) then (entry, e)
  else
    let a := first + 8 * (Config.pick64K s.now).toNat
    let x := pteAt s a
    if pteV x && !malformed 3 x && pteLeaf x && ptePS x then (a, x) else (entry, e)

/-- The walk from a table at a level, level by level in the order of R19. -/
def walkFrom (s : State) (va : DWord) : Nat → Nat → Nat → Walk
  | 0, _, _ => .fault 0x03 3
  | n + 1, level, table =>
    let entry := table + 8 * levelIndex level va
    let e := pteAt s entry
    if !pteV e then .fault 0x02 level
    else if malformed level e then .fault 0x03 level
    else if pteLeaf e then
      if level = 3 ∧ ptePS e = true then let (a, x) := member64K s entry e; .leaf 3 a x else .leaf level entry e
    else if !populated s (pteFrame e) then .fault 0x05 level
    else walkFrom s va n (level + 1) (pteFrame e)

def walk (s : State) (root : Nat) (va : DWord) : Walk := walkFrom s va 4 0 root

/-! ## Checks (R19) -/

/-- What an access needs: a write, a fetch, the KINDs it may touch, whether OWN = 1 is no obstacle (R37), whether U is
checked and whether KEY is compared (R236). -/
structure Need where
  write : Bool
  fetch : Bool
  kinds : List Nat
  ownOk : Bool
  compareKey : Bool
deriving DecidableEq, Repr

/-- Ordinary loads, LD.BYP, untracked reads (R21). -/
def Need.load : Need := ⟨false, false, [0, 1, 2, 3], false, true⟩
/-- LD.ACQ and the reads of normal pages only (R261). -/
def Need.loadNormal : Need := ⟨false, false, [0], false, true⟩
def Need.store : Need := ⟨true, false, [0], false, true⟩
def Need.fetchCode : Need := ⟨false, true, [0], false, true⟩
def Need.copyRead : Need := ⟨false, false, [0, 1, 2, 3], true, true⟩
/-- Surface instructions on one KIND (R21). -/
def Need.surf (k : Nat) (write : Bool) : Need := ⟨write, false, [k], false, true⟩

/-- A translated access: physical address, leaf, the entry's address and the poison of its 4 KiB piece (check 13). -/
structure Xlat where
  pa : Nat
  pte : DWord
  entry : Nat
  poison : Bool
deriving DecidableEq, Repr

/-- The verdict of the checks of R19. `own` is check 12: a hand-over is needed. -/
inductive Access where
  | ok (x : Xlat)
  | fail (cause : BitVec 6) (sub level : Nat)
  | own (x : Xlat)
deriving DecidableEq, Repr

/-- The checks of R19 in their order, up to check 13, which each kind of access answers for itself (R27). -/
def checkAccess (s : State) (ctx region : Nat) (need : Need) (va : DWord) : Access :=
  match context? s ctx with
  | none => .fail cXLATE 0x02 0
  | some c =>
    if va.toNat / 2 ^ 56 != 0 then .fail cXLATE 0x01 0
    else match walk s c.root va with
      | .fault sub level => .fail cXLATE sub level
      | .leaf level entry e =>
        let bits := pageBits level (ptePS e)
        let pa := pteFrame e + va.toNat % 2 ^ bits
        let x : Xlat := ⟨pa, e, entry, pagePoisoned s pa⟩
        if !pointsAtMemory s pa then .fail cXLATE 0x04 0
        else if !pteU e then .fail cPERM 0x10 0
        else if need.write && !pteW e then .fail cPERM 0x11 0
        else if need.fetch && !pteX e then .fail cPERM 0x12 0
        else if !need.kinds.contains (pteKind e) then .fail cPERM 0x13 0
        else if isDram pa && need.compareKey && pteKey e != heldKey s region then .fail cPERM 0x14 0
        else if isDram pa && (keyPair s (pteKey e)).isNone then .fail cPERM 0x15 0
        else if pteOwn e && !need.ownOk then .own x
        else .ok x

/-- TRAPINFO of a check: subcause, and the walk level where one applies (R19). -/
def checkInfo (cause : BitVec 6) (sub level : Nat) : Word :=
  subInfo (sub + if cause == cXLATE && (sub == 2 || sub == 3 || sub == 5) then level * 256 else 0)

/-- The entries of the page that the leaf at `entry` maps: sixteen for a 64 KiB page (R15). -/
def leafEntries (entry : Nat) (e : DWord) : List Nat :=
  if ptePS e then (List.range 16).map fun i => entry / 128 * 128 + 8 * i else [entry]

/-- The device has performed an access to the page, which may be handed back from now on (R36). -/
def notePage (s : State) (x : Xlat) : State :=
  if s.handedOver.isEmpty then s
  else { s with handedOver := s.handedOver.filter fun h => !(h.2 == .device && (leafEntries x.entry x.pte).contains h.1) }

/-- These leaf entries have just been given to a party (R36). -/
def noteHanded (s : State) (entries : List Nat) (p : Party) : State :=
  { s with handedOver := entries.map (·, p) ++ s.handedOver.filter fun h => !entries.contains h.1 }

/-- A party has not yet performed an access to the page that these entries map, since it was handed to it (R36). -/
def awaitsParty (s : State) (entries : List Nat) (p : Party) : Bool := s.handedOver.any fun h => h.2 == p && entries.contains h.1

/-- The atomic OR of A, and of D for a write, at the entry's home slice (R24), once an access through the translation is
performed (log 65). -/
def setAD (s : State) (x : Xlat) (write : Bool) : State :=
  let s := notePage s x
  let e := pteAt s x.entry
  if !pteV e || pteFrame e != pteFrame x.pte then s
  else
    let e' := e ||| 0x10#64 ||| (if write then 0x20#64 else 0#64)
    if e' = e then s else rawWrite s x.entry (bytesOf 8 e'.toNat)

/-! ## Hand-over to the device (R35) -/

/-- Result of a hand-over: the new state, or the OWNER subcause. -/
inductive Hand where
  | done (s : State)
  | failed (sub : Nat)

/-- The first 4 KiB of the virtual page that holds va, by which its hand-overs are known (R25). -/
def pageKey (s : State) (ctx : Nat) (va : DWord) : Nat :=
  match context? s ctx with
  | none => va.toNat / 4096
  | some c => match walk s c.root va with
    | .leaf _ _ e => if ptePS e then va.toNat / 65536 * 16 else va.toNat / 4096
    | .fault _ _ => va.toNat / 4096

/-- The subcause of a failed hand-over of the page of va, where one is to be reported (R35). -/
def failedHand (s : State) (ctx : Nat) (fails : List (Nat × Nat)) (va : DWord) : Option Nat := getK (pageKey s ctx va) fails

/-- The level-3 leaf that maps va, with its entry: only such a page changes its owner (R18). -/
def leafAt (s : State) (ctx : Nat) (va : DWord) : Option (Nat × DWord) :=
  (context? s ctx).bind fun c => match walk s c.root va with
    | .leaf level entry e => if level = 3 then some (entry, e) else none
    | .fault _ _ => none

def rewriteLeaves (s : State) (entries : List Nat) (f : DWord → DWord) : State :=
  entries.foldl (init := s) fun s a => rawWrite s a (bytesOf 8 (f (pteAt s a)).toNat)

/-- The leaf with another owner and frame. -/
def leafWith (own : Bool) (frame : Nat) (e : DWord) : DWord :=
  (e &&& ~~~0x020FFFFFFFFFF000#64) ||| (if own then 0x0200000000000000#64 else 0#64) ||| BitVec.ofNat 64 frame

/-- Frames that a page of n 4 KiB pieces takes from the pool: the first aligned run of free frames (log 66). -/
def poolFrame (pool : List Nat) (n : Nat) : Option Nat :=
  pool.find? fun f => f % (4096 * n) == 0 && (List.range n).all fun i => pool.contains (f + 4096 * i)

/-- DRAM pages from a frame on are their owner's no more, or its at this port (log 44). -/
def lend (s : State) (frame n port : Nat) : State :=
  { s with lent := (List.range n).foldl (fun l i => putK 0 (frame / 4096 + i) port l) s.lent }

/-- A hand-over of the page of `va` (R35). `link` is what the partner does. The migration engine's writes of the page in DRAM, like
page walks and the updates of A and D, are charged to no region: R60 names no requester for them (log 87). -/
def handOver (s : State) (ctx : Nat) (va : DWord) (link : LinkResult) : Hand :=
  match context? s ctx with
  | none => .failed 0x22
  | some c =>
    match walk s c.root va with
    | .fault _ _ => .done s
    | .leaf _ entry e =>
      if !pteOwn e then .done s
      else
        let n := if ptePS e then 16 else 1
        let entries := leafEntries entry e
        if isDram (pteFrame e) then
          if link = .failed then .failed 0x22
          else .done (rewriteLeaves (lend s (pteFrame e) n 0) entries (leafWith false (pteFrame e)))
        else match poolFrame c.pool n with
          | none => .failed 0x20
          | some f =>
            let src := pteFrame e
            let poisoned := (List.range (32 * n)).any fun l => s.linePoison.contains (lineOf src + l)
            if link = .failed then .failed 0x22
            else if poisoned || link = .poisoned then .failed 0x21
            else
              let s := writeBytes s (pteKey e) f (rawBytes s src (4096 * n))
              let s := modContext s ctx fun c =>
                { c with pool := c.pool.filter fun x => !(f ≤ x && x < f + 4096 * n) }
              .done (rewriteLeaves s entries (leafWith false f))

end Sys2Proof.Machine
end

