-- ==== Sys2Proof/Machine/Llc.lean ====
section
/-! DEFINITION. The last-level cache and the reads of DRAM that it asks for (R52 to R55, R60, R61). -/

namespace Sys2Proof.Machine

/-! ## LLC and DRAM (R55, R60) -/

def llcHolds (s : State) (line : Nat) : Bool := s.llc.any fun l => l.line == line

/-- The lines of which a span holds versions. -/
def verLines (sp : Span) : List Nat := (sp.ver.map fun p => lineOf p.1).eraseDups

/-- Version lines that all spans hold in the slice of an address (R54). -/
def sliceVersions (s : State) (pa : Nat) : Nat :=
  s.gangs.foldl (fun n g => n + ((verLines g.span).filter fun l => sliceOf (lineBase l) == sliceOf pa).length) 0

/-- Make room for one more line in a slice that committed lines and versions fill: a committed line of lowest EVP leaves, written
back if dirty at the charge of the region whose line it is (R54, R55, R60, R61; log 6). The whole slice is one set (log 70). -/
def llcRoom (s : State) (line : Nat) : State :=
  let sl := sliceOf (lineBase line)
  let here := s.llc.filter fun l => sliceOf (lineBase l.line) == sl
  if here.length + sliceVersions s (lineBase line) < Config.llcLines then s
  else
    let low := here.foldl (fun m l => min m l.evp.toNat) 3
    let cand := here.filter fun l => l.evp.toNat == low
    let (k, s) := nextFresh s
    match cand[Config.replaceLlc k % cand.length]? with
    | none => s
    | some v =>
      let s := if v.dirty then charge s v.region .dram (reachOf (lineBase v.line)) 1 else s
      { s with llc := s.llc.filter fun l => l.line != v.line }

/-- A line read from DRAM is kept, unless CL = 10 (R55). -/
def llcAllocate (s : State) (region : Nat) (x : Xlat) : State :=
  if pteCL x.pte = 2 then s
  else
    let s := llcRoom s (lineOf x.pa)
    { s with llc := ⟨lineOf x.pa, false, pteEVP x.pte, BitVec.ofNat 6 (pteKey x.pte), region⟩ :: s.llc }

/-- A read at the home slice: a miss reads DRAM, charged whatever the balance, and allocates (R55, R60). -/
def llcRead (s : State) (region : Nat) (x : Xlat) : State :=
  if !isDram x.pa || llcHolds s (lineOf x.pa) then s
  else llcAllocate (charge s region .dram (reachOf x.pa) 1) region x

/-- A committed write of a line at its home slice (R55). -/
def llcWrite (s : State) (region line cl : Nat) (wp : Bool) (evp : BitVec 2) (slot : Nat) : State :=
  if !isDram (lineBase line) then s
  else
    let rest := s.llc.filter fun l => l.line != line
    if cl = 2 then { charge s region .dram (reachOf (lineBase line)) 1 with llc := rest }
    else
      let s := if wp then charge s region .dram (reachOf (lineBase line)) 1 else s
      let s := if llcHolds s line then s else llcRoom s line
      { s with llc := ⟨line, !wp, evp, BitVec.ofNat 6 slot, region⟩ :: s.llc.filter fun l => l.line != line }

/-- A committed write of a line through its leaf at its home slice (R55). -/
def llcStore (s : State) (region line : Nat) (leaf : DWord) : State :=
  llcWrite s region line (pteCL leaf) (pteWP leaf) (pteEVP leaf) (pteKey leaf)

/-! ## What a gang has read (R93) -/

/-- When the newest value that the gang has read from a line was current. -/
def seenAt (g : Gang) (line : Nat) : Nat := readK 0 line g.seen

/-- An access of the gang returned bytes of a line as they stood at a moment. -/
def see (line t : Nat) (g : Gang) : Gang := { g with seen := setK line (max t (seenAt g line)) g.seen }

/-- The gang has read lines as they stood at a moment: none of its later untracked reads goes back behind it (R93). -/
def noteSeen (s : State) (uid : Nat) (lines : List Nat) (t : Nat) : State := modGang s uid fun g => lines.foldl (fun g l => see l t g) g

/-- A home read of this requester: a gang's, as the line stands now. -/
def noteHome (s : State) (who : Asker) (x : Xlat) : State :=
  match who with
  | .gang u _ => noteSeen s u [lineOf x.pa] s.now
  | _ => s

/-! ## Metered requests for lines (R53, R61, R360) -/

/-- The request of a requester for the line of x: it is served from the LLC, has issued before, issues now, or waits. -/
def askLine (s : State) (who : Asker) (region : Nat) (x : Xlat) : State × Bool :=
  if !isDram x.pa || llcHolds s (lineOf x.pa) then (s, true)
  else match ask s who region .dram (reachOf x.pa) (lineOf x.pa) 1 with
    | (t, true) => (llcAllocate t region x, true)
    | (t, false) => (t, false)

/-- One request for each distinct line of an instruction (R53): the state, and whether all have issued. -/
def askLines (s : State) (who : Asker) (region : Nat) : List Xlat → State × Bool
  | [] => (s, true)
  | x :: xs =>
    let (s, ok) := askLine s who region x
    let (s, rest) := askLines s who region xs
    (s, ok && rest)

end Sys2Proof.Machine
end

