-- ==== Sys2Proof/Machine/SurfMem.lean ====
section
/-! DEFINITION. Reading descriptors, slots, motion entries and spill entries of coded surfaces through translation, and the
decoding of samples and blocks as a span sees them (R119 to R135, R140). -/

namespace Sys2Proof.Machine

/-- A result that may fail a check: a value, a trap's cause, TRAPINFO and address, the need of a hand-over, or a wait for
the DRAM budget with the state that its requests left (R61). -/
inductive Acc (α : Type) where
  | ok (s : State) (v : α)
  | bad (s : State) (cause : BitVec 6) (info : Word) (addr : DWord)
  | own (s : State) (addr : DWord)
  | wait (s : State)

def Acc.bind {α β : Type} (x : Acc α) (k : State → α → Acc β) : Acc β :=
  match x with
  | .ok s v => k s v
  | .bad s c i a => .bad s c i a
  | .own s a => .own s a
  | .wait s => .wait s

def Acc.map {α β : Type} (f : α → β) (x : Acc α) : Acc β := x.bind fun s v => .ok s (f v)

/-- A list of accesses one after another; the first that fails decides. -/
def accList {α β : Type} (f : State → α → Acc β) : State → List α → Acc (List β)
  | s, [] => .ok s []
  | s, a :: as => (f s a).bind fun s v => (accList f s as).bind fun s vs => .ok s (v :: vs)

/-- Who reads: context, region, the requester whose reads are charged and may wait (none for a commit's, which never wait,
R61), and the pins and motion writes of the span whose view it is ([] for committed state). -/
structure View where
  ctx : Nat
  region : Nat
  who : Option Asker
  pins : List Pin
  moves : List MvWrite
deriving DecidableEq, Repr

def View.committed (ctx region : Nat) : View := ⟨ctx, region, none, [], []⟩

/-- The checked translation of one address, poison as a fault (R140). -/
def vplain (need : Need) (v : View) (s : State) (va : DWord) : Acc Xlat :=
  match checkAccess s v.ctx v.region need va with
  | .fail c sub level => .bad s c (checkInfo c sub level) va
  | .own _ => .own s va
  | .ok x => if x.poison || s.linePoison.contains (lineOf x.pa) then .bad s cPOISON (subInfo 0x30) va else .ok s x

/-- The same as an access: its line requested, A set, and D for a write. -/
def vcheck (need : Need) (v : View) (s : State) (va : DWord) : Acc Xlat :=
  (vplain need v s va).bind fun s x => match v.who with
    | none => .ok (setAD s x need.write) x
    | some who => match askLine s who v.region x with
      | (s, true) => .ok (setAD (noteHome s who x) x need.write) x
      | (s, false) => .wait s

/-- n committed bytes at a virtual address, piece by piece where they cross 128-byte lines. -/
def vread (need : Need) (v : View) : Nat → State → DWord → Nat → Acc (List Byte)
  | 0, s, _, _ => .ok s []
  | fuel + 1, s, va, n =>
    if n = 0 then .ok s []
    else
      let k := min n (128 - va.toNat % 128)
      (vcheck need v s va).bind fun s x =>
        (vread need v fuel s (va + BitVec.ofNat 64 k) (n - k)).map fun rest => readBytes s (pteKey x.pte) x.pa k ++ rest

/-- Bytes of a descriptor or of a stored form. -/
def vbytes (need : Need) (v : View) (s : State) (va : DWord) (n : Nat) : Acc (List Byte) := vread need v (n / 128 + 2) s va n

def natAt (bs : List Byte) (off n : Nat) : Nat := natOfBytes ((bs.drop off).take n)
def dwordAt (bs : List Byte) (off : Nat) : DWord := BitVec.ofNat 64 (natAt bs off 8)
def wordAt (bs : List Byte) (off : Nat) : Word := BitVec.ofNat 32 (natAt bs off 4)
def zeroAt (bs : List Byte) (off n : Nat) : Bool := natAt bs off n == 0

/-- `x[h:l]` as a number. -/
def fld {w : Nat} (x : BitVec w) (lo n : Nat) : Nat := x.toNat / 2 ^ lo % 2 ^ n

/-! ## Descriptors (R119, R120) -/

/-- The fields of a 64-byte descriptor. -/
def parseSurf (va : DWord) (bs : List Byte) : SurfDesc :=
  let f := wordAt bs 48
  let ext := wordAt bs 40
  { va, slotBase := dwordAt bs 0, mvBase := dwordAt bs 8, spillBase := dwordAt bs 16, refA := dwordAt bs 24,
    refB := dwordAt bs 32, width := fld ext 0 16 + 1, height := fld ext 16 16 + 1, spillCount := natAt bs 44 3,
    rc := (match fld f 19 2 with
      | 0 => 16 | 1 => 8 | _ => 4),
    qbase := fld f 16 3, slotBits := 8 * (fld f 11 5 + 1), lossless := f.getLsbD 10, anchor := f.getLsbD 9,
    bits := (match fld f 7 2 with
      | 0 => 8 | 1 => 10 | 2 => 12 | _ => 16),
    chans := fld f 5 2 + 1 }

/-- A descriptor is malformed on its own fields (R120); so is one whose SLOTBASE lies beyond VA[55:0] (log 89). -/
def surfMalformed (d : SurfDesc) (bs : List Byte) : Bool :=
  let f := wordAt bs 48
  fld f 21 11 != 0 || fld f 0 5 != 0 || natAt bs 47 1 != 0 || !zeroAt bs 52 12 || fld f 19 2 == 3
    || (d.lossless && d.qbase != 0)
    || (d.anchor && (d.mvBase != 0 || d.refA != 0 || d.refB != 0))
    || (!d.anchor && d.mvBase == 0)
    || d.slotBase.toNat % 128 != 0 || d.slotBase.toNat / 2 ^ 56 != 0 || d.mvBase.toNat % 128 != 0
    || d.spillBase.toNat % 128 != 0 || d.refA.toNat % 64 != 0 || d.refB.toNat % 64 != 0
    || decide (2 ^ rawBits d.slotBits < d.spillCount)

/-- The reference fits its dependent surface (R120). -/
def refMatches (d r : SurfDesc) : Bool :=
  r.anchor && r.width == d.width && r.height == d.height && r.chans == d.chans && r.bits == d.bits

/-- Read and judge one reference: a malformed reference is reported at its own address, a mismatch at the named one. -/
def readRef (v : View) (s : State) (d : SurfDesc) (ref : DWord) : Acc (Option SurfDesc) :=
  if ref = 0 then .ok s none
  else (vbytes .load v s ref 64).bind fun s bs =>
    let r := parseSurf ref bs
    if surfMalformed r bs then .bad s cPERM (subInfo 0x17) ref
    else if !refMatches d r then .bad s cPERM (subInfo 0x17) d.va
    else .ok s (some r)

/-- The surface that a descriptor address names (R120, R121, R317). -/
def readSurface (v : View) (s : State) (va : DWord) : Acc Surface :=
  if va.toNat % 64 != 0 then .bad s cMISALIGN (subInfo 0x01) va
  else (vbytes .load v s va 64).bind fun s bs =>
    let d := parseSurf va bs
    if surfMalformed d bs then .bad s cPERM (subInfo 0x17) va
    else (readRef v s d d.refA).bind fun s a => (readRef v s d d.refB).map fun b => ⟨d, a, b⟩

/-! ## The stored form (R122 to R125) -/

def blocksAcross (d : SurfDesc) : Nat := (d.width + 3) / 4
def blocksDown (d : SurfDesc) : Nat := (d.height + 3) / 4
def slotIndex (d : SurfDesc) (c bx by' : Nat) : Nat := c * blocksAcross d * blocksDown d + by' * blocksAcross d + bx
def slotVA (d : SurfDesc) (c bx by' : Nat) : DWord :=
  d.slotBase + BitVec.ofNat 64 (slotIndex d c bx by' * (d.slotBits / 8))
def motionVA (d : SurfDesc) (px py : Nat) : DWord :=
  d.mvBase + BitVec.ofNat 64 (4 * (py * ((d.width + 7) / 8) + px))
def bitmapLines (d : SurfDesc) : Nat := (d.spillCount + 1023) / 1024
def spillVA (d : SurfDesc) (e : Nat) : DWord :=
  d.spillBase + BitVec.ofNat 64 (128 + 128 * bitmapLines d + 32 * e)

/-- A decoded slot: residuals, or the samples of a RAW block. -/
inductive BlockCode where
  | res (r : List Int)
  | raw (p : List Nat)
deriving DecidableEq, Repr

/-- Sample (x, y) of the block lies in the extent. -/
def inExtent (d : SurfDesc) (bx by' m : Nat) : Bool := 4 * bx + m % 4 < d.width && 4 * by' + m / 4 < d.height

/-- Read and decode the committed slot of a block (R131). -/
def readBlock (v : View) (s : State) (d : SurfDesc) (c bx by' : Nat) : Acc BlockCode :=
  let va := slotVA d c bx by'
  (vbytes (.surf 1 false) v s va (d.slotBits / 8)).bind fun s bs =>
    match readSlot d (bitsOfBytes bs) with
    | .bad => .bad s cPERM (subInfo 0x18) va
    | .residual r => .ok s (.res r)
    | .raw e =>
      (vbytes (.surf 3 false) v s (spillVA d e) 32).bind fun s bs =>
        let p := (List.range 16).map fun m => natAt bs (2 * m) 2
        if (List.range 16).any fun m => inExtent d bx by' m && 2 ^ d.bits ≤ p.getD m 0 then
          .bad s cPERM (subInfo 0x18) va
        else .ok s (.raw p)

/-- The span's own write to a sample, if any. -/
def ownWrite (v : View) (d : SurfDesc) (c x y : Nat) : Option Nat :=
  (v.pins.find? fun p => p.surf.d.va == d.va && p.chan == c && p.bx == x / 4 && p.by' == y / 4).bind
    fun p => getK (y % 4 * 4 + x % 4) p.writes

/-- The motion entry of a sample's patch as the view sees it, checked by R123. -/
def motionBad (su : Surface) (e : Word) : Bool :=
  fld e 30 2 != 0 || fld e 28 2 == 3 || (fld e 28 2 == 1 && su.a.isNone) || (fld e 28 2 == 2 && su.b.isNone)

def readMotion (v : View) (s : State) (su : Surface) (px py : Nat) : Acc Word :=
  let va := motionVA su.d px py
  match v.moves.find? fun m => m.surf.d.va == su.d.va && m.px == px && m.py == py with
  | some m => .ok s m.value
  | none => (vbytes (.surf 2 false) v s va 4).bind fun s bs =>
      if motionBad su (wordAt bs 0) then .bad s cPERM (subInfo 0x18) va else .ok s (wordAt bs 0)

/-- A sample of an anchor as the view sees it (R126, R131). -/
def anchorSample (v : View) (s : State) (d : SurfDesc) (c x y : Nat) : Acc Int :=
  match ownWrite v d c x y with
  | some w => .ok s w
  | none => (readBlock v s d c (x / 4) (y / 4)).map fun b =>
      match b with
      | .res r => clampSample d (midSample d + r.getD (y % 4 * 4 + x % 4) 0)
      | .raw p => (p.getD (y % 4 * 4 + x % 4) 0 : Nat)

/-- The reference that a motion entry selects. -/
def refOf (su : Surface) (e : Word) : Option SurfDesc :=
  match fld e 28 2 with
  | 1 => su.a | 2 => su.b | _ => none

def mvx (e : Word) : Int := (BitVec.ofNat 14 (fld e 0 14)).toInt
def mvy (e : Word) : Int := (BitVec.ofNat 14 (fld e 14 14)).toInt

/-- Prediction under a motion entry (R126, R127). -/
def predUnder (v : View) (s : State) (su : Surface) (e : Word) (c x y : Nat) : Acc Int :=
  match refOf su e with
  | none => .ok s (midSample su.d)
  | some r =>
    (accList (fun s (t : (Nat × Nat) × Int) => (anchorSample v s r c t.1.1 t.1.2).map fun a => (a, t.2)) s
      (predTaps su.d.width su.d.height x y (mvx e) (mvy e))).map predOf

def predAt (v : View) (s : State) (su : Surface) (c x y : Nat) : Acc Int :=
  if su.d.anchor then .ok s (midSample su.d)
  else (readMotion v s su (x / 8) (y / 8)).bind fun s e => predUnder v s su e c x y

/-- A sample as the view sees it (R131, R316). -/
def sampleAt (v : View) (s : State) (su : Surface) (c x y : Nat) : Acc Int :=
  match ownWrite v su.d c x y with
  | some w => .ok s w
  | none => (readBlock v s su.d c (x / 4) (y / 4)).bind fun s b =>
      match b with
      | .raw p => .ok s (p.getD (y % 4 * 4 + x % 4) 0 : Nat)
      | .res r => (predAt v s su c x y).map fun p => clampSample su.d (p + r.getD (y % 4 * 4 + x % 4) 0)

/-- The 16 samples of a block inside the extent, 0 outside. -/
def blockAt (v : View) (s : State) (su : Surface) (c bx by' : Nat) : Acc (List Int) :=
  accList (fun s m =>
    if inExtent su.d bx by' m then sampleAt v s su c (4 * bx + m % 4) (4 * by' + m / 4) else .ok s 0) s (List.range 16)

/-- The 16 predictions of a block. -/
def predsAt (v : View) (s : State) (su : Surface) (c bx by' : Nat) : Acc (List Int) :=
  accList (fun s m =>
    if inExtent su.d bx by' m then predAt v s su c (4 * bx + m % 4) (4 * by' + m / 4) else .ok s 0) s (List.range 16)

/-- The reference samples that a sample's prediction weights (R103): the reference and the coordinates. -/
def predLocs (v : View) (s : State) (su : Surface) (x y : Nat) : List (SurfDesc × Nat × Nat) :=
  if su.d.anchor then []
  else match readMotion { v with who := none } s su (x / 8) (y / 8) with
    | .ok _ e => match refOf su e with
      | none => []
      | some r => (predTaps su.d.width su.d.height x y (mvx e) (mvy e)).map fun t => (r, t.1.1, t.1.2)
    | _ => []

/-- The physical address of a slot, without effect: the identity of the block's samples (R86). -/
def slotPA (v : View) (s : State) (d : SurfDesc) (c bx by' : Nat) : Nat :=
  match checkAccess s v.ctx v.region (.surf 1 false) (slotVA d c bx by') with
  | .ok x => x.pa | .own x => x.pa | .fail _ _ _ => 0

def sampleLoc (v : View) (s : State) (d : SurfDesc) (c x y : Nat) : Sample :=
  ⟨slotPA v s d c (x / 4) (y / 4), y % 4 * 4 + x % 4⟩

/-! ## The lines of a block's stored form (R59, R65, R84) -/

/-- One translation for each line of n bytes of a stored form. -/
def formXlats (v : View) (s : State) (kind : Nat) (va : DWord) (n : Nat) : List Xlat :=
  ((List.range n).filterMap fun i => match checkAccess s v.ctx v.region (.surf kind false) (va + BitVec.ofNat 64 i) with
    | .ok x => some x
    | _ => none).foldl (fun l x => if l.any fun y => lineOf y.pa == lineOf x.pa then l else l ++ [x]) []

/-- The line of a descriptor and those of the references that it names. -/
def descLines (v : View) (s : State) (su : Surface) : List Nat :=
  (su.d.va :: ((su.a.toList ++ su.b.toList).map (·.va))).filterMap fun va => match checkAccess s v.ctx v.region .load va with
    | .ok x => some (lineOf x.pa)
    | _ => none

/-- What the decoding of a block reads: the lines of slots and motion entries, and those of spill entries, as they translate. -/
structure BlockForm where
  main : List Xlat
  spill : List Xlat

def BlockForm.xlats (f : BlockForm) : List Xlat := f.main ++ f.spill
def BlockForm.mainLines (f : BlockForm) : List Nat := f.main.map fun x => lineOf x.pa
def BlockForm.all (f : BlockForm) : List Nat := f.xlats.map fun x => lineOf x.pa

def BlockForm.append (f h : BlockForm) : BlockForm := ⟨f.main ++ h.main, f.spill ++ h.spill⟩

/-- The slot of one block and its spill entry. -/
def slotForm (v : View) (s : State) (d : SurfDesc) (c bx by' : Nat) : BlockForm :=
  let va := slotVA d c bx by'
  let spill := match vbytes (.surf 1 false) { v with who := none } s va (d.slotBits / 8) with
    | .ok s bs => match readSlot d (bitsOfBytes bs) with
      | .raw e => formXlats v s 3 (spillVA d e) 32
      | _ => []
    | _ => []
  ⟨formXlats v s 1 va (d.slotBits / 8), spill⟩

/-- Reference blocks that the prediction of a block weighs. -/
def refBlocks (v : View) (s : State) (su : Surface) (bx by' : Nat) : List (SurfDesc × Nat × Nat) :=
  (((List.range 16).filter (inExtent su.d bx by')).flatMap fun m =>
    (predLocs { v with who := none } s su (4 * bx + m % 4) (4 * by' + m / 4)).map fun r => (r.1, r.2.1 / 4, r.2.2 / 4)).eraseDups

/-- The stored form of a block: its slot, its patch's motion entry, and the slots of its references. -/
def blockForm (v : View) (s : State) (su : Surface) (c bx by' : Nat) : BlockForm :=
  let own := slotForm v s su.d c bx by'
  let mv := if su.d.anchor then [] else formXlats v s 2 (motionVA su.d (bx / 2) (by' / 2)) 4
  (refBlocks v s su bx by').foldl (fun f r => f.append (slotForm v s r.1 c r.2.1 r.2.2)) ⟨own.main ++ mv, own.spill⟩

/-- The lines that a decoded-block entry was formed from: its stored form, its descriptor and those of its references (R59). -/
def entryLines (v : View) (s : State) (su : Surface) (c bx by' : Nat) : List Nat :=
  ((blockForm v s su c bx by').all ++ descLines v s su).eraseDups

/-- The header and bitmap lines of a spill arena (R125). -/
def arenaXlats (v : View) (s : State) (d : SurfDesc) : List Xlat := formXlats v s 3 d.spillBase (128 + 128 * bitmapLines d)

end Sys2Proof.Machine
end

