-- ==== Sys2Proof/Machine/Span.lean ====
section
/-! DEFINITION. Caches (R39 to R43, R52 to R57), tracked accesses, versions, rollback (R64), conflicts (R71 to R77), the
commit (R68 to R70, R137, R138) and the writes that boundary instructions and engines make. -/

namespace Sys2Proof.Machine

/-! ## L1 (R39 to R42) -/

/-- A current line of a cache for an acquire point (R42), tagged with the key of the leaf that asks (R29). -/
def cacheHit (ls : List CacheLine) (line key acq : Nat) : Option CacheLine :=
  ls.find? fun l => l.line == line && l.key == key && acq < l.fill

/-- The line that an access translated to x hits in a cache. -/
def lineHit (ls : List CacheLine) (x : Xlat) (acq : Nat) : Option CacheLine := cacheHit ls (lineOf x.pa) (pteKey x.pte) acq

/-- Enter a line into a set, among the lines of the set that `class'` admits: when these fill the n ways that it may use, a free
choice of the candidates is replaced. The lines and the victim (R39). -/
def cacheFill (ls : List CacheLine) (n way : Nat) (class' cand : CacheLine → Bool) (c : CacheLine) :
    List CacheLine × Option CacheLine :=
  let rest := ls.filter fun l => l.line != c.line
  let set := rest.filter fun l => l.line % Config.l1Sets == c.line % Config.l1Sets && class' l
  if set.length < n then (c :: rest, none)
  else
    let l := set.filter cand
    let v := l[way % l.length]?
    (c :: rest.filter fun l => some l.line != v.map (·.line), v)

/-- The lease that the scheduler applies (R350). -/
def appliedLease (l : Lease) : Nat :=
  match l.apMode with
  | .measured => l.meas
  | .declared => l.apDecl
  | .floor => max l.apDecl l.meas

/-- Enter a victim tag; a full set of tags replaces a free choice (R352). -/
def tagEnter (tags : List (Nat × Nat)) (k : Nat) (t : Nat × Nat) : List (Nat × Nat) :=
  if tags.length < 4096 then tags ++ [t] else (tags.eraseIdx (Config.replaceTag k).toNat) ++ [t]

def dropLines (ls : List CacheLine) (lines : List Nat) : List CacheLine := ls.filter fun l => !lines.contains l.line

/-- Where a fill goes: among the shared lines of its set or the leasable ones, the ways that it may fill there without replacing a
line, and which lines it may replace. -/
structure FillPlace where
  shared : Bool
  ways : Nat
  may : CacheLine → Bool

/-- The place of a fill of the gang (R349, R357; log 78): an engine read takes a shared line; a fill within the gang's lease a
leasable one; a fill beyond it, by a free choice, replaces one of its own leasable lines in the set, whether or not a way is free, or
takes a shared one. -/
def fillClass (c : Core) (uid lease line k : Nat) (engine : Bool) : FillPlace :=
  let own (l : CacheLine) : Bool := l.owner == uid && !l.shared
  let all : CacheLine → Bool := fun _ => true
  if engine then ⟨true, Config.l1SharedWays, all⟩
  else if (c.l1.filter fun l => own l && l.line != line).length < lease then ⟨false, Config.l1Ways - Config.l1SharedWays, all⟩
  else if (c.l1.any fun l => own l && l.line != line && l.line % Config.l1Sets == line % Config.l1Sets)
      && (Config.replaceWay (k + 1)).getLsbD 0 then ⟨false, 0, own⟩
  else ⟨true, Config.l1SharedWays, all⟩

/-- Fill an L1 line for a gang; a leasable line replaced leaves its tag (R352). -/
def l1Fill (s : State) (core uid : Nat) (x : Xlat) (engine : Bool) : State :=
  let line := lineOf x.pa
  let data := readBytes s (pteKey x.pte) (lineBase line) 128
  let (k, s) := nextFresh s
  let (_, s) := nextFresh s
  let lease := ((gang? s uid).map fun g => appliedLease g.lease).getD 0
  modCore s core fun c =>
    let f := fillClass c uid lease line k engine
    let (l1, v) := cacheFill c.l1 f.ways (Config.replaceWay k).toNat (fun l => l.shared == f.shared) f.may
      ⟨line, pteKey x.pte, s.now, data, uid, f.shared⟩
    match v with
    | none => { c with l1 }
    | some v => { c with l1, victims := if v.shared then c.victims else tagEnter c.victims k (v.line, v.owner) }

/-- A miss of a gang that matches a tag of its own is a lost-locality event (R352, R353). -/
def lostLocality (s : State) (core uid line : Nat) : State :=
  if (coreOf s core).victims.contains (line, uid) then
    let s := modCore s core fun c => { c with victims := c.victims.erase (line, uid), lostCount := c.lostCount + 1 }
    modGang s uid fun g => { g with lease := { g.lease with lost := min 32767 (g.lease.lost + 1) } }
  else s

/-- A line counts in D of the measurement window (R351). -/
def touchWindow (s : State) (uid line : Nat) : State :=
  modGang s uid fun g =>
    if g.lease.winLines.contains line || 2048 ≤ g.lease.winLines.length then g
    else { g with lease := { g.lease with winLines := line :: g.lease.winLines } }

/-- Committed bytes at the home slice, with the poison that a load consumes (R27, R57). The request for the line has issued
(R53). -/
def homeBytes (s : State) (x : Xlat) (n : Nat) : List Byte × Bool :=
  (readBytes s (pteKey x.pte) x.pa n, x.poison || s.linePoison.contains (lineOf x.pa))

/-- The same as a request of its own, charged whatever the balance (R60). -/
def homeRead (s : State) (region : Nat) (x : Xlat) (n : Nat) : State × List Byte × Bool :=
  (llcRead s region x, homeBytes s x n)

/-- The acquire point of a gang's untracked reads: those of all gangs of its workgroup, so that what a sibling has acquired
and published at WG scope is not read behind (R93; log 79). -/
def untrackedAcq (s : State) (g : Gang) : Nat :=
  s.gangs.foldl (fun n h => if h.cohort = g.cohort ∧ h.wg = g.wg then max n h.acq else n) g.acq

/-- The current L1 line that serves an untracked read of the gang: it is not behind what the gang has read from the line (R93). -/
def untrackedHit (s : State) (g : Gang) (x : Xlat) : Option CacheLine :=
  if pteCL x.pte = 0 then
    (lineHit (coreOf s g.core).l1 x (untrackedAcq s g)).filter fun c => decide (seenAt g (lineOf x.pa) ≤ c.fill)
  else none

/-- An untracked read of the line that the home slice has performed early, not behind what the gang has read from the line since
(R93, R95). -/
def earlyFor (g : Gang) (x : Xlat) : Option EarlyRead :=
  g.span.early.find? fun e => e.line == lineOf x.pa && e.key == pteKey x.pte && decide (seenAt g (lineOf x.pa) ≤ e.time)

/-- What an untracked read at the home slice returns: the bytes, their poison, the largest stamp found, and when the line stood so;
early or now (R95). -/
structure HomeRes where
  bytes : List Byte
  poison : Bool
  stamp : Nat
  time : Nat

/-- The stamp found at a location (R70): its release stamp, or the CLOCK of its line's write stamp. -/
def stampAt (s : State) (pa n : Nat) : Nat :=
  (((List.range n).map fun i => readK 0 (pa + i) s.relStamp).foldl max (readK 0 (lineOf pa) s.wStamp / 4))

def untrackedHome (s : State) (g : Gang) (x : Xlat) (n : Nat) : HomeRes :=
  match earlyFor g x with
  | some e => ⟨(e.data.drop (x.pa % 128)).take n, false, ((e.stamps.drop (x.pa % 128)).take n).foldl max 0, e.time⟩
  | none => let (bs, p) := homeBytes s x n; ⟨bs, p, stampAt s x.pa n, s.now⟩

/-- An untracked read through the L1 rules, its request issued where it misses: WBUF.LD, TSCALE.BIND, ACC.LD (`engine`), and
TEX (R58, R101, R320). An engine reads when it accepts the instruction (R58), so never early. -/
def cachedRead (s : State) (uid : Nat) (x : Xlat) (n : Nat) (engine : Bool) : State × List Byte × Bool :=
  match gang? s uid with
  | none => (s, homeBytes s x n)
  | some g =>
    match untrackedHit s g x with
    | some c => (noteSeen s uid [lineOf x.pa] c.fill, (c.data.drop (x.pa % 128)).take n, x.poison)
    | none =>
      let (bs, p) := homeBytes s x n
      let h := if engine then ⟨bs, p, 0, s.now⟩ else untrackedHome s g x n
      let s := if pteCL x.pte = 0 then lostLocality s g.core uid (lineOf x.pa) else s
      let s := noteSeen s uid [lineOf x.pa] h.time
      (if pteCL x.pte = 0 && !h.poison && h.time == s.now then l1Fill s g.core uid x engine else s, h.bytes, h.poison)

/-- The requests of untracked reads that miss the L1 (R53, R61). -/
def askUntracked (s : State) (who : Asker) (g : Gang) (xs : List Xlat) : State × Bool :=
  askLines s who (regionOf s g) (xs.filter fun x => (untrackedHit s g x).isNone)

/-- The lines leave the L1 of a core (R41). -/
def dropFrom (s : State) (core : Nat) (lines : List Nat) : State := modCore s core fun c => { c with l1 := dropLines c.l1 lines }

/-! ## Decoded blocks (R59) -/

/-- Blocks that the gangs of a core pin. -/
def pinnedOn (s : State) (core : Nat) : Nat :=
  s.gangs.foldl (fun n g => if g.core = core then n + g.span.pins.length else n) 0

/-- Enter a decoded block; when pinned and ordinary entries fill the cache, a free choice of an ordinary one leaves. -/
def dbcFill (s : State) (core : Nat) (e : DbcEntry) : State :=
  let rest := (coreOf s core).dbc.filter fun x => !(x.slot == e.slot && x.desc == e.desc)
  if Config.dbcBlocks ≤ pinnedOn s core then s
  else if rest.length + pinnedOn s core < Config.dbcBlocks then modCore s core fun c => { c with dbc := e :: rest }
  else
    let (k, s) := nextFresh s
    modCore s core fun c => { c with dbc := e :: rest.eraseIdx (Config.replaceLlc k % rest.length) }

/-- A current decoded block for an acquire point (R42, R59), under the key of the slot's leaf (R29). -/
def dbcHit (c : Core) (slot desc key acq : Nat) : Option DbcEntry :=
  c.dbc.find? fun e => e.slot == slot && e.desc == desc && e.key == key && decide (acq < e.fill)

/-- Decoded blocks that were formed from these lines leave a core (R41, R59). -/
def dropBlocks (s : State) (core : Nat) (lines : List Nat) : State :=
  modCore s core fun c => { c with dbc := c.dbc.filter fun e => !e.lines.any fun l => lines.contains l }

/-! ## Versions and read records (R65 to R67) -/

def wordsOfBytes (l : List Nat) : List Nat := (l.map fun a => a / 4 * 4).eraseDups

/-- The leaf of a page as the span found it (R55, R72). -/
def noteLeaf (sp : Span) (x : Xlat) : Span := { sp with leaves := setK (x.pa / 4096) x.pte sp.leaves }

/-- Enter words of a line into the read record, or the line into the read signature alone (R66), with the fill point of the
L1 line that they came from (R43). -/
def recordRead (sp : Span) (line : Nat) (words : List Nat) (fill : Option Nat) : Span :=
  let bits : BitVec 32 := words.foldl (fun m w => m ||| (1#32 <<< w)) 0#32
  let fills := match fill with
    | none => []
    | some f => words.map fun w => (w, f)
  if sp.reads.any fun r => r.line == line then
    { sp with reads := sp.reads.map fun r =>
        if r.line = line then { r with words := r.words ||| bits, fills := r.fills ++ fills } else r }
  else if sp.reads.length < 256 then { sp with reads := sp.reads ++ [⟨line, bits, fills⟩] }
  else { sp with sigReads := if sp.sigReads.contains line then sp.sigReads else line :: sp.sigReads, ovf := true,
                 sigFills := sp.sigFills ++ (fill.map fun f => (line, f)).toList }

/-- Lines that these accesses would enter newly into the read record: words wholly of the span's version enter nothing. -/
def newReadLines (sp : Span) (accs : List (Nat × Nat)) : List Nat :=
  ((accs.filter fun a => (List.range a.2).any fun i => (getK (a.1 + i) sp.ver).isNone).map fun a => lineOf a.1).eraseDups.filter
    fun l => !sp.reads.any fun r => r.line == l

/-- How a tracked load of n bytes at x is served (R40, R256): the bytes of the span's version, and of each other byte whether
its word holds a byte of the version; the current L1 line, and whether some byte is read at the home slice. -/
structure LoadPlan where
  own : List (Option Byte)
  mixed : List Bool
  hit : Option CacheLine
  home : Bool

def loadPlan (s : State) (g : Gang) (x : Xlat) (n : Nat) : LoadPlan :=
  let addrs := (List.range n).map (x.pa + ·)
  let own := addrs.map fun a => getK a g.span.ver
  let mixed := addrs.map fun a => (List.range 4).any fun i => (getK (a / 4 * 4 + i) g.span.ver).isSome
  let hit := if pteCL x.pte = 0 then lineHit (coreOf s g.core).l1 x g.acq else none
  ⟨own, mixed, hit, (own.zip mixed).any fun p => p.1.isNone && (p.2 || hit.isNone)⟩

/-- Words of the line, of those with a byte from committed data, and the fill point of those taken from the L1. -/
def LoadPlan.words (p : LoadPlan) (x : Xlat) (fromL1 : Bool) : List Nat :=
  (wordsOfBytes (((List.range p.own.length).zip (p.own.zip p.mixed)).filterMap fun q =>
    if q.2.1.isNone && (!q.2.2 && p.hit.isSome) == fromL1 then some (x.pa + q.1) else none)).map fun a => a % 128 / 4

/-- A tracked load of n bytes at x (R256): each byte from the version, the current L1 line, or the home slice, whose request
has issued. The bytes and the poison. -/
def trackedLoad (s : State) (uid : Nat) (x : Xlat) (n : Nat) : State × List Byte × Bool :=
  match gang? s uid with
  | none => (s, [], false)
  | some g =>
    let line := lineOf x.pa
    let p := loadPlan s g x n
    let s := if pteCL x.pte = 0 then touchWindow s uid line else s
    let (home, bad) := homeBytes s x n
    let l1 := (p.hit.map fun c => (c.data.drop (x.pa % 128)).take n).getD home
    let bs := ((p.own.zip p.mixed).zip (home.zip l1)).map fun q => q.1.1.getD (if q.1.2 then q.2.1 else q.2.2)
    let miss := pteCL x.pte = 0 && p.hit.isNone && (p.own.zip p.mixed).any fun q => q.1.isNone && !q.2
    let s := if miss then lostLocality s g.core uid line else s
    let s := if miss && !bad then l1Fill s g.core uid x false else s
    let s := if p.home then noteSeen s uid [line] s.now else match p.hit with
      | some c => noteSeen s uid [line] c.fill
      | none => s
    let s := modGang s uid fun g =>
      let sp := if (p.words x false).isEmpty then g.span else recordRead g.span line (p.words x false) none
      let sp := if (p.words x true).isEmpty then sp else recordRead sp line (p.words x true) (p.hit.map (·.fill))
      { g with span := noteLeaf sp x }
    (s, bs, x.poison || (p.home && bad))

/-- A version line of the gang that is new takes room in its slice (R54). -/
def versionRoom (s : State) (uid line : Nat) : State :=
  match gang? s uid with
  | none => s
  | some g => if (verLines g.span).contains line then s else llcRoom s line

/-- Bytes into the span's version (R67). -/
def trackedStore (s : State) (uid : Nat) (x : Xlat) (bs : List Byte) : State :=
  modGang (versionRoom s uid (lineOf x.pa)) uid fun g =>
    let ver := ((List.range bs.length).zip bs).foldl (fun v p => setK (x.pa + p.1) p.2 v) g.span.ver
    { g with span := noteLeaf { g.span with ver } x }

/-- Request for a new version line (R54, R60, R61): it has issued before, issues now, or waits. -/
def askVersion (s : State) (who : Asker) (region line : Nat) : State × Bool :=
  ask s who region .version (reachOf (lineBase line)) line 1

def askVersions (s : State) (who : Asker) (region : Nat) : List Nat → State × Bool
  | [] => (s, true)
  | l :: ls =>
    let (s, ok) := askVersion s who region l
    let (s, rest) := askVersions s who region ls
    (s, ok && rest)

/-! ## Rollback (R64) -/

def headerRead (s : State) (arena : Nat) : Nat × Nat := (rawNat s arena 4, rawNat s (arena + 4) 4)

/-- RESERVED of an arena header changed at its home slice, outside span tracking (R136). -/
def addReserved (s : State) (arena : Nat) (n : Int) : State :=
  rawWrite s (arena + 4) (bytesOf 4 (((headerRead s arena).2 : Int) + n).toNat)

def returnPins (s : State) (pins : List Pin) : State :=
  pins.foldl (init := s) fun s p => addReserved s p.arena (-1)

/-- A span with nothing recorded, whose checkpoint is the gang as it stands (R63). -/
def emptySpan (g : Gang) : Span :=
  { g.span with chk := checkpoint g, begun := false, reads := [], sigReads := [], sigFills := [], surfReads := [],
                formReads := [], ver := [], pins := [], moves := [], touched := [], leaves := [], count := 0, ovf := false,
                early := [] }

/-- Take a new checkpoint of the gang as it stands: the next span begins here. -/
def freshSpan (s : State) (uid : Nat) : State := modGang s uid fun g => { g with span := emptySpan g }

/-- An ACC.ST of the gang: its stores belong to the gang's current span (R292). -/
def isStoreOp (uid : Nat) (o : EngineOp) : Bool := o.gang == uid && o.work == .store

/-- Lines that ACC.STs of the gang will write when they are performed (R292). -/
def accStLines (s : State) (uid : Nat) : List Nat :=
  s.cores.flatMap fun c => (c.2.offers ++ c.2.engine).flatMap fun o =>
    if isStoreOp uid o then o.pieces.map fun p => lineOf p.1 else []

/-- The stores of a discarded span are not made. -/
def dropStoreOps (s : State) (uid : Nat) : State :=
  if (accStLines s uid).isEmpty then s
  else
    let keep (l : List EngineOp) := l.filter fun o => !isStoreOp uid o
    { s with cores := s.cores.map fun c => (c.1, { c.2 with offers := keep c.2.offers, engine := keep c.2.engine }) }

/-- A wait ends: the gang is parked and ready (R354). -/
def wake (s : State) (g : Gang) : Gang :=
  { g with sched := { g.sched with wait := .none, readySince := coreCycle s g.core } }

/-- Roll the gang's span back to its checkpoint (R64); LIVEMASK, trap and system registers stay (R63, R233). A gang in which no
split could issue waits no longer when one of the checkpoint can (R354). -/
def rollback (s : State) (uid : Nat) : State :=
  match gang? s uid with
  | none => s
  | some g =>
    let s := dropStoreOps (returnPins s g.span.pins) uid
    let c := g.span.chk
    let g := { g with alloc := c.alloc, regs := c.regs, slices := c.slices, fpctl := c.fpctl, fpflags := c.fpflags,
                      acq := s.now, seen := [], trap := { g.trap with replay := c.replay, pending := c.pending } }
    let g := if g.sched.wait == .noSplit && !(readySplits g).isEmpty then wake s g else g
    let s := setGang s { settle g with span := emptySpan { g with slices := c.slices }, ownerFail := [] }
    { dropAsks s uid with favoured := if s.favoured = some uid then none else s.favoured }

/-- SPANSTAT.LASTEND (R62, R80). -/
def noteEnd (s : State) (uid code : Nat) : State := modGang s uid fun g => { g with span := { g.span with lastEnd := code } }

/-- Write one word of one register of one lane; the write clears the register's poison (R377). -/
def putReg (g : Gang) (r lane : Nat) (v : Word) : Gang :=
  { g with regs := putK 0#32 (r * 32 + lane) v g.regs,
           regPoison := if g.regPoison.isEmpty then [] else g.regPoison.filter (· != r * 32 + lane) }

def getReg (g : Gang) (r lane : Nat) : Word := readK 0#32 (r * 32 + lane) g.regs

def putLanes (g : Gang) (r : Nat) (m : LaneMask) (f : Nat → Word) : Gang :=
  (lanesOf m).foldl (fun g i => putReg g r i (f i)) g

/-- A transaction rolled back: the status is written to SPAN.OPEN's destination after the rollback (R78, R267). Statuses 2
and 3 leave no transaction open. `code` is the event of R62 that ended its span, where one did (R80). -/
def txRestart (s : State) (uid : Nat) (status : Nat) (code : Option Nat) : State :=
  let ended (s : State) : State := (code.map (noteEnd s uid)).getD s
  match (gang? s uid).bind (·.span.tx) with
  | none => ended (rollback s uid)
  | some t =>
    let s := ended (rollback s uid)
    modGang s uid fun g =>
      let g' := putLanes g t.d.toNat (t.mask &&& g.live &&& g.launchMask) fun _ => BitVec.ofNat 32 status
      if status = 2 ∨ status = 3 then { g' with span := { emptySpan g' with tx := none } } else g'

/-- A conflict restart raises RESTARTS; at 8 the gang asks for favour (R75, R77). -/
def countRestart (s : State) (uid : Nat) : State :=
  let s := modGang s uid fun g => { g with span := { g.span with restarts := min 15 (g.span.restarts + 1) } }
  match gang? s uid with
  | some g => if 8 ≤ g.span.restarts && !s.favourQueue.contains uid then { s with favourQueue := s.favourQueue ++ [uid] } else s
  | none => s

/-! ## Conflicts (R71 to R76) -/

def wordBit (r : ReadEntry) (w : Nat) : Bool := r.line == lineOf w && r.words.getLsbD (w % 128 / 4)

/-- Confirmed conflicts of an active span with written bytes and samples: location and subcause (R71, R103). -/
def conflicts (sp : Span) (bytes : List Nat) (samples : List Sample) : List (Loc × Nat) :=
  ((wordsOfBytes bytes).filterMap fun w =>
      if sp.reads.any fun r => wordBit r w then some (.word w, 1)
      else if bytes.any fun b => b / 4 * 4 == w && (getK b sp.ver).isSome then some (.word w, 2) else none)
    ++ samples.filterMap fun p =>
      let ts := sp.touched.filter fun t => t.loc == p
      if ts.isEmpty then none else some (.sample p, if ts.any (·.wr) then 2 else 1)

def locPage : Loc → Nat
  | .word w => w / 4096
  | .sample p => p.slot / 4096

/-- The effective policy of a conflicting location is TRAP (R72). -/
def trapPolicy (sp : Span) (l : Loc) : Bool := sp.tx.isNone && !sp.pol && !((getK (locPage l) sp.leaves).map pteCPOL).getD false

/-- A signature with the line entered: one bit in each quarter (R65). -/
def sigEnter (m : BitVec 512) (line : Nat) : BitVec 512 :=
  (List.range 4).foldl (fun m j => m ||| (1#512 <<< (128 * j + (Config.sigHash j line).toNat))) m

/-- The signature of these lines (R65). -/
def signature (lines : List Nat) : BitVec 512 := lines.foldl sigEnter 0

/-- A write signature screens a read signature: they share a bit in every quarter (R65, R71). -/
def sigMeets (w r : BitVec 512) : Bool := (List.range 4).all fun j => (w &&& r).extractLsb' (128 * j) 128 != 0#128

/-- Lines that entered the read signature of the span (R65, R66). -/
def sigLines (sp : Span) : List Nat := sp.sigReads ++ sp.reads.map (·.line) ++ sp.surfReads

/-- The read signature of a span. -/
def readSignature (sp : Span) : BitVec 512 := signature (sigLines sp)

/-- A line hits the read signature of the span (R65). -/
def sigHit (sp : Span) (line : Nat) : Bool := sigMeets (signature [line]) (readSignature sp)

/-- An undecidable hit: OVF is set, and the write signature of the bytes written hits without a confirmed conflict (R71, R76). -/
def undecidable (sp : Span) (bytes : List Nat) : Bool :=
  sp.ovf && sigMeets (signature (bytes.map lineOf)) (readSignature sp)

/-- The conflicts of a span's own stale reads: the word or sample, the record of the writer found (R43, R59). -/
def staleReads (s : State) (sp : Span) : List (Loc × CommitRec) :=
  (sp.reads.flatMap fun r => r.fills.flatMap fun f =>
      (s.log.filter fun c => f.2 < c.time && c.words.contains (lineBase r.line + 4 * f.1)).map
        fun c => (.word (lineBase r.line + 4 * f.1), c))
    ++ sp.touched.flatMap fun t => match t.fill with
      | none => []
      | some f => (s.log.filter fun c => f < c.time && c.samples.contains t.loc).map fun c => (.sample t.loc, c)

/-- Targets of a victim at the conflicts cs with a writer: with the writer itself, those that wrote the target after the
victim's stale fill of it (R74). -/
def targetsOf (s : State) (sp : Span) (cs : List (Loc × Nat)) (csn : Nat) (src : Word) : List Target :=
  cs.flatMap fun c => ⟨c.1, c.2, csn, src⟩ ::
    ((staleReads s sp).filter fun w => w.1 == c.1).map fun w => ⟨c.1, c.2, w.2.csn, w.2.src⟩

/-- A victim rolled back: with TRAP targets it re-executes in locate mode, else it restarts under RETRY; what a locate span
meets is resolved afresh (R72, R73, R75). -/
def setLocate (s : State) (uid : Nat) (ts : List Target) : State :=
  let s := modGang s uid fun h => { h with span := { h.span with locate := !ts.isEmpty, targets := ts } }
  if ts.isEmpty then countRestart s uid else s

/-- Resolve a victim (R72 to R76): locate mode on TRAP words, else restart; a transaction restarts with status 1. -/
def resolveVictim (s : State) (uid : Nat) (cs : List (Loc × Nat)) (csn : Nat) (src : Word) : State :=
  match gang? s uid with
  | none => s
  | some g =>
    if g.span.tx.isSome then countRestart (txRestart s uid 1 none) uid
    else
      let ts := cs.filter fun c => trapPolicy g.span c.1
      setLocate (rollback s uid) uid (targetsOf s g.span ts csn src)

/-- Roll back and restart in exact mode (R76); a transaction restarts by R78 instead. -/
def resolveExact (s : State) (uid : Nat) : State :=
  match gang? s uid with
  | none => s
  | some g =>
    if g.span.tx.isSome then txRestart s uid 1 none
    else modGang (rollback s uid) uid fun h => { h with span := { h.span with exact := true } }

/-- Some write would make the favoured span a victim (R77). -/
def hitsFavoured (s : State) (writer : Option Nat) (bytes : List Nat) (samples : List Sample) : Bool :=
  match s.favoured with
  | none => false
  | some f => writer != some f && match gang? s f with
    | none => false
    | some g => !(conflicts g.span bytes samples).isEmpty || undecidable g.span bytes

/-- Some write lies in a line of a page-table entry through which an engine access was translated that is not yet performed
(R23). -/
def holdsWalk (s : State) (bytes : List Nat) : Bool :=
  s.cores.any fun c => (c.2.offers ++ c.2.engine).any fun o => bytes.any fun b => o.walks.contains (lineOf b)

/-- A committed write must wait (R77, R23). -/
def favourBlocks (s : State) (writer : Option Nat) (bytes : List Nat) (samples : List Sample) : Bool :=
  hitsFavoured s writer bytes samples || holdsWalk s bytes

/-- Every byte that re-encoding may write for a span still translates as it did, and is writable (R136). -/
def pinsHold (s : State) (ctx region : Nat) (sp : Span) : Bool :=
  let same (kind : Nat) (write : Bool) (va : DWord) (pa : Nat) : Bool := match checkAccess s ctx region (.surf kind write) va with
    | .ok x => x.pa == pa | _ => false
  (sp.pins.all fun p => p.pages.all fun q => same q.kind q.write q.va q.pa)
    && sp.moves.all fun m => same 2 true (motionVA m.surf.d m.px m.py) m.pa

/-- Spans whose pins a page-table write broke roll back (R136). -/
def breakPins (s : State) : State :=
  s.gangs.foldl (init := s) fun s g =>
    if (g.span.pins.isEmpty && g.span.moves.isEmpty) || pinsHold s (ctxOf s g) (regionOf s g) g.span then s
    else if g.span.tx.isSome then txRestart s g.uid 5 none else rollback s g.uid

/-- What follows every committed write: victims, undecidable hits, and pins that a page-table write broke. -/
def afterWrites (s : State) (writer : Option Nat) (bytes : List Nat) (samples : List Sample) (csn : Nat) (src : Word) : State :=
  let s := { s with log := s.log ++ [(⟨s.now, csn, src, wordsOfBytes bytes, samples⟩ : CommitRec)], now := s.now + 1 }
  let s := s.gangs.foldl (init := s) fun s g0 =>
    if writer = some g0.uid ∨ g0.ended = true then s
    else match gang? s g0.uid with
      | none => s
      | some g =>
        let cs := conflicts g.span bytes samples
        if !cs.isEmpty then resolveVictim s g.uid cs csn src
        else if undecidable g.span bytes then resolveExact s g.uid else s
  breakPins s

/-- Writer identity of a gang (R81). -/
def gangSrc (g : Gang) : Word := BitVec.ofNat 32 (g.core * 256 + g.gangid)

/-! ## Re-encoding (R137, R138) -/

/-- Bytes of a stored form that a commit writes, with the leaf through which each was written (R55). -/
abbrev FormBytes := List (Nat × DWord)

/-- Write bytes of a stored form through their translation; the addresses written. -/
def formWrite (v : View) (s : State) (kind : Nat) (va : DWord) (bs : List Byte) : State × FormBytes :=
  ((List.range bs.length).zip bs).foldl (fun (acc : State × FormBytes) p =>
    match checkAccess acc.1 v.ctx v.region (.surf kind false) (va + BitVec.ofNat 64 p.1) with
    | .ok x => (writeByte acc.1 (pteKey x.pte) x.pa p.2, acc.2 ++ [(x.pa, x.pte)])
    | _ => acc) (s, [])

/-- The order of R137: anchors first, then descriptor address, then slot index. -/
def pinBefore (a b : Pin) : Bool :=
  if a.surf.d.anchor != b.surf.d.anchor then a.surf.d.anchor
  else if a.surf.d.va != b.surf.d.va then a.surf.d.va.toNat < b.surf.d.va.toNat
  else slotIndex a.surf.d a.chan a.bx a.by' < slotIndex b.surf.d b.chan b.bx b.by'

def insertPin (p : Pin) : List Pin → List Pin
  | [] => [p]
  | q :: r => if pinBefore p q then p :: q :: r else q :: insertPin p r

def sortPins (l : List Pin) : List Pin := l.foldr insertPin []

/-- What one block becomes: its pin, the samples, the code or RAW, and the spill entry it held. -/
structure Recoded where
  pin : Pin
  samples : List Int
  code : Option (List Bool)
  old : Option Nat
deriving DecidableEq, Repr

/-- What was read, or d where a place has become unreadable since the pin (R137; log 92). -/
def accVal {α : Type} (d : α) : Acc α → α
  | .ok _ v => v
  | _ => d

/-- The spill entry of a committed block, if it is RAW. -/
def oldEntry (v : View) (s : State) (p : Pin) : Option Nat :=
  match vbytes (.surf 1 false) v s (slotVA p.surf.d p.chan p.bx p.by') (p.surf.d.slotBits / 8) with
  | .ok _ bs => match readSlot p.surf.d (bitsOfBytes bs) with
    | .raw e => some e | _ => none
  | _ => none

/-- Encode the blocks in order; blocks already encoded are seen by later ones as they will decode. Samples outside the extent that
nothing gives a value are stored as 0 in a RAW block (R125; log 91). -/
def recodeAll (s : State) (v : View) : List Pin → List Recoded
  | [] => []
  | p :: ps =>
    let d := p.surf.d
    let now := accVal [] (blockAt v s p.surf p.chan p.bx p.by')
    let pred := accVal [] (predsAt v s p.surf p.chan p.bx p.by')
    let pp := (List.range 16).map fun m => match getK m p.writes with
      | some w => (w : Int)
      | none => now.getD m 0
    let res := (List.range 16).map fun m => if inExtent d p.bx p.by' m then pp.getD m 0 - pred.getD m 0 else 0
    let code := encodeBlock d res
    let seen := match code with
      | none => pp
      | some bits => match readSlot d (bits ++ List.replicate (d.slotBits - bits.length) false) with
        | .residual r => (List.range 16).map fun m => clampSample d (pred.getD m 0 + r.getD m 0)
        | _ => pp
    let q := { p with writes := (List.range 16).map fun m => (m, (seen.getD m 0).toNat) }
    ⟨p, pp, code, oldEntry v s p⟩ :: recodeAll s { v with pins := q :: v.pins } ps

/-- The lines of these translations, read at the commit: those that the LLC does not hold are read from DRAM at the charge of the
region, whatever its balance (R55, R60, R61). -/
def readLinesAt (s : State) (region : Nat) (xs : List Xlat) : State := xs.foldl (fun s x => llcRead s region x) s

/-- Change one bitmap bit and USED of the arena of a surface (R125, R138). -/
def markEntry (v : View) (s : State) (d : SurfDesc) (e : Nat) (set : Bool) : State × FormBytes :=
  let bva := d.spillBase + BitVec.ofNat 64 (128 + e / 8)
  let s := readLinesAt s v.region (formXlats v s 3 bva 1 ++ formXlats v s 3 d.spillBase 4)
  let old := accVal [] (vbytes (.surf 3 false) v s bva 1)
  let b := old.headD 0
  let b' := if set then b ||| (1#8 <<< (e % 8)) else b &&& ~~~(1#8 <<< (e % 8))
  let (s, w1) := formWrite v s 3 bva [b']
  let used := natOfBytes (accVal [] (vbytes (.surf 3 false) v s d.spillBase 4))
  let (s, w2) := formWrite v s 3 d.spillBase (bytesOf 4 (if set then used + 1 else used - 1))
  (s, w1 ++ w2)

/-- The lowest entry whose bitmap bit is clear, else entry 0 (R138). -/
def lowestEntry (v : View) (s : State) (d : SurfDesc) : Nat :=
  let bm := accVal [] (vbytes (.surf 3 false) v s (d.spillBase + 128#64) ((d.spillCount + 7) / 8))
  ((List.range d.spillCount).find? fun e => !(bm.getD (e / 8) 0).getLsbD (e % 8)).getD 0

/-- Store one re-encoded block: its slot and, for RAW, its spill entry. -/
def storeBlock (v : View) (s : State) (r : Recoded) : State × FormBytes :=
  let d := r.pin.surf.d
  let va := slotVA d r.pin.chan r.pin.bx r.pin.by'
  match r.code with
  | some bits => formWrite v s 1 va (bytesOfBits (d.slotBits / 8) bits)
  | none =>
    let (s, e, w0) := match r.old with
      | some e => (s, e, [])
      | none =>
        let e := lowestEntry v s d
        let s := readLinesAt s v.region (formXlats v s 3 (d.spillBase + 128#64) (e / 8 + 1))
        let (s, w) := markEntry v s d e true
        (s, e, w)
    let (s, w1) := formWrite v s 1 va (bytesOfBits (d.slotBits / 8) (rawCode d e))
    let (s, w2) := formWrite v s 3 (spillVA d e) (r.samples.flatMap fun x => bytesOf 2 x.toNat)
    (s, w0 ++ w1 ++ w2)

/-- The bytes of RESERVED that a pin's release writes, with the arena's leaf (R138). -/
def arenaBytes (v : View) (s : State) (p : Pin) : FormBytes :=
  match checkAccess s v.ctx v.region (.surf 3 false) p.surf.d.spillBase with
  | .ok x => (List.range 4).map fun i => (p.arena + 4 + i, x.pte)
  | _ => []

/-- Motion entries, then blocks re-encoded, entries freed, allocated and reservations released (R137, R138): the new state
and the bytes written. -/
def reencode (s : State) (ctx region : Nat) (pins : List Pin) (moves : List MvWrite) : State × FormBytes :=
  let v := View.committed ctx region
  let (s, w0) := moves.foldl (fun (acc : State × FormBytes) m =>
    let (s, w) := formWrite v acc.1 2 (motionVA m.surf.d m.px m.py) (bytesOf 4 m.value.toNat); (s, acc.2 ++ w)) (s, [])
  let s := pins.foldl (fun s p => readLinesAt s region (blockForm v s p.surf p.chan p.bx p.by').xlats) s
  let rs := recodeAll s v (sortPins pins)
  let (s, w1) := rs.foldl (fun (acc : State × FormBytes) r =>
    match r.old, r.code with
    | some e, some _ => let (s, w) := markEntry v acc.1 r.pin.surf.d e false; (s, acc.2 ++ w)
    | _, _ => acc) (s, [])
  let (s, w2) := rs.foldl (fun (acc : State × FormBytes) r => let (s, w) := storeBlock v acc.1 r; (s, acc.2 ++ w)) (s, [])
  let s := returnPins s pins
  (s, (w0 ++ w1 ++ w2 ++ pins.flatMap (arenaBytes v s)).eraseDups)

/-! ## Commit -/

def csnClock (csn : Nat) : Nat := csn / 4

/-- CLOCK of R70 from the terms' maximum, and the CSN. -/
def mkCsn (clock reach : Nat) : Nat := clock * 4 + reach

def maxL (l : List Nat) : Nat := l.foldl max 0

/-- Number a span (R70): weirs concerned, floor, write stamps of lines read, both stamps of lines written. -/
def numberSpan (s : State) (reaches : List Nat) (floor : Nat) (rlines wlines : List Nat) : Nat :=
  1 + maxL (floor :: (reaches.map fun r => s.weirClock.getD r 0)
    ++ (rlines.map fun l => csnClock (readK 0 l s.wStamp))
    ++ wlines.flatMap fun l => [csnClock (readK 0 l s.wStamp), csnClock (readK 0 l s.rStamp)])

/-- Stamps, weir clocks and PSN after a commit (R68 step 4, R69). -/
def stampCommit (s : State) (csn : Nat) (reaches rlines wlines : List Nat) : State :=
  { s with wStamp := wlines.foldl (fun t l => setK l csn t) s.wStamp,
           rStamp := rlines.foldl (fun t l => setK l (max csn (readK 0 l t)) t) s.rStamp,
           weirClock := (List.range 4).map fun r =>
             if reaches.contains r then max (s.weirClock.getD r 0) (csnClock csn) else s.weirClock.getD r 0,
           psn := if 2 ≤ reaches.length then s.psn + 1 else s.psn }

/-- A line of which every byte is written and committed loses its poison flag (R57). -/
def clearWhole (s : State) (bytes : List Nat) : State :=
  { s with linePoison := s.linePoison.filter fun l => !(List.range 128).all fun i => bytes.contains (lineBase l + i) }

/-- Publish the bytes of a version (R68 step 4); a line written whole loses its poison flag (R57). -/
def publish (s : State) (region : Nat) (leaves : List (Nat × DWord)) (ver : List (Nat × Byte)) : State :=
  let leaf (a : Nat) : DWord := (getK (a / 4096) leaves).getD 0
  let s := ver.foldl (init := s) fun s p => writeByte s (pteKey (leaf p.1)) p.1 p.2
  let lines := (ver.map fun p => lineOf p.1).eraseDups
  lines.foldl (init := clearWhole s (ver.map (·.1))) fun s l => llcStore s region l (leaf (lineBase l))

/-- One line of each leaf that these bytes lie in, written at its home slice (R53, R55). -/
def storeLines (s : State) (region : Nat) (form : FormBytes) : State :=
  ((form.map fun p => (lineOf p.1, p.2)).eraseDups).foldl (init := s) fun s p => llcStore s region p.1 p.2

/-- Outcome of a commit: committed, rolled back and resolved, or waiting for the favoured span (R77) or for
an ACC.ST (R292). -/
inductive CommitRes where
  | done (s : State)
  | failed (s : State)
  | wait

/-- Resolve a span that fails the check of R43 (R71, subcause 0x03). -/
def resolveStale (s : State) (uid : Nat) (st : List (Loc × CommitRec)) : State :=
  match gang? s uid with
  | none => s
  | some g =>
    if g.span.tx.isSome then countRestart (txRestart s uid 1 none) uid
    else
      let ts := st.filter fun c => trapPolicy g.span c.1
      setLocate (rollback s uid) uid (ts.map fun c => ⟨c.1, 3, c.2.csn, c.2.src⟩)

/-- Status fields at the end of a committed span (R75, R76, R80, R378). -/
def closeSpan (g : Gang) (code : Nat) (floor : Nat) : Gang :=
  let g := { g with floor, mismatches := 0 }
  { g with span := { emptySpan g with restarts := 0, lastEnd := code, locate := false, targets := [], tx := none,
                                      exact := g.span.exact && code == 5 } }

/-- Samples that a span writes (R103). -/
def writtenSamples (sp : Span) : List Sample := ((sp.touched.filter (·.wr)).map (·.loc)).eraseDups

/-- A line held in the read signature alone was read from an L1 line that another commit has since overtaken: within the
record nothing can be confirmed (R43, R76; log 77). -/
def staleSignature (s : State) (sp : Span) : Bool :=
  sp.sigFills.any fun f => s.log.any fun c => f.2 < c.time && c.words.any fun w => lineOf w == f.1

/-- Lines that a span read (R70): those of its record and signature, and those of the slots of its samples. -/
def readLines (sp : Span) : List Nat := (sigLines sp ++ sp.touched.map fun t => lineOf t.loc.slot).eraseDups

/-- Reaches whose weirs a commit concerns: those of the lines written, or that of the core (R68, R69). -/
def commitReaches (home : Nat) (wlines : List Nat) : List Nat :=
  match (wlines.map fun l => reachOf (lineBase l)).eraseDups with
  | [] => [home]
  | l => l

/-- Local clean-up (R68, step 5): the L1 and instruction-cache lines and the decoded blocks of the lines written leave the
core on which the span ran (R41, R59). -/
def cleanUp (s : State) (core : Nat) (wlines : List Nat) : State :=
  dropBlocks (modCore s core fun c => { c with l1 := dropLines c.l1 wlines, icache := dropLines c.icache wlines }) core wlines

/-- A pinned block becomes an ordinary entry of the writing core (R59), where the slot's leaf has CL = 00 (R39). -/
def keepBlock (ctx region core : Nat) (s : State) (p : Pin) : State :=
  let v := View.committed ctx region
  match checkAccess s ctx region (.surf 1 false) (slotVA p.surf.d p.chan p.bx p.by') with
  | .ok x =>
    if pteCL x.pte ≠ 0 then s
    else dbcFill s core ⟨p.slot, p.surf.d.va.toNat, pteKey x.pte, s.now + 1,
      (accVal [] (blockAt v s p.surf p.chan p.bx p.by')).map Int.toNat, entryLines v s p.surf p.chan p.bx p.by'⟩
  | _ => s

/-- The span has begun, or is a transaction: there is something to end (log 18). -/
def spanOpen (sp : Span) : Bool := sp.begun || sp.tx.isSome

/-- An event of R62 that the gang's own instruction makes while no instruction of the next span has issued: the code stands, and the
span that would have begun ends without a commit, its locate or exact mode with it (R73, R76; log 18). -/
def endUnbegun (g : Gang) (code : Nat) : Gang :=
  { g with span := { emptySpan g with lastEnd := code, locate := false, targets := [], exact := g.span.exact && code == 5 } }

/-- End the gang's span with a code and commit it whole (R62, R68, R69). Between spans there is nothing to commit (log 18).
The new span's checkpoint is the gang as it stands. With `yields` the commit waits for the favoured span (R77); a hand-over
does not (R84). -/
def commitSpanWith (yields : Bool) (s : State) (uid : Nat) (code : Nat) : CommitRes :=
  match gang? s uid with
  | none => .done s
  | some g =>
    let sp := g.span
    let free (s : State) : State := { s with favoured := if s.favoured = some uid then none else s.favoured }
    if !spanOpen sp then .done (free (setGang s (endUnbegun g code)))
    else if !(accStLines s uid).isEmpty then .wait
    else
      let ctx := ctxOf s g; let region := regionOf s g
      let stale := staleReads s sp
      let (s2, form) := reencode s ctx region sp.pins sp.moves
      let bytes := sp.ver.map (·.1) ++ form.map (·.1)
      let samples := writtenSamples sp
      if holdsWalk s bytes || (yields && hitsFavoured s (some uid) bytes samples) then .wait
      else if !stale.isEmpty then .failed (resolveStale s uid stale)
      else if staleSignature s sp then .failed (resolveExact s uid)
      else
        let wlines := (bytes.map lineOf).eraseDups
        let reaches := commitReaches (g.core / 64) wlines
        let clock := numberSpan s reaches g.floor (readLines sp) wlines
        let csn := mkCsn clock (reaches.foldl min 3)
        let s := storeLines (publish s2 region sp.leaves sp.ver) region form
        let s := cleanUp (stampCommit s csn reaches (readLines sp) wlines) g.core wlines
        let s := setGang s (closeSpan g code clock)
        let s := free (sp.pins.foldl (keepBlock ctx region g.core) s)
        .done (if bytes.isEmpty && samples.isEmpty then { s with now := s.now + 1 }
               else afterWrites s (some uid) bytes samples csn (gangSrc g))

def commitSpan (s : State) (uid : Nat) (code : Nat) : CommitRes := commitSpanWith true s uid code

/-! ## Writes outside spans: boundary instructions and completion writes (R41, R70, R235) -/

/-- The CSN under which a boundary write or completion write of a stamp is reported (R235; log 17). -/
def boundaryCsn (stamp pa : Nat) : Nat := mkCsn stamp (reachOf pa)

/-- A write at the home slice outside any span: the caches of the issuing core lose the line first (R41). The request for the
line is `storeLines` (R53); whoever writes a line whole clears its poison flag (`clearWhole`). -/
def homeWrite (s : State) (core : Option Nat) (writer : Option Nat) (x : Xlat) (bs : List Byte) (stamp : Nat) (src : Word) :
    State :=
  let pa := x.pa
  let s := match core with
    | some c => cleanUp s c [lineOf pa]
    | none => s
  let s := clearWhole (writeBytes s (pteKey x.pte) pa bs) ((List.range bs.length).map (pa + ·))
  afterWrites s writer ((List.range bs.length).map (pa + ·)) [] (boundaryCsn stamp pa) src

/-- Store a release stamp with the bytes of a location (R70). -/
def setStamp (s : State) (pa n stamp : Nat) : State :=
  { s with relStamp := (List.range n).foldl (fun t i => putK 0 (pa + i) stamp t) s.relStamp }

/-! ## Engine spans (R99, R327) -/

/-- Commit the global writes of an engine as one span: the new state and its CSN; none while the favoured span would be a
victim (R77). `core` is the core on which the engine span ran (R41; log 80). A line written whole loses its poison flag
(R57). -/
def engineCommit (s : State) (region floor core : Nat) (writes : List (Nat × DWord × Byte)) (samples : List Sample)
    (form : FormBytes) (src : Word) (csrc : Nat → State → State) : Option (State × Nat) :=
  let form := writes.map (fun w => (w.1, w.2.1)) ++ form
  let bytes := form.map (·.1)
  if favourBlocks s none bytes samples then none
  else
    let wlines := (bytes.map lineOf).eraseDups
    let reaches := commitReaches (core / 64) wlines
    let clock := numberSpan s reaches floor [] wlines
    let csn := mkCsn clock (reaches.foldl min 3)
    let s := writes.foldl (init := s) fun s w => writeByte s (pteKey w.2.1) w.1 w.2.2
    let s := storeLines (clearWhole s bytes) region form
    let s := cleanUp (stampCommit s csn reaches [] wlines) core wlines
    some (csrc csn (afterWrites s none bytes samples csn src), csn)

/-! ## Hand-over away from the device (R36, R84) -/

/-- The physical pages that the leaf at va maps. -/
def leafPages (e : DWord) : List Nat := (List.range (if ptePS e then 16 else 1)).map fun i => pteFrame e + 4096 * i

/-- The span holds versions in the page; it read the page, or a pin of it lies there (R84, R136). -/
def spanWritesPage (sp : Span) (p : Nat → Bool) : Bool := sp.ver.any fun b => p b.1
def spanReadsPage (sp : Span) (p : Nat → Bool) (lines : List Nat) : Bool :=
  sp.reads.any (fun r => p (lineBase r.line)) || sp.sigReads.any (fun l => p (lineBase l))
    || sp.formReads.any (fun l => p (lineBase l)) || sp.touched.any (fun t => p t.loc.slot)
    || sp.pins.any (fun q => q.pages.any fun r => p r.pa) || sp.moves.any (fun m => p m.pa)
    || (sp.ovf && lines.any fun l => sigHit sp l)

/-- Roll a span back for a page that is taken from it, with the code of R62. -/
def takeFrom (s : State) (uid : Nat) : State :=
  match gang? s uid with
  | none => s
  | some g => if g.span.tx.isSome then txRestart s uid 5 (some 7) else noteEnd (rollback s uid) uid 7

/-- Step 3 of R84: spans with versions in the page end and commit, or roll back; the favoured span does not hold them up. -/
def commitForHandover (p : Nat → Bool) (s : State) (uid : Nat) : State :=
  match gang? s uid with
  | none => s
  | some g =>
    if !spanWritesPage g.span p then s
    else if g.span.tx.isSome then takeFrom s uid
    else match commitSpanWith false s uid 7 with
      | .done t => t
      | .failed t => noteEnd t uid 7
      | .wait => takeFrom s uid

/-- Step 4 of R84: spans that read the page without writing it roll back and restart. -/
def restartForHandover (p : Nat → Bool) (lines : List Nat) (s : State) (uid : Nat) : State :=
  match gang? s uid with
  | none => s
  | some g => if spanReadsPage g.span p lines then takeFrom s uid else s

/-- Spans and the page: all commits, then the spans that read it (R84). -/
def spansForHandover (s : State) (p : Nat → Bool) (lines : List Nat) : State :=
  let uids := s.gangs.map (·.uid)
  uids.foldl (restartForHandover p lines) (uids.foldl (commitForHandover p) s)

/-- A span with versions in the page must wait with its commit: for an ACC.ST of its own (R292), or for engine accesses
translated through an entry that it writes (R23). -/
def holdsPage (s : State) (p : Nat → Bool) : Bool :=
  s.gangs.any fun g => (spanWritesPage g.span p || (accStLines s g.uid).any fun l => p (lineBase l))
    && (!(accStLines s g.uid).isEmpty || holdsWalk s (g.span.ver.map (·.1)))

/-- Every core forgets these lines: L1 and instruction-cache lines, decoded blocks formed from them, and early reads of them (R28,
R36, R105). -/
def forgetLines (s : State) (lines : List Nat) : State :=
  { s with gangs := s.gangs.map fun g =>
             { g with span := { g.span with early := g.span.early.filter fun e => !lines.contains e.line } },
           cores := s.cores.map fun c => (c.1, { c.2 with
      l1 := dropLines c.2.l1 lines, icache := dropLines c.2.icache lines,
      dbc := c.2.dbc.filter fun e => !e.lines.any fun l => lines.contains l }) }

/-- Hand the page of va away: OWN := 1, moved to a window frame, or kept in device DRAM for the owner at a port (R36, R84; log 44).
The frames of a page that moves join the context's migration pool (log 67). -/
def handAway (s : State) (ctx : Nat) (va : DWord) (moveTo : Option Nat) (port : Nat) : State :=
  match context? s ctx with
  | none => s
  | some c =>
    match walk s c.root va with
    | .fault _ _ => s
    | .leaf level entry e =>
      if pteOwn e || level != 3 then s
      else
        let pages := leafPages e
        let inPage (a : Nat) : Bool := pages.contains (a / 4096 * 4096)
        let lines := pages.flatMap fun p => (List.range 32).map (lineOf p + ·)
        let s := spansForHandover s inPage lines
        let s := forgetLines s lines
        let n := pages.length
        let (s, frame) := match moveTo with
          | none => (lend s (pteFrame e) n port, pteFrame e)
          | some f => (rawWrite s f (readBytes s (pteKey e) (pteFrame e) (4096 * n)), f)
        let s := rewriteLeaves s (leafEntries entry e) (leafWith true frame)
        let s := if moveTo.isSome then
            modContext s ctx fun c => { c with pool := c.pool ++ pages }
          else s
        { s with now := s.now + 1 }

/-- The bytes of these page-table entries. -/
def entryBytes (es : List Nat) : List Nat := es.flatMap fun e => (List.range 8).map (e + ·)

/-- A page of the device that may be handed away: its entries, where a level-3 leaf with OWN = 0 maps va, the device has
performed an access since it was handed the page (R36), and no engine access translated through it stands (R23). -/
def awayReady (s : State) (ctx : Nat) (va : DWord) : Option (List Nat) :=
  match leafAt s ctx va with
  | none => none
  | some (entry, e) =>
    let es := leafEntries entry e
    let pages := leafPages e
    if pteOwn e || awaitsParty s es .device || holdsWalk s (entryBytes es) || holdsPage s (fun a => pages.contains (a / 4096 * 4096))
    then none else some es

/-- The page is handed away, and the partner has the next access (R36). -/
def giveAway (s : State) (ctx : Nat) (va : DWord) (es : List Nat) (moveTo : Option Nat) (port : Nat) : State :=
  breakPins (noteHanded (handAway s ctx va moveTo port) es .partner)

end Sys2Proof.Machine
end

