-- ==== Sys2Proof/Machine/Ops.lean ====
section
/-! DEFINITION. Shared operations of the meanings: barrier objects (R271), the end of a gang (R156), the fault domain
(R385), taking a trap and returning from one (R82, R361 to R369), asynchronous errors (R367), lane death (R376), and the
frame of a boundary instruction (R62). -/

namespace Sys2Proof.Machine

/-! ## The issuing gang -/

/-- The body of every instruction word: the gang that issues, and its issue. -/
def withGang (s : State) (f : Gang → Issue → Out) : Out :=
  match s.iss with
  | none => .fault .noIssuingGang
  | some it => match gang? s it.gang with
    | none => .fault .noIssuingGang
    | some g => f g it

/-- The execute mask of the instruction being issued: the split's (R148), or the owed lanes of a replay (R258). -/
def execMask (g : Gang) (it : Issue) : LaneMask :=
  match it.replay with
  | some r => r.owed &&& g.live &&& g.launchMask
  | none => splitMask g it.split

/-- The value of a uniform operand: the leader lane's (R154, R195). -/
def uniform (g : Gang) (m : LaneMask) (r : Nat) : Word := getReg g r ((leader m).getD 0)

def pairOf (g : Gang) (r lane : Nat) : DWord := getReg g (r + 1) lane ++ getReg g r lane
def quadOf (g : Gang) (r lane : Nat) : QWord := pairOf g (r + 2) lane ++ pairOf g r lane
def uniformPair (g : Gang) (m : LaneMask) (r : Nat) : DWord := pairOf g r ((leader m).getD 0)

def putPair (g : Gang) (r lane : Nat) (v : DWord) : Gang :=
  putReg (putReg g r lane (v.extractLsb' 0 32)) (r + 1) lane (v.extractLsb' 32 32)

def putQuad (g : Gang) (r lane : Nat) (v : QWord) : Gang :=
  putPair (putPair g r lane (v.extractLsb' 0 64)) (r + 2) lane (v.extractLsb' 64 64)

def setIss (s : State) (f : Issue → Issue) : State := { s with iss := s.iss.map f }

/-- The rest of the chain does not follow. -/
def stopChain (s : State) : State := setIss s fun it => { it with stopped := true }

/-- The gang stands before the instruction again. -/
def standBefore (g : Gang) (it : Issue) : Gang :=
  match it.replay with
  | some r => { g with trap := { g.trap with replay := some r } }
  | none => setPc g it.split it.pc

/-- The gang stands after the instruction's chain. -/
def standAfter (g : Gang) (it : Issue) : Gang :=
  match it.replay with
  | some _ => { g with trap := { g.trap with replay := none } }
  | none => setPc g it.split it.npc

/-- The instruction cannot issue now; the gang stands before it. -/
def stay (s : State) (it : Issue) : Out :=
  .next (setIss (modGang s it.gang fun g => standBefore g it) fun it => { it with waited := true, stopped := true })

/-- The gang waits at the instruction, parked, with its lease released (R354). -/
def park (g : Gang) (it : Issue) (w : Wait) : Gang :=
  let g := standBefore g it
  { g with sched := { g.sched with wait := w, active := false } }

/-! ## The fault domain (R385) -/

/-- Keep a record, or note the loss (R385). -/
def keepRecord (s : State) (r : ErrRec) : State :=
  if 4096 ≤ (s.errors.filter fun x => x.ctx == r.ctx).length then
    { s with errorsLost := if s.errorsLost.contains r.ctx then s.errorsLost else r.ctx :: s.errorsLost }
  else
    let r := if s.errorsLost.contains r.ctx then { r with kind := r.kind ||| 0x80#8 } else r
    { s with errors := s.errors ++ [r], errorsLost := s.errorsLost.filter (· != r.ctx) }

/-- TRAPLANES as programs see it (R363): a mask of visible lanes, but of a COPY error the local address (R305). -/
def seenLanes (g : Gang) (t : Trap) : Option LaneMask := if t.cause == cCOPY then t.lanes else t.lanes.map (visMask g)

/-- The contents of a trap as they are recorded, with these lanes: TRAPADDR and TRAPLANES of a cause for which the spec states
none are free values (log 19). -/
def fixTrapWith (s : State) (t : Trap) (lanes : Option LaneMask) : State × Trap :=
  if t.addr.isSome && lanes.isSome then (s, { t with lanes })
  else
    let (k, s) := nextFresh (nextFresh s).2
    let v := Config.unstated (k - 1)
    (s, { t with addr := some (t.addr.getD v), lanes := some (lanes.getD ((Config.unstated k).extractLsb' 0 32)) })

def fixTrap (s : State) (g : Gang) (t : Trap) : State × Trap := fixTrapWith s t (seenLanes g t)

/-- The record of a gang: kind 1 a halt, kind 2 an error that no handler takes. -/
def gangRecord (s : State) (g : Gang) (kind : Byte) (t : Trap) (pc : DWord) : ErrRec :=
  { kind, fdom := BitVec.zeroExtend 8 (heldFdom s (regionOf s g)), ctx := BitVec.ofNat 32 (ctxOf s g),
    cohort := BitVec.ofNat 64 (((cohortOf s g).map (·.number)).getD 0), gangid := BitVec.ofNat 16 g.gangid,
    wg := BitVec.ofNat 16 g.wg, cause := BitVec.zeroExtend 32 t.cause, info := t.info,
    lanes := t.lanes.getD 0, pc, addr := t.addr.getD 0, count := 1 }

/-- An error of a gang sent to the fault domain, with TRAPPC where a rule gives it one; else TRAPPC is a free value (log 19). -/
def toDomain (s : State) (g : Gang) (t : Trap) (pc : Option DWord) : State :=
  let (s, t) := fixTrap s g t
  match pc with
  | some pc => keepRecord s (gangRecord s g 2#8 t pc)
  | none => let (k, s) := nextFresh s; keepRecord s (gangRecord s g 2#8 t (Config.unstated k))

/-! ## Asynchronous errors (R367) -/

/-- Queue an error; a full queue or an ended gang sends it to the fault domain. -/
def queueAsync (s : State) (uid : Nat) (t : Trap) : State :=
  match gang? s uid with
  | none => s
  | some g =>
    if g.ended then toDomain s g t none
    else if 4 ≤ g.trap.queue.length then
      toDomain (modGang s uid fun g => { g with trap := { g.trap with lost := true } }) g t none
    else modGang s uid fun g => { g with trap := { g.trap with queue := g.trap.queue ++ [t] } }

/-! ## Barrier objects (R270, R271) -/

/-- PHASE is later than W (R271). -/
def later (phase w : Nat) : Bool :=
  let d := (phase + 2 ^ 32 - w % 2 ^ 32) % 2 ^ 32
  1 ≤ d && d ≤ 2 ^ 31

def barObj (s : State) (core obj : Nat) : Option BarObj := getK obj (coreOf s core).bars

def setBarObj (s : State) (core obj : Nat) (b : BarObj) : State :=
  modCore s core fun c => { c with bars := setK obj b c.bars }

/-- No arrival yet, as AP. -/
def noArrival : Nat := 2 ^ 32

def barRec (g : Gang) (core obj : Nat) : BarRec :=
  (g.bars.find? fun r => r.core == core && r.obj == obj).getD ⟨core, obj, 0, noArrival⟩

def setBarRec (g : Gang) (r : BarRec) : Gang :=
  { g with bars := r :: g.bars.filter fun x => !(x.core == r.core && x.obj == r.obj) }

/-- STEP or an owed SHADOW is due for an instruction whose wait has ended (R374, R378). -/
def noteStep (g : Gang) : Gang := { g with stepDue := (g.sstep && !g.trap.nest) || g.shadow.any fun h => h.2.2 == g.trap.nest }

/-- The PC after n words at a PC (R180, R182). -/
def nextPc (pc : DWord) (n : Nat) : DWord :=
  if pc.toNat % 4 + n < 3 then pc + BitVec.ofNat 64 n else packetOf pc + 12

/-- The PC at which the slices of a split stand. -/
def splitPc (g : Gang) (split : Nat) : DWord := ((splitSlices g split).head?.map (·.2.pc)).getD 0

/-- The instruction at which a split waits is performed with `f`: the split stands after it, and the next span begins. -/
def completeWait (s : State) (g : Gang) (split : Nat) (f : Gang → Gang) : Gang :=
  let g := noteStep (wake s (f (setPc g split (nextPc (splitPc g split) 1))))
  { g with span := emptySpan g }

/-- A wait that observes a completed phase: W := PHASE, and an acquire at scope COHORT on the object's stamp (R91, R272). -/
def barAcquire (now core obj : Nat) (b : BarObj) (g : Gang) : Gang :=
  { setBarRec g { barRec g core obj with w := b.phase } with floor := max g.floor b.stamp, acq := now }

/-- A gang that waits on the object proceeds when PHASE is later than its W (R271, step 2). -/
def barProceed (s : State) (core obj : Nat) (b : BarObj) (g : Gang) : Gang :=
  match g.sched.wait with
  | .barrier c o split =>
    if c = core ∧ o = obj ∧ later b.phase (barRec g core obj).w then
      completeWait s g split (barAcquire s.now core obj b)
    else g
  | _ => g

/-- The event that changed ARR or BYTES completes the phase when both stand at 0 (R271). -/
def barSettle (s : State) (core obj : Nat) (b : BarObj) : State :=
  if b.arr = 0 ∧ b.bytes = 0 then
    let b := { b with phase := (b.phase + 1) % 2 ^ 32, arr := b.e, arrived := false }
    let s := setBarObj s core obj b
    { s with gangs := s.gangs.map (barProceed s core obj b) }
  else setBarObj s core obj b

/-- The ending gang lowers one object's expected count (R156). -/
def barLower (s : State) (core obj : Nat) (g : Gang) : State :=
  match barObj s core obj with
  | none => s
  | some b =>
    if !b.part.contains g.uid then s
    else
      let b' := { b with e := b.e - 1, part := b.part.filter (· != g.uid) }
      if (barRec g core obj).ap = b.phase then setBarObj s core obj b'
      else if b.arr = 0 then setBarObj s core obj b'
      else barSettle s core obj { b' with arr := b.arr - 1 }

def lowerAll (s : State) (g : Gang) : State :=
  s.cores.foldl (init := s) fun s c => c.2.bars.foldl (init := s) fun s b => barLower s c.1 b.1 g

/-! ## Grants (R274) and the end of a gang (R156, R229) -/

def Grant.none : Grant := ⟨0, 0, [], [], []⟩

/-- The engine still holds instructions of the gang, or of a peer on the gang's window. -/
def engineBusy (c : Core) (uid : Nat) : Bool := (c.offers ++ c.engine).any fun o => o.gang == uid || o.peer == uid

/-- The grant of an ended gang is free once its instructions are performed. -/
def freeGrant (s : State) (uid : Nat) : State :=
  match gang? s uid with
  | none => s
  | some g => if g.ended && !engineBusy (coreOf s g.core) uid then modGang s uid fun g => { g with grant := .none } else s

/-- The hold of a freezing gang ends (R375). -/
def releaseHeld (s : State) (uid : Nat) : State :=
  { s with gangs := s.gangs.map fun g =>
      if g.sched.heldBy = some uid then
        { g with sched := { g.sched with heldBy := none, readySince := coreCycle s g.core } }
      else g }

/-- Leave the queues of a core in which gangs wait (R269, R276). -/
def leaveQueues (s : State) (uid core : Nat) : State :=
  modCore s core fun c => { c with accWaiters := c.accWaiters.filter (·.1 != uid),
                                   growers := c.growers.filter (·.1 != uid) }

/-- SHADOW with its subcause and the dead lanes (R378). -/
def shadowTrap (sub : Nat) (lanes : LaneMask) : Trap := { cause := cSHADOW, info := subInfo sub, addr := none, lanes := some lanes }

/-- The PC after the instruction that the gang issues, where one issues; else where its lowest slice stands (R378). -/
def pcAfter (s : State) (g : Gang) : DWord :=
  match s.iss.filter fun it => it.gang == g.uid with
  | some it => it.npc
  | none => ((g.slices.head?).map (·.pc)).getD 0

/-- The gang ends: its errors, and a SHADOW that it owes, go to the fault domain, barrier counts fall, its floor counts for the
grid's completion write (R235), its holds and waits end (R156, R367, R378). -/
def gangEnd (s : State) (uid : Nat) : State :=
  match gang? s uid with
  | none => s
  | some g =>
    let pc := pcAfter s g
    let s := g.trap.queue.foldl (init := s) fun s t => toDomain s g t none
    let s := match g.shadow with
      | some h => toDomain s g (shadowTrap h.1 h.2.1) (some pc)
      | none => s
    let s := lowerAll s g
    let s := match cohortOf s g with
      | none => s
      | some c => modGrid s c.grid fun gr => { gr with stamp := max gr.stamp g.floor }
    let s := modGang s uid fun g =>
      { g with ended := true, shadow := none, slices := g.slices.map fun sl => { sl with ended := true },
               trap := { g.trap with queue := [], replay := none, pending := none },
               sched := { g.sched with active := false, wait := .none, aged := none, protUntil := none } }
    let s := dropAsks (leaveQueues (releaseHeld s uid) uid g.core) uid
    let s := { s with favoured := if s.favoured = some uid then none else s.favoured,
                      favourQueue := s.favourQueue.filter (· != uid) }
    freeGrant s uid

/-! ## Handlers (R364, R365) -/

/-- A packet address of the gang's code object (R182). -/
def packetAddr (g : Gang) (a : DWord) : Bool := g.codeBase.toNat ≤ a.toNat && (a.toNat - g.codeBase.toNat) % 12 == 0

/-- A valid PC: a packet address plus a slot 0 to 2 (R180). -/
def validPc (g : Gang) (a : DWord) : Bool := a.toNat % 4 < 3 && packetAddr g (BitVec.ofNat 64 (a.toNat / 4 * 4))

def handlerUsable (g : Gang) : Bool := g.trap.base != 0#64 && packetAddr g g.trap.base

/-- What a delivery records: the trap, TRAPPC, the fault record, the split and execute mask that enter the handler, whether
the trap is asynchronous and whether it rolled a transaction back. -/
structure Delivery where
  trap : Trap
  pc : DWord
  record : Option FaultRecord
  split : Nat
  mask : LaneMask
  async : Bool
  txTrap : Bool
deriving DecidableEq, Repr

/-- The trap registers as a delivery writes them (R363, R364); RACESRC has reserved bits (R81). -/
def writeTrapRegs (t : TrapState) (d : Delivery) : TrapState :=
  { t with cause := BitVec.zeroExtend 32 d.trap.cause, pc := d.pc, addr := d.trap.addr.getD 0,
           lanes := d.trap.lanes.getD 0, info := d.trap.info,
           raceCsn := (d.trap.race.map fun r => BitVec.ofNat 64 r.1).getD t.raceCsn,
           raceSrc := ((d.trap.race.map (·.2)).getD t.raceSrc) &&& 0x8000FF3F#32 }

/-- The gang halts (R365): DOUBLE is recorded for the fault domain and the gang ends. -/
def halt (s : State) (uid : Nat) (d : Delivery) : State :=
  match gang? s uid with
  | none => s
  | some g =>
    let first := if g.trap.nest then (g.trap.cause &&& 0x3F#32) <<< 24 else 0#32
    let info := first ||| (BitVec.zeroExtend 32 d.trap.cause <<< 16) ||| (d.trap.info &&& 0xFF#32)
    let t : Trap := { d.trap with cause := cDOUBLE, info }
    let s := modGang s uid fun g => { g with trap := writeTrapRegs g.trap { d with trap := t } }
    gangEnd (keepRecord s (gangRecord s g 1#8 t d.pc)) uid

/-- The span of a gang that is stopped from outside ends with code 6; a transaction resumes with status 5 (R78, R83, R375). Between
spans there is nothing to end, and locate and exact mode stay (R83; log 18). -/
def stopOutside (s : State) (g : Gang) : CommitRes :=
  if g.span.tx.isSome then .done (txRestart s g.uid 5 (some 6))
  else if g.span.begun then commitSpan s g.uid 6
  else .done s

/-- Stop the other gangs of the workgroup of a gang with FREEZE (R375). A commit that waits for the favoured span stays
open and is made by SPAN_COMMIT. -/
def freezeOthers (s : State) (g : Gang) : State :=
  s.gangs.foldl (init := s) fun s h0 =>
    match gang? s h0.uid with
    | none => s
    | some h =>
      if h.uid = g.uid ∨ h.cohort ≠ g.cohort ∨ h.wg ≠ g.wg ∨ h.ended = true ∨ h.sched.heldBy.isSome = true then s
      else
        let s := match stopOutside s h with
          | .done t => t | .failed t => t | .wait => s
        modGang s h.uid fun h => { h with sched := { h.sched with heldBy := some g.uid, active := false } }

/-- The slices that enter the handler: those of the split with a lane of its execute mask. -/
def entersHandler (d : Delivery) (k : Nat) (sl : Slice) : Bool := sl.split = d.split && !sl.ended && !sl.held && nibble d.mask k != 0#4

def frameOf (g : Gang) (d : Delivery) : Frame :=
  { slices := (enumSlices g).map fun p =>
      { pc := p.2.pc, path := p.2.path, depth := p.2.stack.length, split := p.2.split, wait := p.2.wait,
        entered := entersHandler d p.1 p.2, ended := p.2.ended },
    record := d.record, trapPc := d.pc, txTrap := d.txTrap }

/-- The handler's slices form one split at TRAPBASE; the others stand (R364). A backward-branch count returns to 0 where the path
mask changes (R150; log 81). -/
def enterSlices (g : Gang) (d : Delivery) : Gang :=
  let n := nextSplit g
  modSlices g fun k sl =>
    if entersHandler d k sl then
      { sl with pc := g.trap.base, path := nibble d.mask k, split := n, wait := .none,
                back := if nibble d.mask k = sl.path then sl.back else 0 }
    else { sl with held := true }

/-- Delivery (R364, R365), the span having ended: the trap registers, the hidden frame and the handler, or a halt. What the
gang's instructions asked for is given up, and failed hand-overs have been reported (R35). Every interruption ends the span with
code 6 (R361), also where it stands at a boundary that another code ended; locate and exact mode end with it (R73, R76; log 82). -/
def deliver (s : State) (uid : Nat) (d : Delivery) : State :=
  match gang? s uid with
  | none => s
  | some g =>
    let (s, t) := fixTrap (dropAsks s uid) g d.trap
    let d := { d with trap := t }
    if (g.trap.nest && !d.async) || !handlerUsable g then halt s uid d
    else
      let f := frameOf g d
      let g' := enterSlices g d
      let t := writeTrapRegs g.trap d
      let t := { t with nest := true, async := d.async, frame := some f, replay := none, pending := none }
      let t := if d.async then { t with qovf := t.lost, lost := false, queue := t.queue.drop 1 } else t
      let g' := { g' with trap := t, sched := { g'.sched with wait := .none }, ownerFail := if d.async then g.ownerFail else [] }
      let s := setGang s (endUnbegun g' 6)
      let s := if g.sched.wait == .none then s
        else modGang (leaveQueues s uid g.core) uid fun g => wake s g
      if g.freeze then freezeOthers s g' else s

/-- A fault record whose split still stands in the gang: its owed lanes are what the gang performs next (R366). -/
def owedNext (g : Gang) : Option FaultRecord := g.trap.replay.filter fun r => !(splitSlices g r.split).isEmpty

/-- An asynchronous error at the issue boundary of a split (R367): TRAPPC names the instruction that is performed next. Owed
lanes that are next stay owed: the frame keeps their record (R369, R370). -/
def asyncDelivery (g : Gang) (t : Trap) (split : Nat) : Delivery :=
  match owedNext g with
  | some r => { trap := t, pc := r.pc, record := some r, split := r.split, mask := splitMask g r.split, async := true,
                txTrap := false }
  | none => { trap := t, pc := splitPc g split, record := none, split, mask := splitMask g split, async := true, txTrap := false }

/-- The fault met under lookahead, the gang standing at its first instruction not performed (R368, R369). Where its split has
no slice left, another that can issue stands for it. -/
def pendingDelivery (g : Gang) (p : PendingFault) : Delivery :=
  let here := !(splitSlices g p.record.split).isEmpty
  let split := if here then p.record.split else (readySplits g).headD p.record.split
  let r := { p.record with split, resume := splitPc g split, mask := if here then p.record.mask else splitMask g split }
  { trap := p.trap, pc := r.pc, record := some r, split, mask := r.mask, async := false, txTrap := false }

/-- The oldest queued error at a delivery point: the split whose issue boundary it takes (R367). Nothing when NEST = 1. A fault
that the gang has met and not yet received comes first (R371). -/
def deliverQueued (s : State) (uid split : Nat) : Option State :=
  match gang? s uid with
  | none => none
  | some g =>
    match g.trap.queue with
    | [] => none
    | t :: _ =>
      if g.trap.nest || g.ended then none
      else some (deliver s uid (match g.trap.pending with
        | some p => pendingDelivery g p
        | none => asyncDelivery g t split))

/-! ## Raising a trap (R82, R258, R364, R368) -/

/-- End the span and deliver, the gang standing where it resumes. `wait` is the answer when the commit must wait (R77). -/
def trapNow (wait : Out) (s : State) (it : Issue) (d : Delivery) : Out :=
  match gang? s it.gang with
  | none => .next s
  | some g =>
    match g.span.tx with
    | some t =>
      let s := noteEnd (rollback s it.gang) it.gang 6
      let s := modGang s it.gang fun g =>
        setPc { g with span := { g.span with tx := none }, trap := { g.trap with pending := none, replay := none } }
          t.split t.pc
      let mask := ((gang? s it.gang).map fun g => splitMask g t.split).getD 0
      .next (stopChain (deliver s it.gang { d with pc := t.pc, record := none, split := t.split, mask, txTrap := true }))
    | none =>
      match commitSpan s it.gang 6 with
      | .failed t => .next (stopChain t)
      | .wait => wait
      | .done t => .next (stopChain (deliver t it.gang d))

/-- Deliver the fault that was met under lookahead (R368, R369), the gang standing at its first instruction not performed. -/
def deliverPending (wait : Out) (s : State) (it : Issue) (p : PendingFault) : Out :=
  match gang? s it.gang with
  | none => .next s
  | some g => trapNow wait (modGang s it.gang fun g => { g with trap := { g.trap with pending := none } }) it (pendingDelivery g p)

/-- A synchronous trap at the instruction, which is performed in no lane (R364, R366). -/
def raise (s : State) (t : Trap) : Out :=
  withGang s fun g it =>
    let s' := setGang s (standBefore g it)
    match g.trap.pending with
    | some p => deliverPending (stay s it) s' it p
    | none =>
      match it.replay with
      | none => trapNow (stay s it) s' it
          { trap := t, pc := it.pc, record := none, split := it.split, mask := execMask g it, async := false, txTrap := false }
      | some r => trapNow (stay s it) (setGang s (standAfter g it)) it
          { trap := t, pc := it.pc, record := some { r with owed := execMask g it }, split := r.split, mask := r.mask,
            async := false, txTrap := false }

/-- A synchronous trap after the instruction (TRAPI, BREAK, STEP, SHADOW): TRAPPC is the next PC (R231, R374, R378). -/
def raiseAfter (wait : Out) (s : State) (t : Trap) : Out :=
  withGang s fun g it =>
    match g.trap.pending with
    | some p => deliverPending wait (setGang s (standBefore g it)) it p
    | none =>
      let pc := splitPc g it.split
      trapNow wait s it
        { trap := t, pc, record := none, split := it.split, mask := splitMask g it.split, async := false, txTrap := false }

/-- A trap of some lanes, the others having been performed in `s` (R258): the owed lanes, the recorded base, and LA with the
registers the instruction reads and writes. Under lookahead the fault stays pending (R368). -/
def raiseOwed (s0 s : State) (t : Trap) (owed : LaneMask) (base : DWord) (la : Nat) (reads writes : List Nat) : Out :=
  withGang s fun g it =>
    let m := execMask g it
    if owed &&& m = m ∧ it.replay.isNone = true ∧ la = 0 then raise s t
    else
      match g.trap.pending with
      | some p => deliverPending (stay s0 it) (modGang s0 it.gang fun g => standBefore g it) it p
      | none =>
        let fr : FaultRecord := match it.replay with
          | some r => { r with owed }
          | none => ⟨it.pc, base, owed, it.rpc, it.split, m⟩
        if la = 0 ∨ g.sstep = true ∨ g.prot = true ∨ it.replay.isSome = true then
          let g' := match it.replay with
            | some _ => standAfter g it
            | none => setPc g it.split it.rpc
          trapNow (stay s0 it) (setGang s g') it
            { trap := t, pc := fr.pc, record := some fr, split := fr.split, mask := fr.mask, async := false,
              txTrap := false }
        else .next (modGang s it.gang fun g =>
          { g with trap := { g.trap with pending := some ⟨t, fr, la, reads, writes⟩ } })

/-! ## Lane death (R155, R376) -/

/-- The grid of a fragment gang (R324). -/
def fragmentGang (s : State) (g : Gang) : Bool := ((cohortOf s g).bind fun c => (grid? s c.grid).bind (·.raster)).isSome

/-- Both lanes of the pairs that a mask touches, in protected mode (R155). -/
def pairsOf (g : Gang) (m : LaneMask) : LaneMask :=
  if g.prot then m ||| ((m &&& 0x55555555#32) <<< 1) ||| ((m &&& 0xAAAAAAAA#32) >>> 1) else m

def killLanes (s : State) (uid : Nat) (m : LaneMask) : State :=
  modGang s uid fun g => { g with live := g.live &&& ~~~(pairsOf g m) }

/-- Lanes consume poison: they die, and a POISON error is queued (R376). -/
def consumePoison (s : State) (uid : Nat) (lanes : LaneMask) (sub : Nat) (addr : Option DWord) : State :=
  if lanes = 0#32 then s
  else match gang? s uid with
    | none => s
    | some g =>
      queueAsync (killLanes s uid lanes) uid
        { cause := cPOISON, info := subInfo sub, addr, lanes := some (pairsOf g lanes &&& g.launchMask) }

/-- A gang without a live lane ends: its open span is committed, or rolled back when that fails (R376). None when the commit
must wait. -/
def endIfDead (s : State) (uid : Nat) : Option State :=
  match gang? s uid with
  | none => some s
  | some g =>
    if g.ended || (g.live &&& g.launchMask) != 0#32 then some s
    else if g.span.tx.isSome then some (gangEnd (modGang (rollback s uid) uid fun g => { g with span := { g.span with tx := none } }) uid)
    else match commitSpan s uid 6 with
      | .done t => some (gangEnd t uid)
      | .failed t => some (gangEnd t uid)
      | .wait => none

/-! ## Boundary instructions (R62, R79, R278, R367) -/

/-- The instruction completes: the next span begins after it (R62, R63). -/
def doneBoundary (s : State) (uid : Nat) : Out := .next (freshSpan s uid)

/-- The gang has engine instructions offered and not yet accepted, on any core (R278, R289). -/
def offersOpen (s : State) (uid : Nat) : Bool := s.cores.any fun c => c.2.offers.any fun o => o.gang == uid

/-- The gang has engine instructions that are not yet complete (R229, R276). -/
def engineOpen (s : State) (uid : Nat) : Bool := s.cores.any fun c => (c.2.offers ++ c.2.engine).any fun o => o.gang == uid

/-- A transaction rolled back with status 2 or 3: its span has ended with this code, and a queued error is delivered after its
SPAN.OPEN (R78, R79, R367). -/
def endTx (s : State) (uid status code : Nat) : State :=
  let split := (((gang? s uid).bind (·.span.tx)).map (·.split)).getD 0
  let t := txRestart s uid status (some code)
  (deliverQueued t uid split).getD t

/-- A boundary instruction: the span ends with the code before it, a queued error is delivered there, and the instruction is
performed outside any span. Inside a transaction it rolls the transaction back with status 3 (R79). It waits until the
gang's engine instructions are accepted (R278). -/
def boundary (code : Nat) (close : Bool) (s : State) (body : State → Gang → Issue → Out) : Out :=
  withGang s fun g it =>
    if (g.span.tx.isSome : Bool) && !close then .next (stopChain (endTx s it.gang 3 code))
    else if offersOpen s it.gang then stay s it
    else
      let s1 := setGang s (standBefore g it)
      match commitSpan s1 it.gang code with
      | .wait => stay s it
      | .failed t => .next (stopChain t)
      | .done t =>
        match deliverQueued t it.gang it.split with
        | some u => .next (stopChain u)
        | none =>
          let t := modGang t it.gang fun g => standAfter g it
          match gang? t it.gang with
          | none => .next t
          | some g => body t g it

/-- A span end between two instructions of the split, with the delivery that it allows (R62, R367); nothing while the commit
must wait. -/
def endSpan (s : State) (uid split code : Nat) : State :=
  match commitSpan s uid code with
  | .wait => s
  | .failed t => t
  | .done t => (deliverQueued t uid split).getD t

/-- An instruction that meets a limit (codes 4 and 5) is not performed; the span ends before its whole chain (R185), which is then
the first instruction of the next span. A transaction meets code 4 with status 2 (R78). -/
def endBefore (code : Nat) (s : State) : Out :=
  withGang s fun g it =>
    if g.span.tx.isSome then .next (stopChain (endTx s it.gang 2 code))
    else .next (setIss (setGang s (standBefore g it)) fun it => { it with waited := true, stopped := true, limit := some code })

/-! ## Ordering of the gang (R42, R91, R92) -/

/-- An acquire at COHORT or wider moves the acquire point to now (R42). -/
def moveAcquire (s : State) (uid : Nat) : State := modGang s uid fun g => { g with acq := s.now }

def scopeWide : Scope → Bool
  | .cohort => true | .dev => true | .sys => true | _ => false

def raiseFloor (s : State) (uid n : Nat) : State := modGang s uid fun g => { g with floor := max g.floor n }

/-- The pending floor rises to the stamps that a relaxed read found (R92). -/
def raisePending (s : State) (uid n : Nat) : State := modGang s uid fun g => { g with pendFloor := max g.pendFloor n }

/-- Acquire event at a scope on a stamp (R70, R91, R42). -/
def acquireEvent (s : State) (uid : Nat) (sc : Scope) (stamp : Nat) : State :=
  let s := raiseFloor s uid stamp
  if scopeWide sc then moveAcquire s uid else s

/-! ## RTT (R366) -/

/-- The slices that entered the handler and still hold a live lane. -/
def handlerSlices (g : Gang) (f : Frame) : List (Nat × Slice × FrameSlice) :=
  (((List.range g.slices.length).zip (g.slices.zip f.slices)).filter fun p =>
    p.2.2.entered && !p.2.1.ended && (nibble (g.live &&& g.launchMask) p.1 != 0#4))

/-- RTT by this split is in order: step 1 of R366. -/
def rttOK (g : Gang) (f : Frame) (split : Nat) : Bool :=
  (handlerSlices g f).all (fun p => p.2.1.split == split && p.2.1.stack.length == p.2.2.depth)
    && (splitSlices g split).all fun q => (handlerSlices g f).any fun p => p.1 == q.1

/-- The PC at which a slice of the frame resumes (R366, step 3). -/
def resumePc (t : TrapState) (f : Frame) (fs : FrameSlice) : DWord :=
  if !fs.entered then fs.pc
  else if t.pc != f.trapPc then t.pc
  else match f.record with
    | some r => if fs.split = r.split then r.resume else fs.pc
    | none => t.pc

/-- The split of the frame that entered the handler. -/
def enteredSplit (f : Frame) : Option Nat := (f.slices.find? (·.entered)).map (·.split)

/-- The SPAN.OPEN that is to write status 4 after a return (R79): the one at which a trap in its transaction was delivered, until
its split is sent elsewhere. -/
def nextOpen (g : Gang) (f : Frame) (rewritten : Bool) : Option (Nat × DWord) :=
  if rewritten then g.span.txNext.filter fun p => some p.1 != enteredSplit f
  else if f.txTrap then (enteredSplit f).map fun n => (n, f.trapPc)
  else g.span.txNext

/-- The frame's splits and paths are restored, NEST and ASYNC cleared, and control continues (R366, steps 2 and 3). -/
def returnFrame (g : Gang) (f : Frame) : Gang :=
  let rewritten := g.trap.pc != f.trapPc
  let slices := ((g.slices.zip f.slices)).map fun p =>
    if p.1.ended && !p.1.held then p.1
    else { p.1 with pc := resumePc g.trap f p.2, path := p.2.path, split := p.2.split, wait := p.2.wait, held := false,
                    ended := p.2.ended, back := if p.2.path = p.1.path then p.1.back else 0 }
  { g with slices,
           span := { g.span with txNext := nextOpen g f rewritten },
           trap := { g.trap with nest := false, async := false, frame := none, pending := none,
                                 replay := if rewritten then none else f.record } }

end Sys2Proof.Machine
end

