-- ==== Sys2Proof/Machine/Operands.lean ====
section
/-! DEFINITION. Operand forms: register writes by lane (R207), masks (R195, R215), the addresses of M-format words (R190,
R253, R254), local addresses (R31), and the uniform words of the engine (R281, R282). -/

namespace Sys2Proof.Machine

/-! ## Writes by lane: every source is read in `g`, before any write (R207) -/

/-- Fold a write over the lanes of the execute mask. -/
def overLanes (s : State) (f : Gang → Gang → Nat → Gang) : Out :=
  withGang s fun g it => .next (setGang s ((lanesOf (execMask g it)).foldl (f g) g))

def writeLanes (s : State) (d : Reg) (f : Gang → Nat → Word) : Out :=
  overLanes s fun g h i => putReg h d.toNat i (f g i)

def writePairs (s : State) (d : Reg) (f : Gang → Nat → DWord) : Out :=
  overLanes s fun g h i => putPair h d.toNat i (f g i)

/-- d := f a. -/
def lane1 (s : State) (d a : Reg) (f : Word → Word) : Out := writeLanes s d fun g i => f (getReg g a.toNat i)

/-- d := f a b. -/
def lane2 (s : State) (d a b : Reg) (f : Word → Word → Word) : Out :=
  writeLanes s d fun g i => f (getReg g a.toNat i) (getReg g b.toNat i)

/-- d := f d a b, reading the old d. -/
def lane3 (s : State) (d a b : Reg) (f : Word → Word → Word → Word) : Out :=
  writeLanes s d fun g i => f (getReg g d.toNat i) (getReg g a.toNat i) (getReg g b.toNat i)

/-- Pair d := f (pair a) (pair b). -/
def pair2 (s : State) (d a b : Reg) (f : DWord → DWord → DWord) : Out :=
  writePairs s d fun g i => f (pairOf g a.toNat i) (pairOf g b.toNat i)

/-- Pair d := f (pair a) (single b). -/
def pairS (s : State) (d a b : Reg) (f : DWord → Word → DWord) : Out :=
  writePairs s d fun g i => f (pairOf g a.toNat i) (getReg g b.toNat i)

/-- Pair d := f (single a) (single b). -/
def pairW (s : State) (d a b : Reg) (f : Word → Word → DWord) : Out :=
  writePairs s d fun g i => f (getReg g a.toNat i) (getReg g b.toNat i)

/-! ## Masks (R195, R215) -/

/-- The mask, as programs see it, of the executing lanes that meet a condition (R215, R158). -/
def condMask (g : Gang) (m : LaneMask) (c : Nat → Bool) : LaneMask := visMask g (maskOf ((lanesOf m).filter c))

/-- One value written to d in every executing lane. -/
def putAll (g : Gang) (m : LaneMask) (d : Reg) (v : Word) : Gang := putLanes g d.toNat m fun _ => v

/-- d := the mask of a condition on the gang's lanes. -/
def writeMask (s : State) (d : Reg) (c : Gang → Nat → Bool) : Out :=
  withGang s fun g it => let m := execMask g it; .next (setGang s (putAll g m d (condMask g m (c g))))

/-! ## Addresses of M-format words (R190, R254) -/

/-- Base pair with the immediate: the recorded one at a replay (R258), else the leader's. -/
def globalBase (g : Gang) (it : Issue) (m : LaneMask) (base : BitVec 4) (x : Option Word) : DWord :=
  match it.replay with
  | some r => r.base
  | none => uniformPair g m (2 * base.toNat) + (x.getD 0).signExtend 64

/-- Base register with the immediate in the local majors (R190). -/
def localBase (g : Gang) (it : Issue) (m : LaneMask) (base : BitVec 4) (x : Option Word) : DWord :=
  match it.replay with
  | some r => r.base
  | none => (uniform g m (2 * base.toNat) + x.getD 0).zeroExtend 64

/-- The offset term: off = 0 names no register (R190). -/
def offsetTerm (g : Gang) (off : Reg) (size lane : Nat) : DWord :=
  if off = 0#7 then 0 else (getReg g off.toNat lane).signExtend 64 * BitVec.ofNat 64 size

def globalEa (g : Gang) (base : DWord) (off : Reg) (size lane : Nat) : DWord := base + offsetTerm g off size lane

/-- A local address is taken modulo 2^32 (R190). -/
def localEa (g : Gang) (base : DWord) (off : Reg) (size lane : Nat) : Word :=
  ((base + offsetTerm g off size lane).extractLsb' 0 32)

/-- Registers of one lane's data of n bytes: a single register, a pair or a quad (R253). -/
def dataRegs (d : Reg) (n : Nat) : List Nat := (List.range (max 1 (n / 4))).map (d.toNat + ·)

/-- The bytes that a store takes from register d (R256). -/
def storeBytes (g : Gang) (d : Reg) (n lane : Nat) : List Byte :=
  ((dataRegs d n).flatMap fun r => bytesOf 4 (getReg g r lane).toNat).take n

/-- A loaded value into d: zero- or sign-extended to 32 bits below a word (R256). -/
def loadInto (g : Gang) (d : Reg) (signed : Bool) (bs : List Byte) (lane : Nat) : Gang :=
  let n := bs.length
  if n < 4 then
    let v := BitVec.ofNat 32 (natOfBytes bs)
    let v := if signed then ofInt 32 ((BitVec.ofNat (8 * n) (natOfBytes bs)).toInt) else v
    putReg g d.toNat lane v
  else (List.range (n / 4)).foldl (fun g k => putReg g (d.toNat + k) lane (BitVec.ofNat 32 (natOfBytes ((bs.drop (4 * k)).take 4)))) g

/-- Sizes of the sz field by major (R253). -/
def sizeBHWD (sz : BitVec 2) : Nat := 2 ^ sz.toNat
def sizeLds (sz : BitVec 2) : Nat := if sz = 3#2 then 16 else 2 ^ sz.toNat
def sizeByp (sz : BitVec 2) : Nat :=
  match sz.toNat with
  | 0 => 1 | 1 => 4 | 2 => 8 | _ => 16
def atomSize (x : AtomArgs) : Nat := if x.dbl then 8 else 4

/-! ## Failing lanes (R22, R254, R258) -/

/-- What one lane of an access meets: it passes with its value, fails with a cause, TRAPINFO and the address, or needs a
hand-over of the page. -/
inductive LaneRes (α : Type) where
  | ok (v : α)
  | fail (cause : BitVec 6) (info : Word) (addr : DWord)
  | own (va : DWord)

/-- The failures of an access, reported as R22 lays down: the lowest failing lane gives cause, TRAPINFO and TRAPADDR;
TRAPLANES holds the lanes with the same cause and subcause; every failing lane is owed (R258). -/
structure Failing where
  trap : Trap
  owed : LaneMask
deriving DecidableEq, Repr

def laneFails {α : Type} (rs : List (Nat × LaneRes α)) : Option Failing :=
  let fs := rs.filterMap fun r => match r.2 with
    | .fail c i a => some (r.1, c, i, a) | _ => none
  match fs with
  | [] => none
  | (_, c, i, a) :: _ =>
    let same := fs.filter fun x => x.2.1 == c && (x.2.2.1 &&& 0xFF#32) == (i &&& 0xFF#32)
    some ⟨{ cause := c, info := i, addr := some a, lanes := some (maskOf (same.map (·.1))) }, maskOf (fs.map (·.1))⟩

/-- A page that some lane waits for (R35). -/
def laneOwn {α : Type} (rs : List (Nat × LaneRes α)) : Option DWord :=
  rs.findSome? fun r => match r.2 with
    | .own va => some va | _ => none

def laneOks {α : Type} (rs : List (Nat × LaneRes α)) : List (Nat × α) :=
  rs.filterMap fun r => match r.2 with
    | .ok v => some (r.1, v) | _ => none

/-- Ask for the hand-over of the page of va; `add` enters who waits for it (R35). -/
def requestHandover (s : State) (ctx : Nat) (va : DWord) (add : HandReq → HandReq) : State :=
  let page := pageKey s ctx va
  { s with handReqs :=
      if s.handReqs.any fun r => r.ctx == ctx && r.page == page then
        s.handReqs.map fun r => if r.ctx = ctx ∧ r.page = page then add r else r
      else s.handReqs ++ [add ⟨ctx, page, [], [], [], []⟩] }

/-- The instruction waits for the hand-over of the page of va (R35). -/
def awaitHandover (s : State) (it : Issue) (ctx : Nat) (va : DWord) : Out :=
  stay (requestHandover s ctx va fun r => { r with waiters := (it.gang :: r.waiters).eraseDups }) it

/-- A page that belongs to the host or a peer: a failed hand-over raises OWNER, else the access waits (R35). -/
def ownRes {α : Type} (s : State) (ctx : Nat) (fails : List (Nat × Nat)) (va : DWord) : LaneRes α :=
  match failedHand s ctx fails va with
  | some sub => .fail cOWNER (subInfo sub) va
  | none => .own va

/-- Check one lane's global access: alignment, then R19; a failed hand-over raises OWNER once (R35). `nofault` is the
poison of a page, which each kind of access answers for itself. -/
def laneCheck (s : State) (g : Gang) (need : Need) (size : Nat) (va : DWord) : LaneRes Xlat :=
  if va.toNat % size ≠ 0 then .fail cMISALIGN (subInfo 1) va
  else match checkAccess s (ctxOf s g) (regionOf s g) need va with
    | .ok x => .ok x
    | .fail c sub level => .fail c (checkInfo c sub level) va
    | .own _ => ownRes s (ctxOf s g) g.ownerFail va

/-- A poisoned page makes a store, an atomic or a descriptor read fail with check 13 (R19, R27). -/
def poisonFails (r : LaneRes Xlat) (va : DWord) : LaneRes Xlat :=
  match r with
  | .ok x => if x.poison then .fail cPOISON (subInfo 0x30) va else .ok x
  | r => r

/-! ## Local memory (R31) -/

/-- A local address: reserved bits, workgroup and offset. -/
structure LocalAddr where
  high : Nat
  wg : Nat
  off : Nat
deriving DecidableEq, Repr

def localAddr (a : Word) : LocalAddr := ⟨a.toNat / 2 ^ 21, a.toNat / 2 ^ 19 % 4, a.toNat % 2 ^ 19⟩

end Sys2Proof.Machine
end

