-- ==== Sys2Proof/Machine/IntAlu.lean ====
section
/-! DEFINITION. Integer arithmetic, major 0x01 (R208, R209), and the immediate and long-immediate forms, majors 0x08 to 0x12
(R213, R214). -/

namespace Sys2Proof.Machine

def minS {w : Nat} (a b : BitVec w) : BitVec w := if a.toInt ≤ b.toInt then a else b
def maxS {w : Nat} (a b : BitVec w) : BitVec w := if a.toInt ≤ b.toInt then b else a
def minU {w : Nat} (a b : BitVec w) : BitVec w := if a.toNat ≤ b.toNat then a else b
def maxU {w : Nat} (a b : BitVec w) : BitVec w := if a.toNat ≤ b.toNat then b else a

/-- An exact integer clamped to the signed range of a word (R208). -/
def clampS (x : Int) : Word := ofInt 32 (clampI (-2 ^ 31) (2 ^ 31 - 1) x)
/-- An exact integer clamped to the unsigned range of a word (R208). -/
def clampU (x : Int) : Word := ofInt 32 (clampI 0 (2 ^ 32 - 1) x)

def execIadd (d a b : Reg) (s : State) : Out := lane2 s d a b fun x y => x + y
def execIsub (d a b : Reg) (s : State) : Out := lane2 s d a b fun x y => x - y
def execImul (d a b : Reg) (s : State) : Out := lane2 s d a b fun x y => x * y
def execImulhi (d a b : Reg) (s : State) : Out :=
  lane2 s d a b fun x y => (x.signExtend 64 * y.signExtend 64).extractLsb' 32 32
def execImulhiu (d a b : Reg) (s : State) : Out :=
  lane2 s d a b fun x y => (x.zeroExtend 64 * y.zeroExtend 64).extractLsb' 32 32
def execImin (d a b : Reg) (s : State) : Out := lane2 s d a b minS
def execImax (d a b : Reg) (s : State) : Out := lane2 s d a b maxS
def execIminu (d a b : Reg) (s : State) : Out := lane2 s d a b minU
def execImaxu (d a b : Reg) (s : State) : Out := lane2 s d a b maxU
def execIabs (d a : Reg) (s : State) : Out := lane1 s d a fun x => ofInt 32 x.toInt.natAbs
def execIadds (d a b : Reg) (s : State) : Out := lane2 s d a b fun x y => clampS (x.toInt + y.toInt)
def execIsubs (d a b : Reg) (s : State) : Out := lane2 s d a b fun x y => clampS (x.toInt - y.toInt)
def execIaddsu (d a b : Reg) (s : State) : Out := lane2 s d a b fun x y => clampU ((x.toNat : Int) + y.toNat)
def execIsubsu (d a b : Reg) (s : State) : Out := lane2 s d a b fun x y => clampU ((x.toNat : Int) - y.toNat)
def execImad (d a b : Reg) (s : State) : Out := lane3 s d a b fun o x y => o + x * y

/-- Unsigned quotient; all ones for a zero divisor (R209). -/
def divU (x y : Word) : Word := if y = 0 then 0xFFFFFFFF#32 else BitVec.ofNat 32 (x.toNat / y.toNat)
def remU (x y : Word) : Word := if y = 0 then x else BitVec.ofNat 32 (x.toNat % y.toNat)
/-- Signed quotient truncated toward zero (R209); the one overflow wraps to the dividend. -/
def divS (x y : Word) : Word := if y = 0 then 0xFFFFFFFF#32 else ofInt 32 (x.toInt.tdiv y.toInt)
/-- Remainder with the sign of the dividend (R209). -/
def remS (x y : Word) : Word := if y = 0 then x else ofInt 32 (x.toInt.tmod y.toInt)

def execIdivu (d a b : Reg) (s : State) : Out := lane2 s d a b divU
def execIremu (d a b : Reg) (s : State) : Out := lane2 s d a b remU
def execIdiv (d a b : Reg) (s : State) : Out := lane2 s d a b divS
def execIrem (d a b : Reg) (s : State) : Out := lane2 s d a b remS

/-! ## Immediates (R188, R213, R214) -/

/-- k := SExt(imm11, 32). -/
def sext11 (k : BitVec 11) : Word := k.signExtend 32

def execIaddi (d a : Reg) (k : BitVec 11) (s : State) : Out := lane1 s d a fun x => x + sext11 k
def execAndi (d a : Reg) (k : BitVec 11) (s : State) : Out := lane1 s d a fun x => x &&& sext11 k
def execOri (d a : Reg) (k : BitVec 11) (s : State) : Out := lane1 s d a fun x => x ||| sext11 k
def execXori (d a : Reg) (k : BitVec 11) (s : State) : Out := lane1 s d a fun x => x ^^^ sext11 k
def execShli (d a : Reg) (k : BitVec 5) (s : State) : Out := lane1 s d a fun x => x <<< k.toNat
def execImuli (d a : Reg) (k : BitVec 11) (s : State) : Out := lane1 s d a fun x => x * sext11 k
def execCmpeqi (d a : Reg) (k : BitVec 11) (s : State) : Out :=
  writeMask s d fun g i => getReg g a.toNat i == sext11 k

def execMovi (d : Reg) (k : BitVec 18) (s : State) : Out := writeLanes s d fun _ _ => k.signExtend 32
def execMovh (d : Reg) (k : BitVec 18) (s : State) : Out :=
  writeLanes s d fun g i => (k.zeroExtend 32 <<< 14) ||| (getReg g d.toNat i &&& 0x3FFF#32)

def execMovpc (d : Reg) (k : BitVec 18) (s : State) : Out :=
  withGang s fun _ it => writePairs s d fun _ _ => packetOf it.pc + k.signExtend 64 * 4

end Sys2Proof.Machine
end

