-- ==== Sys2Proof/Machine/Control.lean ====
section
/-! DEFINITION. Branches, calls and control, majors 0x1C to 0x1E and 0x20 (R224 to R232), with REGANG and REGANG.WG (R152,
R153). The split stands after the instruction when a meaning begins. -/

namespace Sys2Proof.Machine

/-- The target of a B-format word: its packet address + 12 × offset18 (R188). -/
def branchTarget (pc : DWord) (off : BitVec 18) : DWord := packetOf pc + off.signExtend 64 * 12

/-- The whole split continues at a target, and a backward branch counts (R150). -/
def goCounted (s : State) (g : Gang) (it : Issue) (target : DWord) : Out :=
  .next (setGang s (modSplit g it.split fun _ sl => countBack it.pc { sl with pc := target }))

def execNop (s : State) : Out := withGang s fun _ _ => .next s

def execBra (off : BitVec 18) (s : State) : Out :=
  withGang s fun g it => goCounted s g it (branchTarget it.pc off)

/-- BRM (R225, R149, R151); a push that finds the spill area full raises ILLEGAL 0x10 (R147). -/
def execBrm (r : Reg) (off : BitVec 18) (s : State) : Out :=
  withGang s fun g it =>
    let m := execMask g it
    let taken := ofVisMask g (uniform g m r.toNat)
    let g' := modSplit g it.split fun k sl => branchSlice (nibble taken k) (branchTarget it.pc off) it.pc sl
    if 64 < spillTotal g' then raise s { cause := cILLEGAL, info := subInfo 0x10, addr := none, lanes := none }
    else .next (setGang s g')

def execCall (r : Reg) (off : BitVec 18) (s : State) : Out :=
  withGang s fun g it =>
    let h := (lanesOf (execMask g it)).foldl (fun h i => putPair h r.toNat i it.npc) g
    .next (setGang s (setPc h it.split (branchTarget it.pc off)))

/-- A control target that is not allowed raises MISALIGN 0x02 (R182). -/
def badTarget (s : State) (t : DWord) : Out :=
  raise s { cause := cMISALIGN, info := subInfo 2, addr := some t, lanes := none }

def execRet (a : Reg) (s : State) : Out :=
  withGang s fun g it =>
    let t := uniformPair g (execMask g it) a.toNat
    if validPc g t then goCounted s g it t else badTarget s t

def execJmpi (a : Reg) (s : State) : Out :=
  withGang s fun g it =>
    let t := uniformPair g (execMask g it) a.toNat
    if packetAddr g t then goCounted s g it t else badTarget s t

def execJoin (s : State) : Out :=
  withGang s fun g it => .next (setGang s (modSplit g it.split fun _ sl => joinSlice sl))

/-! ## REGANG (R152) -/

/-- Slices that can take part: not ended, not held by a handler. -/
def openSlices (g : Gang) : List Slice := g.slices.filter fun sl => !sl.ended && !sl.held

/-- A fault not yet delivered resumes with the split that its slices now form. -/
def pendingAt (split : Nat) (t : TrapState) : TrapState :=
  { t with pending := t.pending.map fun p => { p with record := { p.record with split } } }

/-- Every slice waits at REGANG of one PC: they form one split and continue. -/
def regangRelease (g : Gang) : Gang :=
  match openSlices g with
  | [] => g
  | sl :: r =>
    if (sl :: r).all fun x => x.wait == .regang && x.pc == sl.pc then
      noteStep (modSlices { g with trap := pendingAt sl.split g.trap } fun _ x =>
        if x.ended || x.held then x else { x with split := sl.split, wait := .none, pc := nextPc sl.pc 1 })
    else g

/-- A gang in which no split can issue waits (R152, R354). -/
def parkIfStuck (g : Gang) : Gang :=
  if (readySplits g).isEmpty && g.sched.wait == .none && !g.ended then
    { g with sched := { g.sched with wait := .noSplit, active := false } }
  else if !(readySplits g).isEmpty && g.sched.wait == .noSplit then { g with sched := { g.sched with wait := .none } }
  else g

/-- Some slice of the split arrives with a nonempty stack (R152). -/
def stackTrap (g : Gang) (split : Nat) : Option Trap :=
  if (splitSlices g split).any fun p => !p.2.stack.isEmpty then
    some { cause := cILLEGAL, info := subInfo 0x11, addr := none, lanes := none }
  else none

/-- The split's slices wait at the instruction. -/
def waitSlices (g : Gang) (it : Issue) (w : SliceWait) : Gang :=
  modSplit g it.split fun _ sl => { sl with wait := w, pc := it.pc }

def execRegang (s : State) : Out :=
  withGang s fun g it =>
    match stackTrap g it.split with
    | some t => raise s t
    | none => .next (setGang s (parkIfStuck (regangRelease (waitSlices g it .regang))))

/-! ## REGANG.WG (R153) -/

/-- A slice on its way to a new gang: its PC, its gang's uid and its number there. -/
structure Packed where
  pc : DWord
  uid : Nat
  k : Nat
  slice : Slice
deriving DecidableEq, Repr

def insertPc (p : DWord) : List DWord → List DWord
  | [] => [p]
  | q :: r => if p = q then q :: r else if p.toNat < q.toNat then p :: q :: r else q :: insertPc p r

/-- Place slices one by one: the first gang of `order` with room, at most eight to a gang. -/
def placeSlices (order : List Nat) : List Packed → List (Nat × List Packed) → List (Nat × List Packed)
  | [], acc => acc
  | p :: ps, acc =>
    match order.find? fun u => ((getK u acc).getD []).length < 8 with
    | none => placeSlices order ps acc
    | some u => placeSlices order ps (setK u (((getK u acc).getD []) ++ [p]) acc)

/-- Groups in ascending PC order; a group goes to its own gangs in ascending GANGID, then to others with room (log 20). -/
def packGroups (gangs : List Gang) (ps : List Packed) : List (Nat × List Packed) :=
  let pcs := ps.foldr (fun p l => insertPc p.pc l) []
  pcs.foldl (fun acc pc =>
    let grp := ps.filter fun p => p.pc == pc
    let own := (gangs.filter fun g => grp.any fun p => p.uid == g.uid).map (·.uid)
    placeSlices (own ++ (gangs.map (·.uid)).filter fun u => !own.contains u) grp acc) []

/-- Registers of slice k of a gang, moved to slice j. -/
def movedRegs (g : Gang) (k j : Nat) : List (Nat × Word) :=
  (g.regs.filter fun r => r.1 % 32 / 4 == k).map fun r => (r.1 / 32 * 32 + 4 * j + r.1 % 4, r.2)

def movedPoison (g : Gang) (k j : Nat) : List Nat :=
  (g.regPoison.filter fun r => r % 32 / 4 == k).map fun r => r / 32 * 32 + 4 * j + r % 4

/-- The gang with its packed slices; slices of one PC form one split. It keeps its own allocation (log 93). -/
def receive (gangs : List Gang) (g : Gang) (ps : List Packed) : Gang :=
  let src (p : Packed) : Gang := (gangs.find? fun h => h.uid == p.uid).getD g
  let idx := (List.range ps.length).zip ps
  let pcs := (ps.map (·.pc)).eraseDups
  { g with
    regs := idx.foldl (fun l q => (movedRegs (src q.2) q.2.k q.1).foldl (fun l r => setK r.1 r.2 l) l) [],
    regPoison := idx.flatMap fun q => movedPoison (src q.2) q.2.k q.1,
    launchMask := idx.foldl (fun m q => m ||| spread (nibble (src q.2).launchMask q.2.k) q.1) 0#32,
    live := idx.foldl (fun m q => m ||| spread (nibble (src q.2).live q.2.k) q.1) 0#32,
    slices := idx.map fun q => { q.2.slice with split := (pcs.findIdx (· == q.2.pc)), wait := .none, pc := nextPc q.2.pc 1 } }

/-- Every live slice of the workgroup waits at some REGANG.WG. -/
def wgArrived (gangs : List Gang) : Bool :=
  !gangs.isEmpty && gangs.all fun g => g.slices.all fun sl => sl.ended || sl.wait == .regangWg

/-- The gangs of a workgroup that have not ended. -/
def wgGangs (s : State) (cohort wg : Nat) : List Gang := s.gangs.filter fun g => g.cohort == cohort && g.wg == wg && !g.ended

/-- Compaction is a boundary of code 0: a span that splits since ended have left open ends and commits before it, and a queued error
is delivered there (R62, R153, R367); a transaction rolls back with status 3 (R79). Whether the gang stands at the boundary. -/
def closeOne (acc : State × Bool) (g0 : Gang) : State × Bool :=
  match gang? acc.1 g0.uid with
  | none => acc
  | some g =>
    if g.span.tx.isSome then (endTx acc.1 g.uid 3 0, false)
    else if !g.span.begun then acc
    else match commitSpan acc.1 g.uid 0 with
      | .done t => match deliverQueued t g.uid (((g.slices.find? fun sl => !sl.ended).map (·.split)).getD 0) with
        | some u => (u, false)
        | none => (t, acc.2)
      | .failed t => (t, false)
      | .wait => (acc.1, false)

/-- Compaction of a workgroup once all have arrived and every span has ended (R153). -/
def compact (s : State) (cohort wg : Nat) : State :=
  if !wgArrived (wgGangs s cohort wg) then s
  else
    let (s, ok) := (wgGangs s cohort wg).foldl closeOne (s, true)
    let gangs := wgGangs s cohort wg
    if !ok || !wgArrived gangs then s else
    let ps := gangs.flatMap fun g => (enumSlices g).filterMap fun p =>
      if p.2.ended then none else some ⟨p.2.pc, g.uid, p.1, p.2⟩
    let dest := packGroups gangs ps
    gangs.foldl (init := s) fun s g =>
      match getK g.uid dest with
      | none => gangEnd s g.uid
      | some l =>
        let g' := receive gangs g l
        let g' := noteStep (if g'.sched.wait == .noSplit then wake s g' else g')
        freshSpan (setGang s g') g.uid

/-- Workgroups in which every live slice has arrived, the last one by the end of a gang (R153, R156). -/
def compactAll (s : State) : State :=
  s.gangs.foldl (init := s) fun s g =>
    if !g.ended && g.slices.any fun sl => sl.wait == .regangWg then compact s g.cohort g.wg else s

def execRegangWg (s : State) : Out :=
  boundary 0 false s fun s g it =>
    match stackTrap g it.split with
    | some t => raise s t
    | none =>
      let s := setGang s (parkIfStuck (waitSlices g it .regangWg))
      doneBoundary (compact s g.cohort g.wg) it.gang

/-! ## EXIT, YIELD, TRAP, BRK, RTT (R229 to R232) -/

/-- The outputs of a fragment gang's lanes as they exit: v4 + c, c = 0 to 3, by visible lane (R158, R324). -/
def exitOutputs (s : State) (g : Gang) (m : LaneMask) : List (Nat × Nat × Word) :=
  if !fragmentGang s g then []
  else ((lanesOf m).filter fun i => laneOfVis g (visOf g i) == i).flatMap fun i =>
    (List.range 4).map fun c => (visOf g i, c, getReg g (4 + c) i)

def execExit (s : State) : Out :=
  boundary 0 false s fun s g it =>
    if engineOpen s it.gang then stay s it
    else
      let m := execMask g it
      let g' := { g with launchMask := g.launchMask &&& ~~~m, outputs := g.outputs ++ exitOutputs s g m }
      let s := setGang s (parkIfStuck (regangRelease (settle g')))
      if (g'.live &&& g'.launchMask) = 0#32 then .next (gangEnd s it.gang)
      else doneBoundary (compact s g.cohort g.wg) it.gang

/-- The other gangs of the partition that may issue. -/
def partners (s : State) (g : Gang) : List Nat :=
  (s.gangs.filter fun h => h.core == g.core && partOf h == partOf g && h.uid != g.uid && h.sched.active && canIssue h).map (·.uid)

/-- YIELD (R230): a path yields to a pending one, or the split gives up its issue slot to every other ready split and gang. -/
def execYield (s : State) : Out :=
  withGang s fun g it =>
    let stays := (splitSlices g it.split).find? fun p => !hasPending p.2.stack
    -- slices that rotated to another path divide from those that stay (R151), which give up the slot under their own number
    let g' := settle (modSplit g it.split fun _ sl => if hasPending sl.stack then rotate sl else sl)
    let rest := g.sched.yields.filter fun y => y.1 != it.split
    let yields := match stays with
      | some p =>
        let n := ((g'.slices[p.1]?).map (·.split)).getD it.split
        (n, (readySplits g').filter (· != n), partners s g) :: rest
      | none => rest
    .next (setGang s { g' with sched := { g'.sched with yields } })

/-- A software trap, raised after the instruction with n in TRAPINFO[13:0] (R231). -/
def softTrap (cause : BitVec 6) (n : BitVec 14) (s : State) : Out :=
  withGang s fun _ it => raiseAfter (stay s it) s { cause, info := n.zeroExtend 32, addr := none, lanes := none }

def execTrap (n : BitVec 14) (s : State) : Out := softTrap cTRAPI n s
def execBrk (n : BitVec 14) (s : State) : Out := softTrap cBREAK n s

/-- RTT (R232, R366). A fault that the gang has met and not yet received is delivered first (R185, R368). The handler's span ends
here, so that a replay is the first instruction of a new span (R258; log 21). Inside a transaction it ends the transaction as a
boundary instruction does (log 71). -/
def execRtt (s : State) : Out :=
  withGang s fun g it =>
    match g.trap.pending, g.trap.frame with
    | some p, _ => deliverPending (stay s it) (setGang s (standBefore g it)) it p
    | none, none => raise s { cause := cILLEGAL, info := subInfo 0x20, addr := none, lanes := none }
    | none, some f =>
      if !rttOK g f it.split then raise s { cause := cILLEGAL, info := subInfo 0x2A, addr := none, lanes := none }
      else if g.trap.pc != f.trapPc && !validPc g g.trap.pc then badTarget s g.trap.pc
      else if g.span.tx.isSome then .next (stopChain (endTx s it.gang 3 6))
      else
        match commitSpan (setGang s (standBefore g it)) it.gang 6 with
        | .wait => stay s it
        | .failed t => .next (stopChain t)
        | .done t =>
          let t := modGang t it.gang fun g => regroup (returnFrame g f)
          let t := freshSpan (releaseHeld t it.gang) it.gang
          match deliverQueued t it.gang (((gang? t it.gang).map fun g =>
              (((g.slices.zip f.slices).find? fun p => p.2.entered && !p.1.ended).map (·.1.split)).getD 0).getD 0) with
          | some u => .next (stopChain u)
          | none => .next t

end Sys2Proof.Machine
end

