-- ==== Sys2Proof/Machine/System.lean ====
section
/-! DEFINITION. CSR access, major 0x21 func 0x00 and 0x01 (R80, R157, R165, R204, R205, R233, R275, R350, R363). -/

namespace Sys2Proof.Machine

def gridOf (s : State) (g : Gang) : Option Grid := (cohortOf s g).bind fun c => grid? s c.grid

/-- x, y, z of a cohort number in a grid (R141). -/
def cohortXyz (gr : Grid) (n : Nat) : Nat × Nat × Nat :=
  (n % gr.dims.1, n / gr.dims.1 % gr.dims.2.1, n / (gr.dims.1 * gr.dims.2.1))

/-- WGID of the gang's workgroup: (n × cohort x + w, cohort y, cohort z) (R141). -/
def wgid (s : State) (g : Gang) : Nat × Nat × Nat :=
  match cohortOf s g, gridOf s g with
  | some c, some gr => let p := cohortXyz gr c.number; (gr.wgs * p.1 + g.wg, p.2.1, p.2.2)
  | _, _ => (0, 0, 0)

def gdims (s : State) (g : Gang) : Nat × Nat × Nat := ((gridOf s g).map (·.dims)).getD (0, 0, 0)
def wdims (s : State) (g : Gang) : Nat × Nat × Nat := ((gridOf s g).map (·.wgdim)).getD (0, 0, 0)

def ofBool32 (b : Bool) (k : Nat) : Nat := if b then 2 ^ k else 0

/-- SPANSTAT (R80). -/
def spanStat (s : State) (g : Gang) : Word :=
  let p := g.span
  BitVec.ofNat 32 (ofBool32 p.tx.isSome 31 + ofBool32 p.exact 30 + ofBool32 p.locate 29 + ofBool32 (s.favoured = some g.uid) 28
    + ofBool32 p.ovf 27 + ofBool32 p.pol 26 + p.restarts % 16 * 2 ^ 22 + p.lastEnd % 8 * 2 ^ 19 + p.count % 2 ^ 17)

/-- GANGCTL (R157). -/
def gangCtl (g : Gang) : Word :=
  BitVec.ofNat 32 (ofBool32 g.prot 7 + ofBool32 g.deadsrc 2 + ofBool32 g.freeze 1 + ofBool32 g.sstep 0)

def hasGrant (g : Gang) : Bool := 0 < g.grant.rows || !g.grant.panels.isEmpty || !g.grant.scales.isEmpty

/-- ACCLIMIT (R275). -/
def accLimit (g : Gang) : Word :=
  if hasGrant g then
    BitVec.ofNat 32 (g.grant.scales.length / 16 * 2 ^ 20 + g.grant.panels.length * 2 ^ 16 + (g.grant.base + g.grant.rows))
  else 0

def encMode (m : LeaseMode) : Nat := (encLease m).toNat

/-- TRAPNEST (R363). -/
def trapNest (t : TrapState) : Word :=
  BitVec.ofNat 32 (ofBool32 t.qovf 7 + t.queue.length % 8 * 2 ^ 4 + ofBool32 t.async 1 + ofBool32 t.nest 0)

def low32 (v : DWord) : Word := v.extractLsb' 0 32
def high32 (v : DWord) : Word := v.extractLsb' 32 32

/-- A CSR below 0x800 as lane i reads it, with the execute mask of the reader (R204). `g` is the gang as it stood before
the chain (R184). -/
def csrRead (s : State) (g : Gang) (m : LaneMask) (i csr : Nat) : Word :=
  let nat := BitVec.ofNat 32
  match csr with
  | 0x000 => nat (visOf g i)
  | 0x001 => nat (i / 4)
  | 0x002 => nat g.gangid
  | 0x003 => nat (wgid s g).1
  | 0x004 => nat (wgid s g).2.1
  | 0x005 => nat (wgid s g).2.2
  | 0x006 => nat (((cohortOf s g).map (·.number)).getD 0)
  | 0x007 => nat (((cohortOf s g).map (·.number)).getD 0 / 2 ^ 32 % 2 ^ 16)
  | 0x008 => nat (gdims s g).1
  | 0x009 => nat (gdims s g).2.1
  | 0x00A => nat (gdims s g).2.2
  | 0x00B => nat (wdims s g).1
  | 0x00C => nat (wdims s g).2.1
  | 0x00D => nat (wdims s g).2.2
  | 0x010 => nat g.core
  | 0x011 => nat (g.core / 4)
  | 0x012 => nat (g.core / 64)
  | 0x020 => nat (coreCycle s g.core)
  | 0x021 => g.cycleLatch
  | 0x100 => visMask g m
  | 0x101 => visMask g (g.live &&& g.launchMask)
  | 0x110 => g.fpctl
  | 0x111 => g.fpflags
  | 0x120 => nat (g.lease.meas * 2 ^ 16 + g.lease.decl)
  | 0x121 => nat (encMode g.lease.mode)
  | 0x130 => nat g.alloc
  | 0x140 => nat g.grant.base
  | 0x141 => accLimit g
  | 0x150 => spanStat s g
  | 0x160 => gangCtl g
  | 0x200 => low32 g.trap.base
  | 0x201 => g.trap.cause
  | 0x202 => low32 g.trap.pc
  | 0x203 => high32 g.trap.pc
  | 0x204 => low32 g.trap.addr
  | 0x205 => high32 g.trap.addr
  | 0x206 => g.trap.lanes
  | 0x207 => g.trap.info
  | 0x208 => trapNest g.trap
  | 0x209 => low32 g.trap.raceCsn
  | 0x20A => high32 g.trap.raceCsn
  | 0x20B => g.trap.raceSrc
  | 0x20C => high32 g.trap.base
  | _ => 0

/-- A privileged CSR (R205). -/
def privTrap (csr : BitVec 12) : Trap := { cause := cPRIV, info := csr.zeroExtend 32, addr := none, lanes := none }

def execSysrd (d : Reg) (csr : BitVec 12) (s : State) : Out :=
  if 0x800 ≤ csr.toNat then raise s (privTrap csr)
  else withGang s fun g it =>
    if csr = 0x111#12 ∧ engineOpen s it.gang = true then stay s it
    else
      let m := execMask g it
      .next (setGang s (putLanes g d.toNat m fun i => csrRead s it.pre m i csr.toNat))

/-- CYCLELO, which latches the high half (R205). -/
def execSysrdCyclelo (d : Reg) (s : State) : Out :=
  withGang s fun g it =>
    let n := coreCycle s g.core
    let h := putLanes g d.toNat (execMask g it) fun _ => BitVec.ofNat 32 n
    .next (setGang s { h with cycleLatch := BitVec.ofNat 32 (n / 2 ^ 32) })

def setLow (v : DWord) (w : Word) : DWord := high32 v ++ w
def setHigh (v : DWord) (w : Word) : DWord := w ++ low32 v

/-- The effect of SYSWR on the registers of R204 that are RW; every other address ignores the write (R7, R204). -/
def csrWrite (g : Gang) (csr : Nat) (v : Word) : Gang :=
  match csr with
  | 0x110 => { g with fpctl := v &&& 0x1F03#32 }
  | 0x200 => { g with trap := { g.trap with base := setLow g.trap.base v } }
  | 0x202 => { g with trap := { g.trap with pc := setLow g.trap.pc v } }
  | 0x203 => { g with trap := { g.trap with pc := setHigh g.trap.pc v } }
  | 0x20C => { g with trap := { g.trap with base := setHigh g.trap.base (v &&& 0x00FFFFFF#32) } }
  | _ => g

def execSyswr (d : Reg) (csr : BitVec 12) (s : State) : Out :=
  if 0x800 ≤ csr.toNat then raise s (privTrap csr)
  else withGang s fun g it => .next (setGang s (csrWrite g csr.toNat (uniform g (execMask g it) d.toNat)))

/-- FPFLAGS: a 1 clears; flags of members of the same chain stand (R167, R233, R239). -/
def execSyswrFpflags (d : Reg) (s : State) : Out :=
  withGang s fun g it =>
    if engineOpen s it.gang then stay s it
    else
      let w := uniform g (execMask g it) d.toNat
      .next (setGang s { g with fpflags := (it.pre.fpflags &&& ~~~w) ||| it.raised })

/-- GANGCTL (R157, R233). -/
def execSyswrGangctl (d : Reg) (s : State) : Out :=
  withGang s fun g it =>
    let w := uniform g (execMask g it) d.toNat
    .next (setGang s { g with sstep := w.getLsbD 0, freeze := w.getLsbD 1,
                              deadsrc := (it.pre.deadsrc && !w.getLsbD 2) || it.rdead })

end Sys2Proof.Machine
end

