-- ==== Sys2Proof/Machine/MemInstr.lean ====
section
/-! DEFINITION. Global loads and stores, LD.BYP, LD.ACQ, ST.REL and PREF, majors 0x24 to 0x2A and 0x2F (R253 to R261, R264),
with locate mode (R73, R74). -/

namespace Sys2Proof.Machine

/-! ## RACE (R73, R74) -/

/-- The targets that a tracked access of n bytes at pa touches. -/
def targetsIn (sp : Span) (pa n : Nat) : List Target :=
  sp.targets.filter fun t => match t.loc with
    | .word w => decide (w < pa + n) && decide (pa < w + 4)
    | .sample _ => false

/-- The target of least word address, and among its writers the one with the lowest CSN. -/
def reported : List Target → Option Target
  | [] => none
  | t :: ts => some (ts.foldl (fun a b => if b.csn < a.csn then b else a) t)

def wordPa : Loc → Nat
  | .word w => w
  | .sample p => p.slot

/-- The trap of a locate span at an access that touches a target: lane, virtual address and physical address of each passing
lane, with n bytes each. Of several targets that the lowest touching lane touches, that of the lowest address is reported
(R74; log 88). -/
def raceTrap (g : Gang) (n : Nat) (oks : List (Nat × DWord × Nat)) : Option Trap :=
  if !g.span.locate then none
  else
    let hits := oks.filter fun o => !(targetsIn g.span o.2.2 n).isEmpty
    match hits with
    | [] => none
    | (_, va, pa) :: _ =>
      let ts := targetsIn g.span pa n
      let w := ts.foldl (fun m t => min m (wordPa t.loc)) (wordPa ((ts.map (·.loc)).headD (.word 0)))
      match reported (ts.filter fun t => wordPa t.loc == w) with
      | none => none
      | some t =>
        let a : DWord := va + BitVec.ofNat 64 (max w pa - pa)
        some { cause := cRACE, info := subInfo t.sub, addr := some a, lanes := some (maskOf (hits.map (·.1))),
               race := some (t.csn, t.src) }

/-! ## Lanes of an access -/

/-- Lanes with their virtual addresses. -/
def laneVas (g : Gang) (m : LaneMask) (base : DWord) (off : Reg) (size : Nat) : List (Nat × DWord) :=
  (lanesOf m).map fun i => (i, globalEa g base off size i)

/-- Every lane checked (R22). -/
def checkLanes (s : State) (g : Gang) (need : Need) (size : Nat) (vas : List (Nat × DWord)) : List (Nat × LaneRes (DWord × Xlat)) :=
  vas.map fun v => (v.1, match laneCheck s g need size v.2 with
    | .ok x => .ok (v.2, x)
    | .fail c i a => .fail c i a
    | .own a => .own a)

/-- Poison of the page makes stores and atomics fail (R27); of the line, atomics (R376). -/
def failPoisoned (s : State) (lineToo : Bool) (rs : List (Nat × LaneRes (DWord × Xlat))) : List (Nat × LaneRes (DWord × Xlat)) :=
  rs.map fun r => (r.1, match r.2 with
    | .ok v => if v.2.poison || (lineToo && s.linePoison.contains (lineOf v.2.pa)) then .fail cPOISON (subInfo 0x30) v.1 else .ok v
    | x => x)

/-- Registers that an M-format word reads to address memory. -/
def addrRegs (m : MemOp) (isLocal : Bool) : List Nat :=
  (if isLocal then [2 * m.base.toNat] else [2 * m.base.toNat, 2 * m.base.toNat + 1])
    ++ (if m.off = 0#7 then [] else [m.off.toNat])

/-- After the passing lanes: lane deaths, then the trap of the failing lanes (R22, R258, R376). -/
def finishLanes (s0 s : State) (uid : Nat) (dead : List (Nat × DWord)) (sub : Nat) (fails : Option Failing) (base : DWord)
    (la : Nat) (reads writes : List Nat) : Out :=
  let s := consumePoison s uid (maskOf (dead.map (·.1))) sub (dead.head?.map (·.2))
  match endIfDead s uid with
  | none => withGang s0 fun _ it => stay s0 it
  | some s =>
    match fails with
    | none => .next s
    | some f => raiseOwed s0 s f.trap f.owed base la reads writes

/-- The reads that go to the home slice: those with a byte that neither the version nor a current L1 line serves. -/
def homeReads (s : State) (g : Gang) (n : Nat) (oks : List (DWord × Xlat)) : List Xlat :=
  (oks.filter fun o => (loadPlan s g o.2 n).home).map (·.2)

/-- The instruction's requests for lines (R53): it goes on once all have issued, and waits till then (R61). -/
def withLines (s : State) (g : Gang) (it : Issue) (xs : List Xlat) (k : State → Out) : Out :=
  match askLines s (.gang it.gang it.split) (regionOf s g) xs with
  | (s, true) => k s
  | (s, false) => stay s it

/-- An access to a line that an ACC.ST of the gang will write waits (R292). -/
def touchesStores (s : State) (uid : Nat) (pas : List Nat) : Bool := pas.any fun pa => (accStLines s uid).contains (lineOf pa)

/-! ## LD, LDS (R256) -/

def loadLane (uid : Nat) (d : Reg) (signed : Bool) (n : Nat) (acc : State × List (Nat × DWord)) (o : Nat × DWord × Xlat) :
    State × List (Nat × DWord) :=
  let (s, bs, p) := trackedLoad acc.1 uid o.2.2 n
  let s := setAD s o.2.2 false
  if p then (s, acc.2 ++ [(o.1, o.2.1)]) else (modGang s uid fun g => loadInto g d signed bs o.1, acc.2)

def trackedLoads (s : State) (m : MemOp) (n : Nat) (signed : Bool) : Out :=
  withGang s fun g it =>
    let mask := execMask g it
    let base := globalBase g it mask m.base m.x
    let rs := checkLanes s g .load n (laneVas g mask base m.off n)
    match laneOwn rs with
    | some va => awaitHandover s it (ctxOf s g) va
    | none =>
      let oks := laneOks rs
      if touchesStores s it.gang (oks.map fun o => o.2.2.pa) then stay s it
      else match raceTrap g n (oks.map fun o => (o.1, o.2.1, o.2.2.pa)) with
      | some t => raise s t
      | none =>
        let fresh := newReadLines g.span (oks.map fun o => (o.2.2.pa, n))
        if g.span.exact && decide (256 < g.span.reads.length + fresh.length) && !g.span.reads.isEmpty then endBefore 5 s
        else withLines s g it (homeReads s g n (oks.map (·.2))) fun s =>
          let (s', dead) := oks.foldl (loadLane it.gang m.d signed n) (s, [])
          finishLanes s s' it.gang dead 0x30 (laneFails rs) base m.la.toNat (addrRegs m false) (dataRegs m.d n)

def execLd (m : MemOp) (s : State) : Out := trackedLoads s m (sizeBHWD m.sz) false
def execLds (m : MemOp) (s : State) : Out := trackedLoads s m (sizeLds m.sz) true

/-! ## ST, STQ (R256) -/

/-- Version lines that a store would need anew. -/
def newVersionLines (sp : Span) (pas : List Nat) : List Nat :=
  (pas.map lineOf).eraseDups.filter fun l => !(verLines sp).contains l

/-- The new version lines do not all fit in their slices (R54). -/
def sliceFull (s : State) (lines : List Nat) : Bool :=
  lines.any fun l =>
    let here := lines.filter fun k => sliceOf (lineBase k) == sliceOf (lineBase l)
    decide (Config.sliceLines < sliceVersions s (lineBase l) + here.length)

def spanEmpty (sp : Span) : Bool :=
  sp.ver.isEmpty && sp.reads.isEmpty && sp.pins.isEmpty && sp.moves.isEmpty && decide (sp.count ≤ 1)

/-- What a store meets before it may write: a span end of code 4, a wait for a free line or for its requests, or nothing, its
requests for version lines having issued (R54, R61, R62). -/
inductive StoreGate where
  | full
  | wait (s : State)
  | go (s : State)

def storeGate (s : State) (g : Gang) (it : Issue) (pas : List Nat) : StoreGate :=
  let fresh := newVersionLines g.span pas
  if Config.spanLines < (verLines g.span).length + fresh.length then .full
  else if sliceFull s fresh then if spanEmpty g.span && g.span.tx.isNone then .wait s else .full
  else match askVersions s (.gang it.gang it.split) (regionOf s g) fresh with
    | (s, true) => .go s
    | (s, false) => .wait s

/-- A store to these addresses goes on when its version lines are there. -/
def withVersions (s : State) (g : Gang) (it : Issue) (pas : List Nat) (k : State → Out) : Out :=
  match storeGate s g it pas with
  | .full => endBefore 4 s
  | .wait s => stay s it
  | .go s => k s

def storeLane (uid : Nat) (d : Reg) (n : Nat) (s : State) (o : Nat × DWord × Xlat) : State :=
  match gang? s uid with
  | none => s
  | some g => setAD (trackedStore s uid o.2.2 (storeBytes g d n o.1)) o.2.2 true

def trackedStores (s : State) (m : MemOp) (n : Nat) : Out :=
  withGang s fun g it =>
    let mask := execMask g it
    let base := globalBase g it mask m.base m.x
    let rs := failPoisoned s false (checkLanes s g .store n (laneVas g mask base m.off n))
    match laneOwn rs with
    | some va => awaitHandover s it (ctxOf s g) va
    | none =>
      let oks := laneOks rs
      if touchesStores s it.gang (oks.map fun o => o.2.2.pa) then stay s it
      else match raceTrap g n (oks.map fun o => (o.1, o.2.1, o.2.2.pa)) with
      | some t => raise s t
      | none => withVersions s g it (oks.map fun o => o.2.2.pa) fun s =>
          let s' := oks.foldl (storeLane it.gang m.d n) s
          finishLanes s s' it.gang [] 0x30 (laneFails rs) base m.la.toNat (addrRegs m false ++ dataRegs m.d n) []

def execSt (m : MemOp) (s : State) : Out := trackedStores s m (sizeBHWD m.sz)
def execStq (m : MemOp) (s : State) : Out := trackedStores s m 16

/-! ## Reads and writes at the home slice (R259 to R261) -/

/-- One lane's committed bytes at the home slice, into d, the L1 neither read nor changed; the stamps found are kept (R44, R70, R92).
The home slice may have performed the read of an earlier span's untracked read ahead of time (R95). -/
def homeLane (uid : Nat) (d : Reg) (n : Nat) (acc : State × List (Nat × DWord) × Nat) (o : Nat × DWord × Xlat) :
    State × List (Nat × DWord) × Nat :=
  match gang? acc.1 uid with
  | none => acc
  | some g =>
    let s := setAD acc.1 o.2.2 false
    let h := untrackedHome s g o.2.2 n
    let s := noteSeen s uid [lineOf o.2.2.pa] h.time
    let st := max acc.2.2 h.stamp
    if h.poison then (s, acc.2.1 ++ [(o.1, o.2.1)], st) else (modGang s uid fun g => loadInto g d false h.bytes o.1, acc.2.1, st)

def execLdByp (m : MemOp) (s : State) : Out :=
  withGang s fun g it =>
    let n := sizeByp m.sz
    let mask := execMask g it
    let base := globalBase g it mask m.base m.x
    let rs := checkLanes s g .load n (laneVas g mask base m.off n)
    match laneOwn rs with
    | some va => awaitHandover s it (ctxOf s g) va
    | none =>
      let oks := laneOks rs
      withLines s g it (oks.map (·.2.2)) fun s =>
        let (s', dead, st) := oks.foldl (homeLane it.gang m.d n) (s, [], 0)
        finishLanes s (raisePending s' it.gang st) it.gang dead 0x30 (laneFails rs) base m.la.toNat (addrRegs m false)
          (dataRegs m.d n)

/-- The state after a boundary instruction's lanes: the next span begins (R63). -/
def freshOut (o : Out) (uid : Nat) : Out :=
  match o with
  | .next s => .next (freshSpan s uid)
  | o => o

def execLdAcq (sc : Scope) (m : MemOp) (s : State) : Out :=
  boundary 0 false s fun s g it =>
    let n := sizeBHWD m.sz
    let mask := execMask g it
    let base := globalBase g it mask m.base m.x
    let rs := checkLanes s g .loadNormal n (laneVas g mask base m.off n)
    match laneOwn rs with
    | some va => awaitHandover s it (ctxOf s g) va
    | none =>
      let oks := laneOks rs
      withLines s g it (oks.map (·.2.2)) fun s =>
        let (s', dead, st) := oks.foldl (homeLane it.gang m.d n) (s, [], 0)
        let s' := if oks.isEmpty then s' else acquireEvent s' it.gang sc st
        finishLanes s (freshSpan s' it.gang) it.gang dead 0x30 (laneFails rs) base 0 (addrRegs m false) (dataRegs m.d n)

/-- One lane's bytes written at the home slice with a release stamp (R70, R261). -/
def relLane (uid : Nat) (d : Reg) (n : Nat) (s : State) (o : Nat × DWord × Xlat) : State :=
  match gang? s uid with
  | none => s
  | some g =>
    let s := setAD s o.2.2 true
    let s := setStamp s o.2.2.pa n g.floor
    homeWrite s (some g.core) (some uid) o.2.2 (storeBytes g d n o.1) g.floor (gangSrc g)

/-- A release event: the release floor takes the floor (R92). -/
def releaseEvent (s : State) (uid : Nat) : State := modGang s uid fun g => { g with relFloor := g.floor }

/-- The release event of a fence: every later write of the gang is a release (R91). -/
def fenceRelease (s : State) (uid : Nat) : State := modGang s uid fun g => { g with relFloor := g.floor, fenceFloor := g.floor }

/-- The bytes that lanes of n bytes cover. -/
def coveredBytes (n : Nat) (oks : List (Nat × DWord × Xlat)) : List Nat :=
  (oks.flatMap fun o => (List.range n).map fun i => o.2.2.pa + i).eraseDups

/-- The lines that the lanes write, with their leaves: one request each at the home slice (R53). -/
def coveredLines (oks : List (Nat × DWord × Xlat)) : FormBytes := oks.map fun o => (o.2.2.pa, o.2.2.pte)

def execStRel (_sc : Scope) (m : MemOp) (s : State) : Out :=
  boundary 0 false s fun s g it =>
    let n := sizeBHWD m.sz
    let mask := execMask g it
    let base := globalBase g it mask m.base m.x
    let rs := failPoisoned s false (checkLanes s g .store n (laneVas g mask base m.off n))
    match laneOwn rs with
    | some va => awaitHandover s it (ctxOf s g) va
    | none =>
      let oks := laneOks rs
      if favourBlocks s (some it.gang) (coveredBytes n oks) [] then stay s it
      else
        let s' := clearWhole (oks.foldl (relLane it.gang m.d n) (storeLines s (regionOf s g) (coveredLines oks))) (coveredBytes n oks)
        let s' := if oks.isEmpty then s' else releaseEvent s' it.gang
        finishLanes s (freshSpan s' it.gang) it.gang [] 0x30 (laneFails rs) base 0 (addrRegs m false ++ dataRegs m.d n) []

/-! ## PREF (R264) -/

/-- A lane's line, when its access passes every check on a normal page and the span has not written the line. -/
def prefLane (s : State) (g : Gang) (va : DWord) : Option Xlat :=
  match checkAccess s (ctxOf s g) (regionOf s g) .loadNormal va with
  | .ok x => if x.poison || (verLines g.span).contains (lineOf x.pa) then none else some x
  | _ => none

/-- A prefetch: the lines that `ask` names are requested at their home slices, whose LLC takes them (R53, R55, R264); then
`fill` acts on each line. -/
def prefetch (s : State) (m : MemOp) (ask : State → Gang → Xlat → Bool) (fill : State → Nat → Xlat → State) : Out :=
  withGang s fun g it =>
    let mask := execMask g it
    let base := globalBase g it mask m.base m.x
    let xs := (laneVas g mask base m.off 128).filterMap fun v => prefLane s g v.2
    withLines s g it (xs.filter (ask s g)) fun s => .next (xs.foldl (fun s x => fill (setAD s x false) it.gang x) s)

/-- The line is not in the L1, or may not be (R39). -/
def missesL1 (s : State) (g : Gang) (x : Xlat) : Bool := pteCL x.pte != 0 || (lineHit (coreOf s g.core).l1 x g.acq).isNone

/-- The L1 takes the line when CL = 00 (R39, R264); the touch counts in the measurement window (R351). -/
def fillL1 (s : State) (uid : Nat) (x : Xlat) : State :=
  match gang? s uid with
  | none => s
  | some g =>
    if pteCL x.pte ≠ 0 then s
    else
      let s := touchWindow s uid (lineOf x.pa)
      if !missesL1 s g x then s
      else
        let s := lostLocality s g.core uid (lineOf x.pa)
        if s.linePoison.contains (lineOf x.pa) then s else l1Fill s g.core uid x false

def execPrefL1 (m : MemOp) (s : State) : Out := prefetch s m missesL1 fillL1
def execPrefLlc (m : MemOp) (s : State) : Out := prefetch s m (fun _ _ _ => true) fun s _ _ => s

end Sys2Proof.Machine
end

