-- ==== Sys2Proof/Machine/LocalInstr.lean ====
section
/-! DEFINITION. Local memory (R31, R46 to R50): its checks, the range scoreboard's wait, LDL and STL, majors 0x2C and 0x2D
(R257). -/

namespace Sys2Proof.Machine

/-- The workgroup of the gang's cohort that a local address names, when the address is in the allocation (R31). -/
def localOk (s : State) (cohort : Nat) (a : LocalAddr) : Bool :=
  match cohort? s cohort with
  | none => false
  | some c => a.high == 0 && decide (a.wg < c.wgs.length) && decide (a.off < c.localBytes)

def localMem (s : State) (cohort wg : Nat) : List (Nat × Byte) :=
  ((cohort? s cohort).bind fun c => workgroup? c wg).elim [] (·.mem)

/-- A byte of local memory that nothing has written since placement reads 0 (log 2). -/
def localByte (s : State) (cohort wg off : Nat) : Byte := readK 0#8 off (localMem s cohort wg)

def localBytes (s : State) (cohort wg off n : Nat) : List Byte := (List.range n).map fun i => localByte s cohort wg (off + i)

def localPoisoned (s : State) (cohort wg off n : Nat) : Bool :=
  (((cohort? s cohort).bind fun c => workgroup? c wg).elim [] (·.poison)).any fun w =>
    decide (w < off + n) && decide (off < w + 4)

/-- Write bytes of local memory; a word written whole loses its poison (R377). -/
def localWrite (s : State) (cohort wg off : Nat) (bs : List Byte) : State :=
  modWg s cohort wg fun w =>
    { w with mem := ((List.range bs.length).zip bs).foldl (fun m p => putK 0#8 (off + p.1) p.2 m) w.mem,
             poison := w.poison.filter fun x => !(decide (off ≤ x) && decide (x + 4 ≤ off + bs.length)) }

/-- Bytes of local memory that one instruction or chunk writes, by workgroup and offset; a word that they write whole loses its
poison (R377). -/
def localPuts (s : State) (cohort : Nat) (ws : List (Nat × Nat × Byte)) : State :=
  let whole (wg x : Nat) : Bool := (List.range 4).all fun k => ws.any fun w => w.1 == wg && w.2.1 == x + k
  let s := ws.foldl (fun s w => localWrite s cohort w.1 w.2.1 [w.2.2]) s
  (ws.map (·.1)).eraseDups.foldl (fun s q => modWg s cohort q fun w => { w with poison := w.poison.filter fun x => !whole q x }) s

/-! ## The range scoreboard (R49, R50) -/

/-- Entries that overlap bytes of a workgroup. -/
def overlaps (s : State) (cohort wg lo hi : Nat) : List ScoreEntry :=
  match cohort? s cohort with
  | none => []
  | some c => (basinOf s c.basin).score.filter fun e =>
      e.cohort == cohort && e.wg == wg && decide (e.lo < hi) && decide (lo < e.hi)

/-- Drop rows kept for .REUSE that an access would wait for (R288). -/
def dropKept (s : State) (cohort : Nat) (es : List ScoreEntry) : State :=
  match cohort? s cohort with
  | none => s
  | some c =>
    let b := basinOf s c.basin
    let s := setBasin s c.basin { b with score := b.score.filter fun e => !(e.kept && es.contains e) }
    es.foldl (init := s) fun s e => if e.kept then modCore s e.core fun c => { c with reuse := none } else s

/-- Entries of a command or engine instruction enter the scoreboard of 64; kept rows give way (R49, R288). None when they do
not fit. -/
def enterRanges (s : State) (basin : Nat) (es : List ScoreEntry) : Option State :=
  let b := basinOf s basin
  if b.score.length + es.length ≤ 64 then some (setBasin s basin { b with score := b.score ++ es })
  else
    let kept := b.score.filter (·.kept)
    let rest := b.score.filter fun e => !e.kept
    if rest.length + es.length ≤ 64 then
      let s := kept.foldl (fun s e => modCore s e.core fun c => { c with reuse := none }) s
      some (setBasin s basin { b with score := rest ++ es })
    else none

/-- The entries of a command retire (R50). -/
def retireRanges (s : State) (basin owner : Nat) : State :=
  let b := basinOf s basin
  setBasin s basin { b with score := b.score.filter fun e => e.owner != owner }

/-- The local accesses of an instruction meet the scoreboard: none when they must wait (R50). -/
def scoreWait (s : State) (cohort : Nat) (ranges : List (Nat × Nat × Nat)) : Option State :=
  let es := ranges.flatMap fun r => overlaps s cohort r.1 r.2.1 r.2.2
  if es.isEmpty then some s else if es.all (·.kept) then some (dropKept s cohort es) else none

/-! ## Lanes -/

/-- Check one lane's local access: alignment, then R31. -/
def localCheck (s : State) (g : Gang) (n : Nat) (a : Word) : LaneRes LocalAddr :=
  if a.toNat % n ≠ 0 then .fail cMISALIGN (subInfo 1) (a.zeroExtend 64)
  else if localOk s g.cohort (localAddr a) then .ok (localAddr a)
  else .fail cPERM (subInfo 0x16) (a.zeroExtend 64)

def localLanes (s : State) (g : Gang) (m : LaneMask) (base : DWord) (off : Reg) (n : Nat) : List (Nat × LaneRes LocalAddr) :=
  (lanesOf m).map fun i => (i, localCheck s g n (localEa g base off n i))

def localRanges (n : Nat) (oks : List (Nat × LocalAddr)) : List (Nat × Nat × Nat) :=
  oks.map fun o => (o.2.wg, o.2.off, o.2.off + n)

/-- The local address as a program forms it. -/
def LocalAddr.word (a : LocalAddr) : DWord := BitVec.ofNat 64 (a.high * 2 ^ 21 + a.wg * 2 ^ 19 + a.off)

def ldlLane (uid cohort : Nat) (d : Reg) (n : Nat) (acc : State × List (Nat × DWord)) (o : Nat × LocalAddr) :
    State × List (Nat × DWord) :=
  if localPoisoned acc.1 cohort o.2.wg o.2.off n then (acc.1, acc.2 ++ [(o.1, o.2.word)])
  else (modGang acc.1 uid fun g => loadInto g d false (localBytes acc.1 cohort o.2.wg o.2.off n) o.1, acc.2)

def execLdl (m : MemOp) (s : State) : Out :=
  withGang s fun g it =>
    let n := sizeBHWD m.sz
    let mask := execMask g it
    let base := localBase g it mask m.base m.x
    let rs := localLanes s g mask base m.off n
    let oks := laneOks rs
    match scoreWait s g.cohort (localRanges n oks) with
    | none => stay s it
    | some s1 =>
      let (s', dead) := oks.foldl (ldlLane it.gang g.cohort m.d n) (s1, [])
      finishLanes s s' it.gang dead 0x32 (laneFails rs) base m.la.toNat (addrRegs m true) (dataRegs m.d n)

/-- One lane's local store; after a fence with release semantics it is a release, whose stamp it stores (R70, R91; log 83). -/
def stlLane (g : Gang) (d : Reg) (n : Nat) (s : State) (o : Nat × LocalAddr) : State :=
  let s := localWrite s g.cohort o.2.wg o.2.off (storeBytes g d n o.1)
  if g.fenceFloor = 0 then s
  else modWg s g.cohort o.2.wg fun w =>
    { w with stamps := (List.range n).foldl (fun t i => putK 0 (o.2.off + i) g.fenceFloor t) w.stamps }

def execStl (m : MemOp) (s : State) : Out :=
  withGang s fun g it =>
    let n := sizeBHWD m.sz
    let mask := execMask g it
    let base := localBase g it mask m.base m.x
    let rs := localLanes s g mask base m.off n
    let oks := laneOks rs
    match scoreWait s g.cohort (localRanges n oks) with
    | none => stay s it
    | some s1 =>
      let s' := oks.foldl (stlLane g m.d n) s1
      finishLanes s s' it.gang [] 0x32 (laneFails rs) base m.la.toNat (addrRegs m true ++ dataRegs m.d n) []

end Sys2Proof.Machine
end

