-- ==== Sys2Proof/Machine/Bits.lean ====
section
/-! DEFINITION. Bits and shifts, major 0x02 (R210, R211), and 64-bit integers, major 0x03 (R212). -/

namespace Sys2Proof.Machine

def execAnd (d a b : Reg) (s : State) : Out := lane2 s d a b fun x y => x &&& y
def execOr (d a b : Reg) (s : State) : Out := lane2 s d a b fun x y => x ||| y
def execXor (d a b : Reg) (s : State) : Out := lane2 s d a b fun x y => x ^^^ y
def execAndn (d a b : Reg) (s : State) : Out := lane2 s d a b fun x y => x &&& ~~~y
def execNot (d a : Reg) (s : State) : Out := lane1 s d a fun x => ~~~x

/-- A logical left shift by an unsigned amount: 0 from the width up (R210). -/
def shlBy {w : Nat} (x : BitVec w) (n : Nat) : BitVec w := if w ≤ n then 0 else x <<< n
def shrBy {w : Nat} (x : BitVec w) (n : Nat) : BitVec w := if w ≤ n then 0 else x >>> n
/-- An arithmetic right shift: the sign fills from the width up (R210). -/
def sarBy {w : Nat} (x : BitVec w) (n : Nat) : BitVec w := x.sshiftRight (min n w)

def execShl (d a b : Reg) (s : State) : Out := lane2 s d a b fun x y => shlBy x y.toNat
def execShr (d a b : Reg) (s : State) : Out := lane2 s d a b fun x y => shrBy x y.toNat
def execSar (d a b : Reg) (s : State) : Out := lane2 s d a b fun x y => sarBy x y.toNat
def execRol (d a b : Reg) (s : State) : Out := lane2 s d a b fun x y => x.rotateLeft (y.toNat % 32)

def popcount (x : Word) : Nat := (lanesOf x).length
/-- Leading 0 bits, 32 for 0 (R210). -/
def leadingZeros (x : Word) : Nat := if x = 0 then 32 else 31 - Nat.log2 x.toNat
def bitReverse (x : Word) : Word := maskOf ((lanesOf x).map fun j => 31 - j)

def execPopc (d a : Reg) (s : State) : Out := lane1 s d a fun x => BitVec.ofNat 32 (popcount x)
def execClz (d a : Reg) (s : State) : Out := lane1 s d a fun x => BitVec.ofNat 32 (leadingZeros x)
def execBrev (d a : Reg) (s : State) : Out := lane1 s d a bitReverse

/-- Position and length of a bitfield (R211). -/
def bfPos (b : Word) : Nat := b.toNat % 32
def bfLen (b : Word) : Nat := min (b.toNat / 256 % 64) 32
/-- f := (ZExt(a, 64) >>> p) and (2^n − 1), below 2^32 as n ≤ 32. -/
def bfField (a b : Word) : Nat := a.toNat / 2 ^ bfPos b % 2 ^ bfLen b
/-- BFES: the field sign-extended from its length; 0 for length 0. -/
def bfSigned (a b : Word) : Word :=
  if bfLen b = 0 then 0 else ofInt 32 (BitVec.ofNat (bfLen b) (bfField a b)).toInt
/-- BFI: the field's bits of `o` replaced. -/
def bfInsert (o a b : Word) : Word :=
  let m : Word := BitVec.ofNat 32 ((2 ^ bfLen b - 1) * 2 ^ bfPos b)
  (o &&& ~~~m) ||| ((a <<< bfPos b) &&& m)

def execBfe (d a b : Reg) (s : State) : Out := lane2 s d a b fun x y => BitVec.ofNat 32 (bfField x y)
def execBfes (d a b : Reg) (s : State) : Out := lane2 s d a b bfSigned
def execBfi (d a b : Reg) (s : State) : Out := lane3 s d a b bfInsert

/-! ## 64-bit integer (R212) -/

def execIadd64 (d a b : Reg) (s : State) : Out := pair2 s d a b fun x y => x + y
def execIsub64 (d a b : Reg) (s : State) : Out := pair2 s d a b fun x y => x - y
def execImul64 (d a b : Reg) (s : State) : Out := pair2 s d a b fun x y => x * y
def execShl64 (d a b : Reg) (s : State) : Out := pairS s d a b fun x y => shlBy x y.toNat
def execShr64 (d a b : Reg) (s : State) : Out := pairS s d a b fun x y => shrBy x y.toNat
def execSar64 (d a b : Reg) (s : State) : Out := pairS s d a b fun x y => sarBy x y.toNat
def execImin64 (d a b : Reg) (s : State) : Out := pair2 s d a b minS
def execImax64 (d a b : Reg) (s : State) : Out := pair2 s d a b maxS
def execIminu64 (d a b : Reg) (s : State) : Out := pair2 s d a b minU
def execImaxu64 (d a b : Reg) (s : State) : Out := pair2 s d a b maxU
def execImulw (d a b : Reg) (s : State) : Out := pairW s d a b fun x y => x.signExtend 64 * y.signExtend 64
def execImulwu (d a b : Reg) (s : State) : Out := pairW s d a b fun x y => x.zeroExtend 64 * y.zeroExtend 64

end Sys2Proof.Machine
end

