-- ==== Sys2Proof/Machine/Float.lean ====
section
/-! DEFINITION. Floating-point values and arithmetic (R160 to R164, R172, R240 to R249): operands as exact dyadic numbers,
one rounding per result, specials in the order of R172. -/

namespace Sys2Proof.Machine

/-- Flags in the bit order of FPFLAGS (R165). -/
abbrev FlagSet := BitVec 8

def fNX : FlagSet := 0x01#8
def fUF : FlagSet := 0x02#8
def fOF : FlagSet := 0x04#8
def fDZ : FlagSet := 0x08#8
def fNV : FlagSet := 0x10#8
def fIOV : FlagSet := 0x20#8
def fAX : FlagSet := 0x40#8
def fAO : FlagSet := 0x80#8

/-- The four rounding modes (R163). -/
inductive RMode where
  | rn | rz | rp | rm
deriving DecidableEq, Repr

/-- FPCTL.RMODE (R165). -/
def rmodeOf (b : BitVec 2) : RMode :=
  match b.toNat with
  | 1 => .rz | 2 => .rp | 3 => .rm | _ => .rn

/-- A scalar format of R160. `inf` is false for E4M3 alone. -/
structure Fmt where
  ebits : Nat
  fbits : Nat
  bias : Nat
  inf : Bool
deriving DecidableEq, Repr

def fp64 : Fmt := ⟨11, 52, 1023, true⟩
def fp32 : Fmt := ⟨8, 23, 127, true⟩
def fp16 : Fmt := ⟨5, 10, 15, true⟩
def bf16 : Fmt := ⟨8, 7, 127, true⟩
def e4m3 : Fmt := ⟨4, 3, 7, false⟩
def e5m2 : Fmt := ⟨5, 2, 15, true⟩

def Fmt.width (f : Fmt) : Nat := 1 + f.ebits + f.fbits
def Fmt.signBit (f : Fmt) : Nat := 2 ^ (f.ebits + f.fbits)
def Fmt.emin (f : Fmt) : Int := 1 - (f.bias : Int)
/-- Canonical NaN (R160). -/
def Fmt.nan (f : Fmt) : Nat :=
  if f.inf then (2 ^ f.ebits - 1) * 2 ^ f.fbits + 2 ^ (f.fbits - 1) else 2 ^ (f.ebits + f.fbits) - 1
def Fmt.infBits (f : Fmt) : Nat := (2 ^ f.ebits - 1) * 2 ^ f.fbits
/-- The largest finite value's bits. -/
def Fmt.maxBits (f : Fmt) : Nat := if f.inf then f.infBits - 1 else f.nan - 1

/-- A value: NaN, infinity, or (−1)^neg × m × 2^e. -/
inductive FVal where
  | nan (sig : Bool)
  | inf (neg : Bool)
  | fin (neg : Bool) (m : Nat) (e : Int)
deriving DecidableEq, Repr

/-- The value of a bit pattern (R160). E4M3's NaN is quiet (R161). -/
def fdec (f : Fmt) (b : Nat) : FVal :=
  let neg := b / f.signBit % 2 == 1
  let ex := b / 2 ^ f.fbits % 2 ^ f.ebits
  let fr := b % 2 ^ f.fbits
  if f.inf && ex == 2 ^ f.ebits - 1 then
    if fr = 0 then .inf neg else .nan (fr < 2 ^ (f.fbits - 1))
  else if !f.inf && b % f.signBit == f.nan then .nan false
  else if ex = 0 then .fin neg fr (f.emin - f.fbits)
  else .fin neg (2 ^ f.fbits + fr) (f.emin - f.fbits + ((ex : Int) - 1))

def signed (f : Fmt) (neg : Bool) (b : Nat) : Nat := if neg then f.signBit + b else b

/-- Round up in magnitude, from the quotient's last bit and what was cut off. -/
def roundsUp (mode : RMode) (neg : Bool) (odd : Bool) (rem half : Nat) (sticky : Bool) : Bool :=
  match mode with
  | .rn => half < rem || (rem == half && half != 0 && (sticky || odd))
  | .rz => false
  | .rp => !neg && (rem != 0 || sticky)
  | .rm => neg && (rem != 0 || sticky)

/-- (m + ε) × 2^e as an integer multiple of 2^q, rounded; the second part says whether anything was cut off. -/
def roundAt (mode : RMode) (neg : Bool) (m : Nat) (e q : Int) (sticky : Bool) : Nat × Bool :=
  if q ≤ e then (m * 2 ^ (e - q).toNat, sticky)
  else
    let sh := (q - e).toNat
    let n := m / 2 ^ sh
    let rem := m % 2 ^ sh
    (if roundsUp mode neg (n % 2 == 1) rem (2 ^ (sh - 1)) sticky then n + 1 else n, rem != 0 || sticky)

/-- The overflow value of R164. -/
def overflowBits (f : Fmt) (mode : RMode) (neg sat : Bool) : Nat :=
  let toInf := match mode with
    | .rn => true | .rz => false | .rp => !neg | .rm => neg
  if sat || !toInf then signed f neg f.maxBits
  else if f.inf then signed f neg f.infBits else f.nan

/-- The magnitude n × 2^q, n below 2^(fbits+2), as exponent and fraction bits. -/
def packBits (f : Fmt) (n : Nat) (q : Int) : Nat :=
  let (n, q) := if 2 ^ (f.fbits + 1) ≤ n then (n / 2, q + 1) else (n, q)
  if n < 2 ^ f.fbits then n else (q + f.fbits + f.bias).toNat * 2 ^ f.fbits + (n - 2 ^ f.fbits)

/-- One rounding of (−1)^neg × (m + ε) × 2^e, with 0 < ε < 1 when `sticky` (R163, R164). Callers that set `sticky` give
at least fbits + 3 bits of m. -/
def froundSat (f : Fmt) (mode : RMode) (sat neg : Bool) (m : Nat) (e : Int) (sticky : Bool) : Nat × FlagSet :=
  if m = 0 ∧ sticky = false then (signed f neg 0, 0)
  else
    let top : Int := (Nat.log2 m : Int) + e
    let qu : Int := top - f.fbits
    let qmin : Int := f.emin - f.fbits
    let q := if qu < qmin then qmin else qu
    let (n, inex) := roundAt mode neg m e q sticky
    let (nu, _) := roundAt mode neg m e qu sticky
    let tiny : Bool := qu < qmin && (qu + 1 < qmin || nu < 2 ^ (f.fbits + 1))
    let b := packBits f n q
    if f.maxBits < b then (overflowBits f mode neg sat, fOF ||| fNX)
    else (signed f neg b, (if inex then fNX else 0) ||| (if tiny && inex then fUF else 0))

def fround (f : Fmt) (mode : RMode) (neg : Bool) (m : Nat) (e : Int) (sticky : Bool) : Nat × FlagSet :=
  froundSat f mode false neg m e sticky

/-- Round a signed exact integer times 2^e. -/
def froundInt (f : Fmt) (mode : RMode) (x : Int) (e : Int) : Nat × FlagSet := fround f mode (x < 0) x.natAbs e false

/-! ## Sums of products (R172, R240, R243, R287, R291) -/

def FVal.isNan : FVal → Bool
  | .nan _ => true | _ => false
def FVal.isSnan : FVal → Bool
  | .nan s => s | _ => false
def FVal.isInf : FVal → Bool
  | .inf _ => true | _ => false
def FVal.isZero : FVal → Bool
  | .fin _ m _ => m == 0 | _ => false
def FVal.neg? : FVal → Bool
  | .nan _ => false | .inf n => n | .fin n _ _ => n
def FVal.negate : FVal → FVal
  | .nan s => .nan s | .inf n => .inf (!n) | .fin n m e => .fin (!n) m e

/-- A product of factors none of which is a NaN: invalid (0 × inf), or a value. -/
def prodOf (l : List FVal) : Option FVal :=
  let neg := l.foldl (fun a x => a != x.neg?) false
  if l.any (·.isInf) then (if l.any (·.isZero) then none else some (.inf neg))
  else some (l.foldl (fun a x => match a, x with
    | .fin n m e, .fin _ m' e' => .fin n (m * m') (e + e')
    | a, _ => a) (.fin neg 1 0))

/-- Exact sum of finite values as an integer times a power of 2. -/
def sumFin (l : List FVal) : Int × Int :=
  l.foldl (fun (acc : Int × Int) x => match x with
    | .fin n m e =>
      let (s, es) := acc
      let v : Int := if n then -(m : Int) else m
      if s = 0 then (v, e)
      else if e ≤ es then (s * 2 ^ (es - e).toNat + v, e) else (s + v * 2 ^ (e - es).toNat, es)
    | _ => acc) (0, 0)

/-- The sign of an exact zero sum: all terms −0 gives −0; x + (−x) is −0 under RM only (R237). `matrix` follows R172,
where nothing else gives −0, in HDOT2F and BDOT2F under RM too (log 96). -/
def zeroNeg (mode : RMode) (matrix : Bool) (ts : List FVal) : Bool :=
  let allNeg := ts.all fun t => t.isZero && t.neg?
  let allPos := ts.all fun t => t.isZero && !t.neg?
  allNeg || (!matrix && !allPos && mode == .rm)

/-- The sum of products of terms, specials in the order of R172, rounded once. -/
def sumProd (f : Fmt) (mode : RMode) (matrix : Bool) (terms : List (List FVal)) : Nat × FlagSet :=
  if terms.any (fun t => t.any (·.isNan)) then
    (f.nan, if terms.any (fun t => t.any (·.isSnan)) then fNV else 0)
  else
    let ps := terms.map prodOf
    if ps.any (·.isNone) then (f.nan, fNV)
    else
      let vs := ps.filterMap id
      let pinf := vs.any fun v => v.isInf && !v.neg?
      let ninf := vs.any fun v => v.isInf && v.neg?
      if pinf && ninf then (f.nan, fNV)
      else if pinf then (f.infBits, 0)
      else if ninf then (signed f true f.infBits, 0)
      else
        let (s, e) := sumFin vs
        if s = 0 then (signed f (zeroNeg mode matrix vs) 0, 0) else froundInt f mode s e

/-! ## Scalar operations (R240, R241) -/

def fadd (f : Fmt) (mode : RMode) (a b : FVal) : Nat × FlagSet := sumProd f mode false [[a], [b]]
def fmul (f : Fmt) (mode : RMode) (a b : FVal) : Nat × FlagSet := sumProd f mode false [[a, b]]
def ffma (f : Fmt) (mode : RMode) (a b c : FVal) : Nat × FlagSet := sumProd f mode false [[c], [a, b]]

def fdiv (f : Fmt) (mode : RMode) (a b : FVal) : Nat × FlagSet :=
  let neg := a.neg? != b.neg?
  match a, b with
  | .nan s, y => (f.nan, if s || y.isSnan then fNV else 0)
  | _, .nan s => (f.nan, if s then fNV else 0)
  | .inf _, .inf _ => (f.nan, fNV)
  | .inf _, .fin _ _ _ => (signed f neg f.infBits, 0)
  | .fin _ _ _, .inf _ => (signed f neg 0, 0)
  | .fin _ m e, .fin _ m' e' =>
    if m' = 0 then (if m = 0 then (f.nan, fNV) else (signed f neg f.infBits, fDZ))
    else if m = 0 then (signed f neg 0, 0)
    else
      let k := f.fbits + 4 + Nat.log2 m' - Nat.log2 m
      let n := m * 2 ^ k
      fround f mode neg (n / m') (e - e' - k) (n % m' != 0)

/-- The integer square root, bit by bit from bit k − 1 down. -/
def isqrtFrom (n : Nat) : Nat → Nat → Nat
  | 0, r => r
  | k + 1, r => let r' := r + 2 ^ k; isqrtFrom n k (if r' * r' ≤ n then r' else r)

def isqrt (n : Nat) : Nat := isqrtFrom n (Nat.log2 n / 2 + 1) 0

/-- m × 2^e with an even exponent and at least 2k bits of m. -/
def evenForm (k m : Nat) (e : Int) : Nat × Int :=
  let j := 2 * k
  if e % 2 = 0 then (m * 2 ^ j, e - j) else (m * 2 ^ (j + 1), e - j - 1)

def fsqrt (f : Fmt) (mode : RMode) (a : FVal) : Nat × FlagSet :=
  match a with
  | .nan s => (f.nan, if s then fNV else 0)
  | .inf n => if n then (f.nan, fNV) else (f.infBits, 0)
  | .fin n m e =>
    if m = 0 then (signed f n 0, 0)
    else if n then (f.nan, fNV)
    else
      let (m, e) := evenForm (f.fbits + 3) m e
      let r := isqrt m
      fround f mode false r (e / 2) (r * r != m)

/-- Comparison of finite values: −1, 0 or 1. -/
def finCmp (n : Bool) (m : Nat) (e : Int) (n' : Bool) (m' : Nat) (e' : Int) : Int :=
  let q := if e ≤ e' then e else e'
  let x : Int := (if n then -1 else 1) * (m * 2 ^ (e - q).toNat : Nat)
  let y : Int := (if n' then -1 else 1) * (m' * 2 ^ (e' - q).toNat : Nat)
  if x < y then -1 else if x = y then 0 else 1

/-- The order of values that are not NaNs, with −0 = +0. -/
def fcmp (a b : FVal) : Int :=
  match a, b with
  | .inf n, .inf n' => if n = n' then 0 else if n then -1 else 1
  | .inf n, _ => if n then -1 else 1
  | _, .inf n' => if n' then 1 else -1
  | .fin n m e, .fin n' m' e' => finCmp n m e n' m' e'
  | _, _ => 0

/-- a stands below b, with −0 below +0 (R222, R241). -/
def fbelow (a b : FVal) : Bool := let c := fcmp a b; c == -1 || (c == 0 && a.neg? && !b.neg?)

def nanFlag (l : List FVal) : FlagSet := if l.any (·.isSnan) then fNV else 0

/-- FMIN and FMAX on bit patterns (R241). -/
def fminmax (f : Fmt) (isMax : Bool) (a b : Nat) : Nat × FlagSet :=
  let x := fdec f a; let y := fdec f b
  if x.isNan || y.isNan then (f.nan, nanFlag [x, y])
  else if isMax then (if fbelow x y then (b, 0) else (a, 0)) else (if fbelow y x then (b, 0) else (a, 0))

/-- FMINNUM and FMAXNUM (R241). -/
def fminmaxNum (f : Fmt) (isMax : Bool) (a b : Nat) : Nat × FlagSet :=
  let x := fdec f a; let y := fdec f b
  if x.isSnan || y.isSnan then (f.nan, fNV)
  else if x.isNan && y.isNan then (f.nan, 0)
  else if x.isNan then (b, 0)
  else if y.isNan then (a, 0)
  else fminmax f isMax a b

/-- FABS, FNEG, FCOPYSIGN: a with a sign (R241). -/
def fwithSign (f : Fmt) (a : Nat) (neg : Bool) (others : List FVal) : Nat × FlagSet :=
  let x := fdec f a
  if x.isNan then (f.nan, nanFlag (x :: others)) else (signed f neg (a % f.signBit), nanFlag (x :: others))

/-- Class mask (R241). -/
def fclassBit (f : Fmt) (a : Nat) : Nat × FlagSet :=
  match fdec f a with
  | .nan s => if s then (0, fNV) else (1, 0)
  | .inf n => if n then (2, 0) else (9, 0)
  | .fin n m _ =>
    let c := if m = 0 then 2 else if m < 2 ^ f.fbits then 1 else 0
    (if n then 3 + c else 8 - c, 0)

/-- a × 2^b rounded once (R241). -/
def fscale (f : Fmt) (mode : RMode) (a : Nat) (b : Int) : Nat × FlagSet :=
  match fdec f a with
  | .nan s => (f.nan, if s then fNV else 0)
  | .inf _ => (a, 0)
  | .fin n m e =>
    if m = 0 then (a, 0)
    else
      -- beyond these bounds every exponent rounds alike
      let b' := clampI (-5000) 5000 b
      fround f mode n m (e + b') false

/-- The nearest integer in a mode (R163), as sign and magnitude, and whether it differs. -/
def toIntegral (mode : RMode) (neg : Bool) (m : Nat) (e : Int) : Nat × Bool := roundAt mode neg m e 0 false

/-- FRND (R240). -/
def frnd (f : Fmt) (mode : RMode) (a : Nat) : Nat × FlagSet :=
  match fdec f a with
  | .nan s => (f.nan, if s then fNV else 0)
  | .inf _ => (a, 0)
  | .fin n m e =>
    if 0 ≤ e ∨ m = 0 then (a, 0)
    else
      let (k, inex) := toIntegral mode n m e
      ((fround f .rz n k 0 false).1, if inex then fNX else 0)

/-! ## Conversions (R246 to R249) -/

/-- Widening or narrowing to a format (R246 to R248). -/
def fconv (g : Fmt) (mode : RMode) (sat : Bool) (x : FVal) : Nat × FlagSet :=
  match x with
  | .nan s => (g.nan, if s then fNV else 0)
  | .inf n =>
    if sat then (signed g n g.maxBits, 0) else if g.inf then (signed g n g.infBits, 0) else (g.nan, fNV)
  | .fin n m e => froundSat g mode sat n m e false

/-- Float to integer of a range (R249). -/
def ftoInt (mode : RMode) (lo hi : Int) (x : FVal) : Int × FlagSet :=
  match x with
  | .nan _ => (0, fNV)
  | .inf n => (if n then lo else hi, fNV)
  | .fin n m e =>
    let (k, inex) := toIntegral mode n m e
    let v : Int := if n then -(k : Int) else k
    if v < lo then (lo, fNV) else if hi < v then (hi, fNV) else (v, if inex then fNX else 0)

/-! ## Anchored accumulation (R177) -/

/-- y / 2^A truncated toward zero, and whether it differs. -/
def anchorTrunc (neg : Bool) (m : Nat) (e a : Int) : Int × Bool :=
  let (k, inex) := roundAt .rz neg m e a false
  (if neg then -(k : Int) else k, inex)

/-- Wrapped into 128 bits, as two's complement. -/
def wrap128 (x : Int) : Int := (ofInt 128 x).toInt
def outside128 (x : Int) : Bool := x < -2 ^ 127 || 2 ^ 127 - 1 < x

def anchorAdd (q : Int) (a : Int) (y : FVal) : Int × FlagSet :=
  match y with
  | .nan s => (q, fAO ||| (if s then fNV else 0))
  | .inf _ => (q, fAO)
  | .fin n m e =>
    let (k, inex) := anchorTrunc n m e a
    (wrap128 (q + k), (if inex then fAX else 0) ||| (if outside128 (q + k) then fAO else 0))

end Sys2Proof.Machine
end

