-- ==== Sys2Proof/Machine/Special.lean ====
section
/-! DEFINITION. The special functions (R244, R245). A correctly rounded form encloses the exact value between two fixed-point
numbers and rounds once; an approximate form takes a free value wherever that lies in its bound (log 10). -/

namespace Sys2Proof.Machine

/-- Fractional bits of the enclosures. -/
def encBits : Nat := 320

/-- π and ln 2, cut to 320 fractional bits. -/
def piFix : Nat := 0x3243f6a8885a308d313198a2e03707344a4093822299f31d0082efa98ec4e6c89452821e638d01377
def ln2Fix : Nat := 0xb17217f7d1cf79abc9e3b39803f2f6af40f343267298b62d8a0d175b8baafa2be7b876206debac98

/-- An enclosure lo ≤ x × 2^P ≤ hi of a positive irrational x, scaled by 2^s. -/
structure Enc where
  neg : Bool
  lo : Nat
  hi : Nat
  exp : Int
deriving DecidableEq, Repr

/-- One rounding of an enclosed irrational, or the free value where the enclosure does not decide. -/
def roundEnc (f : Fmt) (mode : RMode) (free : Nat) (x : Enc) : Nat × FlagSet :=
  let c := Nat.log2 x.lo - (f.fbits + 8)
  if x.lo / 2 ^ c = x.hi / 2 ^ c ∧ f.fbits + 8 ≤ Nat.log2 x.lo then fround f mode x.neg (x.lo / 2 ^ c) (x.exp + c) true
  else (free, fNX)

/-! ## Enclosures -/

/-- Product of 2^(2^−i) over the set bits of a fraction with D bits, i from 1 up; the square-root tower at precision 2^256. -/
def exp2Bits : Nat → Nat → Nat → Nat → Nat → Nat → Nat → Nat × Nat
  | 0, _, _, _, _, lo, hi => (lo, hi)
  | n + 1, d, fr, sl, sh, lo, hi =>
    let one := 2 ^ 256
    let sl := isqrt (sl * one)
    let sh := isqrt (sh * one) + 1
    let i := d - n
    if Nat.testBit fr (d - i) then exp2Bits n d fr sl sh (lo * sl / one) (hi * sh / one + 1)
    else exp2Bits n d fr sl sh lo hi

/-- 2^x for x = ±m × 2^e that is not an integer (e < 0). Exponents beyond ±400 round alike in FP32. -/
def exp2Enc (neg : Bool) (m : Nat) (e : Int) : Enc :=
  let d := (-e).toNat
  let x : Int := if neg then -(m : Int) else m
  let n := clampI (-400) 400 (x / (2 ^ d : Nat))
  let fr := (x % (2 ^ d : Nat)).toNat
  let (lo, hi) := exp2Bits d d fr (2 * 2 ^ 256) (2 * 2 ^ 256) (2 ^ 256) (2 ^ 256)
  ⟨false, lo, hi, n - 256⟩

/-- Bits of log2 y for y in [1, 2) by repeated squaring; none where the enclosure does not decide a bit. -/
def log2Bits : Nat → Nat → Nat → Nat → Option Nat
  | 0, _, _, b => some b
  | n + 1, lo, hi, b =>
    let one := 2 ^ encBits
    let lo := lo * lo / one
    let hi := hi * hi / one + 1
    if 2 * one ≤ lo then log2Bits n (lo / 2) (hi / 2 + 1) (2 * b + 1)
    else if hi < 2 * one then log2Bits n lo hi (2 * b)
    else none

/-- log2 of m × 2^e, not a power of 2: the value lies strictly between N and N + 1 steps of 2^−140. -/
def log2Enc (m : Nat) (e : Int) : Option Enc :=
  let l := Nat.log2 m
  let y := m * 2 ^ encBits / 2 ^ l
  match log2Bits 140 y y 0 with
  | none => none
  | some b =>
    let n : Int := ((l : Int) + e) * 2 ^ 140 + b
    if 0 ≤ n then some ⟨false, n.toNat, n.toNat, -140⟩ else some ⟨true, (-(n + 1)).toNat, (-(n + 1)).toNat, -140⟩

/-- Taylor terms of the sine of t: term, index, sum, with t² given. -/
def sinTerms : Nat → Nat → Nat → Int → Int → Int
  | 0, _, _, _, s => s
  | n + 1, k, t2, term, s =>
    let term := -(term * t2 / (2 ^ encBits : Nat)) / ((2 * k) * (2 * k + 1) : Nat)
    sinTerms n (k + 1) t2 term (s + term)

/-- sin t for 0 ≤ t ≤ π/2 at 320 fractional bits; the error is below 2^24 units. -/
def sinFix (t : Nat) : Int := sinTerms 60 1 (t * t / 2 ^ encBits) t t

def encOfInt (neg : Bool) (v : Int) (err : Nat) : Enc := ⟨neg, (v - err).toNat, (v + err).toNat, -(encBits : Int)⟩

/-- x mod 2 of ±m × 2^e as a numerator over 2^d, 0 ≤ numerator < 2^(d+1). -/
def mod2 (neg : Bool) (m : Nat) (e : Int) : Nat × Nat :=
  if 0 ≤ e then (((if neg then -(m * 2 ^ (min e.toNat 2) : Int) else (m * 2 ^ (min e.toNat 2) : Int)) % 2).toNat, 0)
  else
    let d := (-e).toNat
    (((if neg then -(m : Int) else m) % (2 ^ (d + 1) : Nat)).toNat, d)

/-- sin(π r) for r = k / 2^d in [0, 2): exact for multiples of 1/2, else an enclosure. -/
inductive SinPi where
  | zero | one (neg : Bool) | irr (x : Enc)

def sinPi (k d : Nat) : SinPi :=
  let neg := 2 ^ d ≤ k
  let k := k % 2 ^ d
  if k = 0 then .zero
  else if 2 * k = 2 ^ d then .one neg
  else
    let k := if 2 ^ d < 2 * k then 2 ^ d - k else k
    .irr (encOfInt neg (sinFix (piFix * k / 2 ^ d)) (2 ^ 24))

/-! ## Correctly rounded forms -/

/-- Function numbers of R244. -/
def correct (fn : Nat) (mode : RMode) (a : Word) : Nat × FlagSet :=
  let f := fp32
  let free := (Config.undecided fn (match mode with | .rn => 0 | .rz => 1 | .rp => 2 | .rm => 3) a).toNat
  let one := 0x3F800000
  match fn, fdec f a.toNat with
  | _, .nan s => (f.nan, if s then fNV else 0)
  | 0, x => fdiv f mode (.fin false 1 0) x
  | 1, .inf n => if n then (f.nan, fNV) else (0, 0)
  | 1, .fin n m e =>
    if m = 0 then (signed f n f.infBits, fDZ)
    else if n then (f.nan, fNV)
    else
      let (m, e) := if e % 2 = 0 then (m, e) else (2 * m, e - 1)
      let k := 40 + Nat.log2 m / 2
      let r := isqrt (2 ^ (2 * k) / m)
      fround f mode false r (-(k : Int) - e / 2) (r * r * m != 2 ^ (2 * k))
  | 2, .inf n => if n then (0, 0) else (f.infBits, 0)
  | 2, .fin n m e =>
    if m = 0 then (one, 0)
    else if 0 ≤ e ∨ m % 2 ^ (-e).toNat = 0 then
      let x : Int := (if n then -1 else 1) * (if 0 ≤ e then (m * 2 ^ (min e.toNat 10) : Nat) else (m / 2 ^ (-e).toNat : Nat))
      fround f mode false 1 (clampI (-400) 400 x) false
    else roundEnc f mode free (exp2Enc n m e)
  | 3, .inf n => if n then (f.nan, fNV) else (f.infBits, 0)
  | 3, .fin n m e =>
    if m = 0 then (signed f true f.infBits, fDZ)
    else if n then (f.nan, fNV)
    else if 2 ^ Nat.log2 m = m then froundInt f mode ((Nat.log2 m : Int) + e) 0
    else match log2Enc m e with
      | some x => roundEnc f mode free x
      | none => (free, fNX)
  | 4, .fin n m e =>
    let (k, d) := mod2 n m e
    match sinPi k d with
    | .zero => (signed f n 0, 0)
    | .one neg => (signed f neg one, 0)
    | .irr x => roundEnc f mode free x
  | 5, .fin n m e =>
    let (k, d) := mod2 n m e
    let (k, d) := if d = 0 then (2 * k, 1) else (k, d)
    match sinPi ((k + 2 ^ d / 2) % 2 ^ (d + 1)) d with
    | .zero => (0, 0)
    | .one neg => (signed f neg one, 0)
    | .irr x => roundEnc f mode free x
  | _, _ => (f.nan, fNV)

/-! ## Approximate forms -/

/-- A finite FP32 value as an integer over 2^320. -/
def fixOf (x : FVal) : Int :=
  match x with
  | .fin n m e => (if n then -1 else 1) * (m * 2 ^ (e + encBits).toNat : Nat)
  | _ => 0

/-- One ulp of a magnitude v over 2^320, in FP32. -/
def ulpFix (v : Nat) : Nat := 2 ^ (max (Nat.log2 v - 23) (encBits - 149))

/-- The exact value of an approximate function as bounds over 2^320, for finite operands outside R245. -/
def exactBounds (fn : Nat) (n : Bool) (m : Nat) (e : Int) : Option (Int × Int) :=
  let sgn (neg : Bool) (lo hi : Int) : Int × Int := if neg then (-hi, -lo) else (lo, hi)
  let ofEnc (x : Enc) : Int × Int :=
    let sh := x.exp + encBits
    if 0 ≤ sh then sgn x.neg (x.lo * 2 ^ sh.toNat : Nat) (x.hi * 2 ^ sh.toNat : Nat)
    else sgn x.neg (x.lo / 2 ^ (-sh).toNat : Nat) (x.hi / 2 ^ (-sh).toNat + 1 : Nat)
  match fn with
  | 8 => let q := 2 ^ (2 * encBits) / (m * 2 ^ (e + encBits).toNat); some (sgn n q (q + 1))
  | 9 => let q := isqrt (2 ^ (3 * encBits) / (m * 2 ^ (e + encBits).toNat)); some (q, q + 1)
  | 10 =>
    if 0 ≤ e ∨ m % 2 ^ (-e).toNat = 0 then
      let x : Int := (if n then -1 else 1) * (if 0 ≤ e then (m * 2 ^ (min e.toNat 10) : Nat) else (m / 2 ^ (-e).toNat : Nat))
      let v : Int := (2 ^ (clampI (-300) 400 x + encBits).toNat : Nat)
      some (v, v)
    else some (ofEnc (exp2Enc n m e))
  | 11 =>
    if 2 ^ Nat.log2 m = m then
      let v := ((Nat.log2 m : Int) + e) * 2 ^ encBits
      some (v, v)
    else (log2Enc m e).map fun x => let (lo, hi) := ofEnc x; if x.neg then (lo - 2 ^ 180, hi) else (lo, hi + 2 ^ 180)
  | 12 | 13 =>
    -- reduce by quarter turns; |a| ≤ 2^15
    let x : Int := (if n then -1 else 1) * (m * 2 ^ (e + encBits).toNat : Nat)
    let half : Int := ((piFix / 2 : Nat) : Int)
    let q := x / half + (if fn = 13 then 1 else 0)
    let r := (x % half).toNat
    let k := q % 4
    let s := sinFix r
    let c := sinFix (half.toNat - r)
    let v := if k = 0 then s else if k = 1 then c else if k = 2 then -s else -c
    some (v - 2 ^ 40, v + 2 ^ 40)
  | 14 =>
    -- tanh by exp(−2|a|) = 2^−j × exp(−z), z below ln 2
    let y := 2 * (m * 2 ^ (e + encBits).toNat)
    if 64 * 2 ^ encBits ≤ y then some (sgn n (2 ^ encBits - 2 ^ 250 : Nat) (2 ^ encBits : Nat))
    else
      let j := y / ln2Fix
      let z := y % ln2Fix
      let ex := (List.range 80).foldl (fun (p : Int × Int) i =>
        let t := -(p.1 * z / (2 ^ encBits : Nat)) / ((i + 1 : Nat) : Int)
        (t, p.2 + t)) ((2 ^ encBits : Nat), (2 ^ encBits : Nat))
      let u := ex.2.toNat / 2 ^ j
      let v : Int := ((2 ^ encBits - u) * 2 ^ encBits / (2 ^ encBits + u) : Nat)
      some (sgn n (v - 2 ^ 20) (v + 2 ^ 20))
  | _ => none

/-- The bound of R244 for an exact value of magnitude at least v over 2^320. -/
def approxBound (fn : Nat) (v : Nat) (halfToTwo : Bool) : Nat :=
  match fn with
  | 8 => ulpFix v
  | 9 => 2 * ulpFix v
  | 10 => if 2 ^ (encBits - 126) ≤ v then 2 * ulpFix v else 2 ^ (encBits - 149)
  | 11 => if halfToTwo then 2 ^ (encBits - 22) else 2 * ulpFix v
  | 14 => max (2 * ulpFix v) (2 ^ (encBits - 24))
  | _ => 2 ^ (encBits - 21)

/-- Any value in [−1, 1], from a free pattern. -/
def inUnit (c : Word) : Word :=
  match fdec fp32 c.toNat with
  | .fin _ m e => if m = 0 ∨ fixOf (.fin false m e) ≤ 2 ^ encBits then c else (c &&& 0x807FFFFF#32) ||| 0x3F000000#32
  | _ => (c &&& 0x807FFFFF#32) ||| 0x3F000000#32

/-- The operand lies in [0.5, 2]. -/
def inHalfTwo (m : Nat) (e : Int) : Bool :=
  let v := m * 2 ^ (e + encBits).toNat
  2 ^ (encBits - 1) ≤ v && v ≤ 2 ^ (encBits + 1)

/-- The nearest FP32 to the middle of bounds: what stands where the free value is out of bound. -/
def nearest (lo : Int) : Nat := (froundInt fp32 .rn lo (-(encBits : Int))).1

/-- An approximate form's result and flags (R244, R245). -/
def approximate (fn : Nat) (a : Word) : Nat × FlagSet :=
  let f := fp32
  let one := 0x3F800000
  let cand := Config.approx fn a
  let free (n : Bool) (m : Nat) (e : Int) : Nat × FlagSet :=
    match exactBounds fn n m e with
    | none => (cand.toNat, 0)
    | some (lo, hi) =>
      let v := min lo.natAbs hi.natAbs
      let b : Int := approxBound fn v (inHalfTwo m e)
      let c := fdec f cand.toNat
      let r : Nat := match c with
        | .fin _ _ _ => if (hi - fixOf c ≤ b) ∧ (fixOf c - lo ≤ b) then cand.toNat else nearest lo
        | _ => nearest lo
      (r, 0)
  match fn, fdec f a.toNat with
  | _, .nan s => (f.nan, if s then fNV else 0)
  | 8, .inf n => (signed f n 0, 0)
  | 8, .fin n m e => if m = 0 then (signed f n f.infBits, fDZ) else free n m e
  | 9, .inf n => if n then (f.nan, fNV) else (0, 0)
  | 9, .fin n m e =>
    if m = 0 then (signed f n f.infBits, fDZ) else if n then (f.nan, fNV) else free n m e
  | 10, .inf n => if n then (0, 0) else (f.infBits, 0)
  | 10, .fin n m e => if m = 0 then (one, 0) else free n m e
  | 11, .inf n => if n then (f.nan, fNV) else (f.infBits, 0)
  | 11, .fin n m e =>
    if m = 0 then (signed f true f.infBits, fDZ) else if n then (f.nan, fNV)
    else if a = 0x3F800000#32 then (0, 0) else free n m e
  | 12, .inf _ => (f.nan, fNV)
  | 13, .inf _ => (f.nan, fNV)
  | 12, .fin n m e =>
    if m = 0 then (a.toNat, 0)
    else if fixOf (.fin false m e) ≤ 2 ^ (encBits + 15) then free n m e else ((inUnit cand).toNat, 0)
  | 13, .fin n m e =>
    if fixOf (.fin false m e) ≤ 2 ^ (encBits + 15) then free n m e else ((inUnit cand).toNat, 0)
  | 14, .inf n => (signed f n one, 0)
  | 14, .fin n m e => if m = 0 then (a.toNat, 0) else free n m e
  | _, _ => (f.nan, fNV)

end Sys2Proof.Machine
end

