-- ==== Sys2Proof/Machine/Flags.lean ====
section
/-! DEFINITION. The floating-point flags of the vector pipes and FPX (R165, R166, R239), and the static or dynamic rounding
mode of a form (R163, R193). -/

namespace Sys2Proof.Machine

/-- FPCTL.RMODE of the gang (R165). -/
def dynMode (g : Gang) : RMode := rmodeOf (g.fpctl.extractLsb' 0 2)

/-- The rounding mode that a form uses (R163, R193). -/
def modeOf (g : Gang) : RMod → RMode
  | .dyn => dynMode g
  | .rn => .rn
  | .rz => .rz
  | .rp => .rp
  | .rm => .rm

/-- Enabled exceptions of a flag set (R165, R166). -/
def enabled (g : Gang) (f : FlagSet) : FlagSet := f &&& 0x1F#8 &&& g.fpctl.extractLsb' 8 8

/-- What one lane of a vector operation gives: register writes and exceptions. -/
structure LaneOut where
  writes : List (Nat × Word)
  flags : FlagSet
deriving DecidableEq, Repr

def putWrites (g : Gang) (i : Nat) (l : List (Nat × Word)) : Gang := l.foldl (fun g p => putReg g p.1 i p.2) g

/-- The writes and flags of every lane, or FPX when some lane raises an enabled exception (R166). -/
def finishFp (s : State) (g : Gang) (outs : List (Nat × LaneOut)) : Out :=
  let bad := outs.filter fun o => enabled g o.2.flags != 0#8
  if !bad.isEmpty then
    let e : FlagSet := bad.foldl (fun (e : FlagSet) o => e ||| enabled g o.2.flags) 0#8
    raise s { cause := cFPX, info := BitVec.zeroExtend 32 e, addr := none,
              lanes := some (maskOf (bad.map (·.1))) }
  else
    let fl : FlagSet := outs.foldl (fun (e : FlagSet) o => e ||| o.2.flags) 0#8
    let h := outs.foldl (fun h o => putWrites h o.1 o.2.writes) g
    let fl : Word := BitVec.zeroExtend 32 fl
    .next (setIss (setGang s { h with fpflags := h.fpflags ||| fl }) fun it => { it with raised := it.raised ||| fl })

/-- An instruction of the floating-point pipes: each lane's outcome from the gang before it and the rounding mode. -/
def fpOp (s : State) (rnd : RMod) (f : Gang → RMode → Nat → LaneOut) : Out :=
  withGang s fun g it =>
    finishFp s g ((lanesOf (execMask g it)).map fun i => (i, f g (modeOf g rnd) i))

/-- A single-register result. -/
def out1 (d : Reg) (r : Nat × FlagSet) : LaneOut := ⟨[(d.toNat, BitVec.ofNat 32 r.1)], r.2⟩

/-- Words of a wider result, low word first. -/
def wordsInto (d : Reg) (n : Nat) (v : Nat) : List (Nat × Word) :=
  (List.range n).map fun k => (d.toNat + k, BitVec.ofNat 32 (v / 2 ^ (32 * k)))

def out2 (d : Reg) (r : Nat × FlagSet) : LaneOut := ⟨wordsInto d 2 r.1, r.2⟩

/-- A float compare's mask (R216, R215), with NV by lane. -/
def fpCompare (s : State) (d : Reg) (c : Gang → Nat → Bool × FlagSet) : Out :=
  withGang s fun g it =>
    let m := execMask g it
    let v := condMask g m fun i => (c g i).1
    finishFp s g ((lanesOf m).map fun i => (i, ⟨[(d.toNat, v)], (c g i).2⟩))

end Sys2Proof.Machine
end

