-- ==== Sys2Proof/Machine/Compare.lean ====
section
/-! DEFINITION. Compares, majors 0x04 and 0x05 (R215, R216). -/

namespace Sys2Proof.Machine

/-- Mask of a condition on single registers a and b. -/
def cmp1 (s : State) (d a b : Reg) (c : Word → Word → Bool) : Out :=
  writeMask s d fun g i => c (getReg g a.toNat i) (getReg g b.toNat i)

/-- Mask of a condition on pairs. -/
def cmp2 (s : State) (d a b : Reg) (c : DWord → DWord → Bool) : Out :=
  writeMask s d fun g i => c (pairOf g a.toNat i) (pairOf g b.toNat i)

def ltS {w : Nat} (x y : BitVec w) : Bool := x.toInt < y.toInt
def leS {w : Nat} (x y : BitVec w) : Bool := x.toInt ≤ y.toInt
def ltU {w : Nat} (x y : BitVec w) : Bool := x.toNat < y.toNat
def leU {w : Nat} (x y : BitVec w) : Bool := x.toNat ≤ y.toNat

def execCmpeq (d a b : Reg) (s : State) : Out := cmp1 s d a b fun x y => x == y
def execCmpne (d a b : Reg) (s : State) : Out := cmp1 s d a b fun x y => x != y
def execCmplt (d a b : Reg) (s : State) : Out := cmp1 s d a b ltS
def execCmple (d a b : Reg) (s : State) : Out := cmp1 s d a b leS
def execCmpltu (d a b : Reg) (s : State) : Out := cmp1 s d a b ltU
def execCmpleu (d a b : Reg) (s : State) : Out := cmp1 s d a b leU
def execCmpeq64 (d a b : Reg) (s : State) : Out := cmp2 s d a b fun x y => x == y
def execCmplt64 (d a b : Reg) (s : State) : Out := cmp2 s d a b ltS
def execCmpltu64 (d a b : Reg) (s : State) : Out := cmp2 s d a b ltU
def execCmple64 (d a b : Reg) (s : State) : Out := cmp2 s d a b leS
def execCmpleu64 (d a b : Reg) (s : State) : Out := cmp2 s d a b leU

/-- The five float conditions and their NV (R216). -/
inductive FCond where
  | eq | ne | lt | le | un
deriving DecidableEq, Repr

def fcondHolds (c : FCond) (x y : FVal) : Bool :=
  let un := x.isNan || y.isNan
  match c with
  | .eq => !un && fcmp x y == 0
  | .ne => !(!un && fcmp x y == 0)
  | .lt => !un && fcmp x y == -1
  | .le => !un && fcmp x y != 1
  | .un => un

def fcondFlags (c : FCond) (x y : FVal) : FlagSet :=
  match c with
  | .lt => if x.isNan || y.isNan then fNV else 0
  | .le => if x.isNan || y.isNan then fNV else 0
  | _ => nanFlag [x, y]

def fcond (c : FCond) (x y : FVal) : Bool × FlagSet := (fcondHolds c x y, fcondFlags c x y)

def single (g : Gang) (r : Reg) (i : Nat) : FVal := fdec fp32 (getReg g r.toNat i).toNat
def double (g : Gang) (r : Reg) (i : Nat) : FVal := fdec fp64 (pairOf g r.toNat i).toNat

def fcmp32 (s : State) (d a b : Reg) (c : FCond) : Out := fpCompare s d fun g i => fcond c (single g a i) (single g b i)
def fcmp64 (s : State) (d a b : Reg) (c : FCond) : Out := fpCompare s d fun g i => fcond c (double g a i) (double g b i)

def execFcmpeq (d a b : Reg) (s : State) : Out := fcmp32 s d a b .eq
def execFcmpne (d a b : Reg) (s : State) : Out := fcmp32 s d a b .ne
def execFcmplt (d a b : Reg) (s : State) : Out := fcmp32 s d a b .lt
def execFcmple (d a b : Reg) (s : State) : Out := fcmp32 s d a b .le
def execFcmpun (d a b : Reg) (s : State) : Out := fcmp32 s d a b .un
def execDcmpeq (d a b : Reg) (s : State) : Out := fcmp64 s d a b .eq
def execDcmpne (d a b : Reg) (s : State) : Out := fcmp64 s d a b .ne
def execDcmplt (d a b : Reg) (s : State) : Out := fcmp64 s d a b .lt
def execDcmple (d a b : Reg) (s : State) : Out := fcmp64 s d a b .le
def execDcmpun (d a b : Reg) (s : State) : Out := fcmp64 s d a b .un

end Sys2Proof.Machine
end

