-- ==== Sys2Proof/Machine/Lane.lean ====
section
/-! DEFINITION. Select, move and indirect access, major 0x06 (R217, R218), and lane operations, major 0x07 (R219 to R223). -/

namespace Sys2Proof.Machine

def execMov (d a : Reg) (s : State) : Out := lane1 s d a id
def execMov64 (d a : Reg) (s : State) : Out := writePairs s d fun g i => pairOf g a.toNat i

/-- Bit i of b[i], the visible bit in protected mode, chooses a (R217). -/
def execSel (d a b : Reg) (s : State) : Out :=
  writeLanes s d fun g i =>
    if (getReg g b.toNat i).getLsbD (visOf g i) then getReg g a.toNat i else getReg g d.toNat i

/-- The lanes whose index lies beyond the allocation, and the trap of R218. -/
def indexTrap (g : Gang) (m : LaneMask) (a : Reg) : Option Trap :=
  let bad := (lanesOf m).filter fun i => g.alloc ≤ (getReg g a.toNat i).toNat
  match bad with
  | [] => none
  | j :: _ =>
    let v := getReg g a.toNat j
    some { cause := cREGRANGE, info := 0x100#32 ||| (v &&& 0x7F#32), addr := some (v.zeroExtend 64), lanes := some (maskOf bad) }

def indirect (s : State) (a : Reg) (f : Gang → Gang → Nat → Gang) : Out :=
  withGang s fun g it =>
    match indexTrap g (execMask g it) a with
    | some t => raise s t
    | none => overLanes s f

def execRdind (d a : Reg) (s : State) : Out :=
  indirect s a fun g h i => putReg h d.toNat i (getReg g (getReg g a.toNat i).toNat i)

def execWrind (a b : Reg) (s : State) : Out :=
  indirect s a fun g h i => putReg h (getReg g a.toNat i).toNat i (getReg g b.toNat i)

/-! ## Shuffles (R219) -/

/-- The lane from which lane i takes visible lane number src: itself outside the gang's lanes. -/
def shflLane (g : Gang) (i : Nat) (src : Int) : Nat :=
  if src < 0 ∨ (visWidth g : Int) ≤ src then i else laneOfVis g src.toNat + (if g.prot then i % 2 else 0)

/-- What lane i receives from visible lane number src, and whether it read a dead lane. -/
def shflValue (g : Gang) (a : Reg) (i : Nat) (src : Int) : Word × Bool :=
  let l := shflLane g i src
  if l = i then (getReg g a.toNat i, false)
  else if !g.launchMask.getLsbD l then (0, false)
  else if !g.live.getLsbD l then (0, true)
  else (getReg g a.toNat l, false)

/-- The visible lane number that lane i names with a source rule and the index register b. -/
def shflSrc (g : Gang) (src : Nat → Nat → Nat → Int) (b : Reg) (i : Nat) : Int :=
  src (visWidth g) (visOf g i) (getReg g b.toNat i).toNat

def shuffle (s : State) (d a b : Reg) (src : Nat → Nat → Nat → Int) : Out :=
  withGang s fun g it =>
    let ls := lanesOf (execMask g it)
    let val (i : Nat) := shflValue g a i (shflSrc g src b i)
    let h := ls.foldl (fun h i => putReg h d.toNat i (val i).1) g
    let dead := ls.any fun i => (val i).2
    .next (setIss (setGang s { h with deadsrc := h.deadsrc || dead }) fun it => { it with rdead := it.rdead || dead })

/-- The four source rules: lanes of the gang, own lane number, index. -/
def srcIdx (w _i n : Nat) : Int := ((n % w : Nat) : Int)
def srcUp (_w i n : Nat) : Int := (i : Int) - n
def srcDown (_w i n : Nat) : Int := (i : Int) + n
def srcXor (w i n : Nat) : Int := ((Nat.xor i (n % w) : Nat) : Int)

def execShflIdx (d a b : Reg) (s : State) : Out := shuffle s d a b srcIdx
def execShflUp (d a b : Reg) (s : State) : Out := shuffle s d a b srcUp
def execShflDown (d a b : Reg) (s : State) : Out := shuffle s d a b srcDown
def execShflXor (d a b : Reg) (s : State) : Out := shuffle s d a b srcXor

/-! ## Votes (R220) -/

/-- One value, formed from the execute mask, written to d in every active lane. -/
def gather (s : State) (d : Reg) (f : Gang → LaneMask → Word) : Out :=
  withGang s fun g it => let m := execMask g it; .next (setGang s (putAll g m d (f g m)))

def ballot (g : Gang) (m : LaneMask) (a : Reg) : Word := condMask g m fun i => getReg g a.toNat i != 0

def execVoteBallot (d a : Reg) (s : State) : Out := gather s d fun g m => ballot g m a
def execVoteAny (d a : Reg) (s : State) : Out := gather s d fun g m => if ballot g m a != 0 then 1 else 0
def execVoteAll (d a : Reg) (s : State) : Out := gather s d fun g m => if ballot g m a == visMask g m then 1 else 0
def execElect (d : Reg) (s : State) : Out := gather s d fun g m => 1#32 <<< visOf g ((leader m).getD 0)

/-! ## Reductions (R221, R222) -/

/-- Active lanes of a collective: in protected mode each copy of the pairs folds its own lanes. -/
def copyLanes (g : Gang) (m : LaneMask) (i : Nat) : List Nat :=
  if g.prot then (lanesOf m).filter fun j => j % 2 == i % 2 else lanesOf m

def reduce (s : State) (d a : Reg) (f : Word → Word → Word) (unit : Word) : Out :=
  withGang s fun g it =>
    let m := execMask g it
    let r (i : Nat) := (copyLanes g m i).foldl (fun acc j => f acc (getReg g a.toNat j)) unit
    .next (setGang s (putLanes g d.toNat m r))

def execRedadd (d a : Reg) (s : State) : Out := reduce s d a (· + ·) 0
def execRedmin (d a : Reg) (s : State) : Out := reduce s d a minS 0x7FFFFFFF#32
def execRedmax (d a : Reg) (s : State) : Out := reduce s d a maxS 0x80000000#32
def execRedminu (d a : Reg) (s : State) : Out := reduce s d a minU 0xFFFFFFFF#32
def execRedmaxu (d a : Reg) (s : State) : Out := reduce s d a maxU 0
def execRedand (d a : Reg) (s : State) : Out := reduce s d a (· &&& ·) 0xFFFFFFFF#32
def execRedor (d a : Reg) (s : State) : Out := reduce s d a (· ||| ·) 0
def execRedxor (d a : Reg) (s : State) : Out := reduce s d a (· ^^^ ·) 0

/-- Inclusive prefix sum over the active lanes. -/
def execScanadd (d a : Reg) (s : State) : Out :=
  withGang s fun g it =>
    let m := execMask g it
    let r (i : Nat) := ((copyLanes g m i).filter (· ≤ i)).foldl (fun acc j => acc + getReg g a.toNat j) 0#32
    .next (setGang s (putLanes g d.toNat m r))

/-- The fold of R222 over FP32 bit patterns, from the first lane's value; any NaN gives the canonical NaN, and every step
of a sum raises its flags. -/
def ffold (step : Nat → Nat → Nat × FlagSet) : List Nat → Nat × FlagSet
  | [] => (0, 0)
  | x :: xs =>
    let r := xs.foldl (fun (acc : Nat × FlagSet) y => let t := step acc.1 y; (t.1, acc.2 ||| t.2)) (x, 0#8)
    let vs := (x :: xs).map (fdec fp32)
    (if vs.any (·.isNan) then fp32.nan else r.1, r.2 ||| nanFlag vs)

def freduce (s : State) (d a : Reg) (rnd : RMod) (step : RMode → Nat → Nat → Nat × FlagSet) : Out :=
  withGang s fun g it =>
    let m := execMask g it
    let r (i : Nat) := ffold (step (modeOf g rnd)) ((copyLanes g m i).map fun j => (getReg g a.toNat j).toNat)
    let fl : FlagSet := (lanesOf m).foldl (fun (f : FlagSet) i => f ||| (r i).2) 0#8
    finishFp s g ((lanesOf m).map fun i => (i, ⟨[(d.toNat, BitVec.ofNat 32 (r i).1)], fl⟩))

def execFredadd (d a : Reg) (rnd : RMod) (s : State) : Out :=
  freduce s d a rnd fun mode x y => fadd fp32 mode (fdec fp32 x) (fdec fp32 y)
def execFredmin (d a : Reg) (rnd : RMod) (s : State) : Out :=
  freduce s d a rnd fun _ x y => ((if fbelow (fdec fp32 y) (fdec fp32 x) then y else x), 0)
def execFredmax (d a : Reg) (rnd : RMod) (s : State) : Out :=
  freduce s d a rnd fun _ x y => ((if fbelow (fdec fp32 x) (fdec fp32 y) then y else x), 0)

end Sys2Proof.Machine
end

