-- ==== Sys2Proof/Machine/Fp.lean ====
section
/-! DEFINITION. FP32 and FP64 arithmetic, majors 0x14 and 0x15 (R240, R241). -/

namespace Sys2Proof.Machine

/-- The bits of an operand of a 32- or 64-bit format: a single register or a pair. -/
def bitsAt (f : Fmt) (g : Gang) (r : Reg) (i : Nat) : Nat :=
  if f.width = 64 then (pairOf g r.toNat i).toNat else (getReg g r.toNat i).toNat

def valAt (f : Fmt) (g : Gang) (r : Reg) (i : Nat) : FVal := fdec f (bitsAt f g r i)

def outF (f : Fmt) (d : Reg) (r : Nat × FlagSet) : LaneOut := if f.width = 64 then out2 d r else out1 d r

/-- One lane of an operation. -/
abbrev LaneFn := Gang → RMode → Nat → LaneOut

def laneAdd (f : Fmt) (d a b : Reg) : LaneFn := fun g mode i => outF f d (fadd f mode (valAt f g a i) (valAt f g b i))
def laneSub (f : Fmt) (d a b : Reg) : LaneFn := fun g mode i => outF f d (fadd f mode (valAt f g a i) (valAt f g b i).negate)
def laneMul (f : Fmt) (d a b : Reg) : LaneFn := fun g mode i => outF f d (fmul f mode (valAt f g a i) (valAt f g b i))
def laneFma (f : Fmt) (d a b : Reg) : LaneFn := fun g mode i =>
  outF f d (ffma f mode (valAt f g a i) (valAt f g b i) (valAt f g d i))
def laneNma (f : Fmt) (d a b : Reg) : LaneFn := fun g mode i =>
  outF f d (ffma f mode (valAt f g a i).negate (valAt f g b i) (valAt f g d i))
def laneDiv (f : Fmt) (d a b : Reg) : LaneFn := fun g mode i => outF f d (fdiv f mode (valAt f g a i) (valAt f g b i))
def laneSqrt (f : Fmt) (d a : Reg) : LaneFn := fun g mode i => outF f d (fsqrt f mode (valAt f g a i))
def laneMin (f : Fmt) (d a b : Reg) : LaneFn := fun g _ i => outF f d (fminmax f false (bitsAt f g a i) (bitsAt f g b i))
def laneMax (f : Fmt) (d a b : Reg) : LaneFn := fun g _ i => outF f d (fminmax f true (bitsAt f g a i) (bitsAt f g b i))
def laneMinNum (f : Fmt) (d a b : Reg) : LaneFn := fun g _ i => outF f d (fminmaxNum f false (bitsAt f g a i) (bitsAt f g b i))
def laneMaxNum (f : Fmt) (d a b : Reg) : LaneFn := fun g _ i => outF f d (fminmaxNum f true (bitsAt f g a i) (bitsAt f g b i))
def laneAbs (f : Fmt) (d a : Reg) : LaneFn := fun g _ i => outF f d (fwithSign f (bitsAt f g a i) false [])
def laneNeg (f : Fmt) (d a : Reg) : LaneFn := fun g _ i =>
  outF f d (fwithSign f (bitsAt f g a i) (bitsAt f g a i / f.signBit % 2 == 0) [])
def laneRnd (f : Fmt) (d a : Reg) : LaneFn := fun g mode i => outF f d (frnd f mode (bitsAt f g a i))
/-- The class mask: one bit, in a single register (R241). -/
def laneClass (f : Fmt) (d a : Reg) : LaneFn := fun g _ i =>
  let r := fclassBit f (bitsAt f g a i); out1 d (2 ^ r.1, r.2)
def laneScale (f : Fmt) (d a b : Reg) : LaneFn := fun g mode i =>
  outF f d (fscale f mode (bitsAt f g a i) (getReg g b.toNat i).toInt)
def laneCopysign (f : Fmt) (d a b : Reg) : LaneFn := fun g _ i =>
  outF f d (fwithSign f (bitsAt f g a i) (bitsAt f g b i / f.signBit % 2 == 1) [valAt f g b i])

/-- Func k of majors 0x14 and 0x15, k = 0x0 to 0xE (R240). -/
def scalarForm (f : Fmt) (k : Nat) (d a b : Reg) : LaneFn :=
  match k with
  | 0 => laneAdd f d a b | 1 => laneSub f d a b | 2 => laneMul f d a b | 3 => laneFma f d a b | 4 => laneNma f d a b
  | 5 => laneDiv f d a b | 6 => laneSqrt f d a | 7 => laneMin f d a b | 8 => laneMax f d a b | 9 => laneAbs f d a
  | 10 => laneNeg f d a | 11 => laneRnd f d a | 12 => laneClass f d a | 13 => laneScale f d a b
  | _ => laneCopysign f d a b

def execFadd (d a b : Reg) (s : State) : Out := fpOp s .dyn (laneAdd fp32 d a b)
def execFsub (d a b : Reg) (s : State) : Out := fpOp s .dyn (laneSub fp32 d a b)
def execFmul (d a b : Reg) (s : State) : Out := fpOp s .dyn (laneMul fp32 d a b)
def execFfma (d a b : Reg) (s : State) : Out := fpOp s .dyn (laneFma fp32 d a b)
def execFnma (d a b : Reg) (s : State) : Out := fpOp s .dyn (laneNma fp32 d a b)
def execFdiv (d a b : Reg) (s : State) : Out := fpOp s .dyn (laneDiv fp32 d a b)
def execFsqrt (d a : Reg) (s : State) : Out := fpOp s .dyn (laneSqrt fp32 d a)
def execFmin (d a b : Reg) (s : State) : Out := fpOp s .dyn (laneMin fp32 d a b)
def execFmax (d a b : Reg) (s : State) : Out := fpOp s .dyn (laneMax fp32 d a b)
def execFabs (d a : Reg) (s : State) : Out := fpOp s .dyn (laneAbs fp32 d a)
def execFneg (d a : Reg) (s : State) : Out := fpOp s .dyn (laneNeg fp32 d a)
def execFrnd (d a : Reg) (s : State) : Out := fpOp s .dyn (laneRnd fp32 d a)
def execFclass (d a : Reg) (s : State) : Out := fpOp s .dyn (laneClass fp32 d a)
def execFscale (d a b : Reg) (s : State) : Out := fpOp s .dyn (laneScale fp32 d a b)
def execFcopysign (d a b : Reg) (s : State) : Out := fpOp s .dyn (laneCopysign fp32 d a b)
def execFminnum (d a b : Reg) (s : State) : Out := fpOp s .dyn (laneMinNum fp32 d a b)
def execFmaxnum (d a b : Reg) (s : State) : Out := fpOp s .dyn (laneMaxNum fp32 d a b)

def execDadd (d a b : Reg) (s : State) : Out := fpOp s .dyn (laneAdd fp64 d a b)
def execDsub (d a b : Reg) (s : State) : Out := fpOp s .dyn (laneSub fp64 d a b)
def execDmul (d a b : Reg) (s : State) : Out := fpOp s .dyn (laneMul fp64 d a b)
def execDfma (d a b : Reg) (s : State) : Out := fpOp s .dyn (laneFma fp64 d a b)
def execDnma (d a b : Reg) (s : State) : Out := fpOp s .dyn (laneNma fp64 d a b)
def execDdiv (d a b : Reg) (s : State) : Out := fpOp s .dyn (laneDiv fp64 d a b)
def execDsqrt (d a : Reg) (s : State) : Out := fpOp s .dyn (laneSqrt fp64 d a)
def execDmin (d a b : Reg) (s : State) : Out := fpOp s .dyn (laneMin fp64 d a b)
def execDmax (d a b : Reg) (s : State) : Out := fpOp s .dyn (laneMax fp64 d a b)
def execDabs (d a : Reg) (s : State) : Out := fpOp s .dyn (laneAbs fp64 d a)
def execDneg (d a : Reg) (s : State) : Out := fpOp s .dyn (laneNeg fp64 d a)
def execDrnd (d a : Reg) (s : State) : Out := fpOp s .dyn (laneRnd fp64 d a)
def execDclass (d a : Reg) (s : State) : Out := fpOp s .dyn (laneClass fp64 d a)
def execDscale (d a b : Reg) (s : State) : Out := fpOp s .dyn (laneScale fp64 d a b)
def execDcopysign (d a b : Reg) (s : State) : Out := fpOp s .dyn (laneCopysign fp64 d a b)
def execDminnum (d a b : Reg) (s : State) : Out := fpOp s .dyn (laneMinNum fp64 d a b)
def execDmaxnum (d a b : Reg) (s : State) : Out := fpOp s .dyn (laneMaxNum fp64 d a b)

end Sys2Proof.Machine
end

