-- ==== Sys2Proof/Machine/Packed.lean ====
section
/-! DEFINITION. Packed FP16×2 and BF16×2, major 0x16 (R242, R243), and the special functions, major 0x17 (R244, R245). -/

namespace Sys2Proof.Machine

/-- Element h of a packed register. -/
def elem (w : Word) (h : Nat) : Nat := w.toNat / 2 ^ (16 * h) % 2 ^ 16

def elemVal (f : Fmt) (g : Gang) (r : Reg) (i h : Nat) : FVal := fdec f (elem (getReg g r.toNat i) h)

/-- Both elements' results packed, flags ORed (R239). -/
def packed (d : Reg) (r : Nat → Nat × FlagSet) : LaneOut := out1 d ((r 0).1 + 2 ^ 16 * (r 1).1, (r 0).2 ||| (r 1).2)

def lanePAdd (f : Fmt) (d a b : Reg) : LaneFn := fun g mode i =>
  packed d fun h => fadd f mode (elemVal f g a i h) (elemVal f g b i h)
def lanePSub (f : Fmt) (d a b : Reg) : LaneFn := fun g mode i =>
  packed d fun h => fadd f mode (elemVal f g a i h) (elemVal f g b i h).negate
def lanePMul (f : Fmt) (d a b : Reg) : LaneFn := fun g mode i =>
  packed d fun h => fmul f mode (elemVal f g a i h) (elemVal f g b i h)
def lanePFma (f : Fmt) (d a b : Reg) : LaneFn := fun g mode i =>
  packed d fun h => ffma f mode (elemVal f g a i h) (elemVal f g b i h) (elemVal f g d i h)
def lanePMin (f : Fmt) (d a b : Reg) : LaneFn := fun g _ i =>
  packed d fun h => fminmax f false (elem (getReg g a.toNat i) h) (elem (getReg g b.toNat i) h)
def lanePMax (f : Fmt) (d a b : Reg) : LaneFn := fun g _ i =>
  packed d fun h => fminmax f true (elem (getReg g a.toNat i) h) (elem (getReg g b.toNat i) h)

/-- Func k mod 8 of major 0x16 (R242). -/
def packedForm (f : Fmt) (k : Nat) (d a b : Reg) : LaneFn :=
  match k with
  | 0 => lanePAdd f d a b | 1 => lanePSub f d a b | 2 => lanePMul f d a b | 3 => lanePFma f d a b
  | 4 => lanePMin f d a b | _ => lanePMax f d a b

def execHadd2 (d a b : Reg) (s : State) : Out := fpOp s .dyn (lanePAdd fp16 d a b)
def execHsub2 (d a b : Reg) (s : State) : Out := fpOp s .dyn (lanePSub fp16 d a b)
def execHmul2 (d a b : Reg) (s : State) : Out := fpOp s .dyn (lanePMul fp16 d a b)
def execHfma2 (d a b : Reg) (s : State) : Out := fpOp s .dyn (lanePFma fp16 d a b)
def execHmin2 (d a b : Reg) (s : State) : Out := fpOp s .dyn (lanePMin fp16 d a b)
def execHmax2 (d a b : Reg) (s : State) : Out := fpOp s .dyn (lanePMax fp16 d a b)
def execBadd2 (d a b : Reg) (s : State) : Out := fpOp s .dyn (lanePAdd bf16 d a b)
def execBsub2 (d a b : Reg) (s : State) : Out := fpOp s .dyn (lanePSub bf16 d a b)
def execBmul2 (d a b : Reg) (s : State) : Out := fpOp s .dyn (lanePMul bf16 d a b)
def execBfma2 (d a b : Reg) (s : State) : Out := fpOp s .dyn (lanePFma bf16 d a b)
def execBmin2 (d a b : Reg) (s : State) : Out := fpOp s .dyn (lanePMin bf16 d a b)
def execBmax2 (d a b : Reg) (s : State) : Out := fpOp s .dyn (lanePMax bf16 d a b)

/-- d + a.0 × b.0 + a.1 × b.1, rounded once, specials as R172 (R243); an exact zero sum of other terms than −0 is +0 in every mode
(log 96). -/
def laneDot2 (f : Fmt) (d a b : Reg) : LaneFn := fun g mode i =>
  out1 d (sumProd fp32 mode true [[valAt fp32 g d i], [elemVal f g a i 0, elemVal f g b i 0],
    [elemVal f g a i 1, elemVal f g b i 1]])

def execHdot2f (d a b : Reg) (rnd : RMod) (s : State) : Out := fpOp s rnd (laneDot2 fp16 d a b)
def execBdot2f (d a b : Reg) (rnd : RMod) (s : State) : Out := fpOp s rnd (laneDot2 bf16 d a b)

/-! ## Special functions (R244, R245) -/

def laneCorrect (k : Nat) (d a : Reg) : LaneFn := fun g mode i => out1 d (correct k mode (getReg g a.toNat i))
def laneApprox (k : Nat) (d a : Reg) : LaneFn := fun g _ i => out1 d (approximate k (getReg g a.toNat i))

/-- Func k of major 0x17. -/
def specialForm (k : Nat) (d a : Reg) : LaneFn := if k ≤ 5 then laneCorrect k d a else laneApprox k d a

def execFrcp (d a : Reg) (s : State) : Out := fpOp s .dyn (laneCorrect 0 d a)
def execFrsqrt (d a : Reg) (s : State) : Out := fpOp s .dyn (laneCorrect 1 d a)
def execFexp2 (d a : Reg) (s : State) : Out := fpOp s .dyn (laneCorrect 2 d a)
def execFlog2 (d a : Reg) (s : State) : Out := fpOp s .dyn (laneCorrect 3 d a)
def execFsinpi (d a : Reg) (s : State) : Out := fpOp s .dyn (laneCorrect 4 d a)
def execFcospi (d a : Reg) (s : State) : Out := fpOp s .dyn (laneCorrect 5 d a)
def execFrcpA (d a : Reg) (s : State) : Out := fpOp s .dyn (laneApprox 8 d a)
def execFrsqrtA (d a : Reg) (s : State) : Out := fpOp s .dyn (laneApprox 9 d a)
def execFexp2A (d a : Reg) (s : State) : Out := fpOp s .dyn (laneApprox 10 d a)
def execFlog2A (d a : Reg) (s : State) : Out := fpOp s .dyn (laneApprox 11 d a)
def execFsinA (d a : Reg) (s : State) : Out := fpOp s .dyn (laneApprox 12 d a)
def execFcosA (d a : Reg) (s : State) : Out := fpOp s .dyn (laneApprox 13 d a)
def execFtanhA (d a : Reg) (s : State) : Out := fpOp s .dyn (laneApprox 14 d a)

end Sys2Proof.Machine
end

