-- ==== Sys2Proof/Machine/Convert.lean ====
section
/-! DEFINITION. Conversions, major 0x18 (R246 to R249), anchored accumulators, major 0x19 (R250 to R252), and the extended
rounding forms of all six floating-point majors (R238). -/

namespace Sys2Proof.Machine

/-! ## Between float formats (R246 to R248) -/

def laneF2d (d a : Reg) : LaneFn := fun g _ i => out2 d (fconv fp64 .rn false (valAt fp32 g a i))
def laneD2f (sat : Bool) (d a : Reg) : LaneFn := fun g mode i => out1 d (fconv fp32 mode sat (valAt fp64 g a i))

/-- d[15:0] from a and d[31:16] from b (R246). -/
def laneNarrow2 (f : Fmt) (sat : Bool) (d a b : Reg) : LaneFn := fun g mode i =>
  let x := fconv f mode sat (valAt fp32 g a i); let y := fconv f mode sat (valAt fp32 g b i)
  out1 d (x.1 + 2 ^ 16 * y.1, x.2 ||| y.2)

/-- Each half widened to FP32 (R246). -/
def laneWiden2 (f : Fmt) (d a : Reg) : LaneFn := fun g _ i =>
  let x := fconv fp32 .rn false (elemVal f g a i 0); let y := fconv fp32 .rn false (elemVal f g a i 1)
  out2 d (x.1 + 2 ^ 32 * y.1, x.2 ||| y.2)

/-- Two bytes into one half of d, the other half kept (R248). -/
def laneNarrow4 (f : Fmt) (sat hi : Bool) (d a b : Reg) : LaneFn := fun g mode i =>
  let x := fconv f mode sat (valAt fp32 g a i); let y := fconv f mode sat (valAt fp32 g b i)
  let two := x.1 + 2 ^ 8 * y.1
  let old := getReg g d.toNat i
  out1 d (if hi then elem old 0 + 2 ^ 16 * two else two + 2 ^ 16 * elem old 1, x.2 ||| y.2)

/-- Each byte widened to FP32, into a quad (R246). -/
def laneWiden4 (f : Fmt) (d a : Reg) : LaneFn := fun g _ i =>
  let r (j : Nat) := fconv fp32 .rn false (fdec f ((getReg g a.toNat i).toNat / 2 ^ (8 * j) % 256))
  ⟨(List.range 4).map fun j => (d.toNat + j, BitVec.ofNat 32 (r j).1), (r 0).2 ||| (r 1).2 ||| (r 2).2 ||| (r 3).2⟩

/-! ## Between floats and integers (R249) -/

def loOf (sgn : Bool) (w : Nat) : Int := if sgn then -2 ^ (w - 1) else 0
def hiOf (sgn : Bool) (w : Nat) : Int := if sgn then 2 ^ (w - 1) - 1 else 2 ^ w - 1

def laneToInt (f : Fmt) (sgn : Bool) (w : Nat) (d a : Reg) : LaneFn := fun g mode i =>
  let r := ftoInt mode (loOf sgn w) (hiOf sgn w) (valAt f g a i)
  ⟨wordsInto d (w / 32) (BitVec.ofInt w r.1).toNat, r.2⟩

/-- The integer in a single register or a pair. -/
def intAt (sgn : Bool) (w : Nat) (g : Gang) (a : Reg) (i : Nat) : Int :=
  let b : BitVec w := BitVec.ofNat w (if w = 64 then (pairOf g a.toNat i).toNat else (getReg g a.toNat i).toNat)
  if sgn then b.toInt else b.toNat

def laneOfInt (f : Fmt) (sgn : Bool) (w : Nat) (d a : Reg) : LaneFn := fun g mode i =>
  outF f d (froundInt f mode (intAt sgn w g a i) 0)

/-- Func k of major 0x18, with .SAT and .HI (R246, R248). -/
def convForm (k : Nat) (sat hi : Bool) (d a b : Reg) : LaneFn :=
  match k with
  | 0 => laneF2d d a | 1 => laneD2f sat d a | 2 => laneNarrow2 fp16 sat d a b | 3 => laneWiden2 fp16 d a
  | 4 => laneNarrow2 bf16 sat d a b | 5 => laneWiden2 bf16 d a | 6 => laneNarrow4 e4m3 sat hi d a b
  | 7 => laneNarrow4 e5m2 sat hi d a b | 8 => laneWiden4 e4m3 d a | 9 => laneWiden4 e5m2 d a
  | 10 => laneToInt fp32 true 32 d a | 11 => laneToInt fp32 false 32 d a | 12 => laneOfInt fp32 true 32 d a
  | _ => laneOfInt fp32 false 32 d a

def execF2d (d a : Reg) (s : State) : Out := fpOp s .dyn (laneF2d d a)
def execD2f (d a : Reg) (s : State) : Out := fpOp s .dyn (laneD2f false d a)
def execF2h (d a b : Reg) (s : State) : Out := fpOp s .dyn (laneNarrow2 fp16 false d a b)
def execH2f (d a : Reg) (s : State) : Out := fpOp s .dyn (laneWiden2 fp16 d a)
def execF2bf (d a b : Reg) (s : State) : Out := fpOp s .dyn (laneNarrow2 bf16 false d a b)
def execBf2f (d a : Reg) (s : State) : Out := fpOp s .dyn (laneWiden2 bf16 d a)
def execF2e4 (d a b : Reg) (s : State) : Out := fpOp s .dyn (laneNarrow4 e4m3 false false d a b)
def execF2e5 (d a b : Reg) (s : State) : Out := fpOp s .dyn (laneNarrow4 e5m2 false false d a b)
def execE42f (d a : Reg) (s : State) : Out := fpOp s .dyn (laneWiden4 e4m3 d a)
def execE52f (d a : Reg) (s : State) : Out := fpOp s .dyn (laneWiden4 e5m2 d a)
def execF2i (d a : Reg) (s : State) : Out := fpOp s .dyn (laneToInt fp32 true 32 d a)
def execF2u (d a : Reg) (s : State) : Out := fpOp s .dyn (laneToInt fp32 false 32 d a)
def execI2f (d a : Reg) (s : State) : Out := fpOp s .dyn (laneOfInt fp32 true 32 d a)
def execU2f (d a : Reg) (s : State) : Out := fpOp s .dyn (laneOfInt fp32 false 32 d a)
def execD2i (d a : Reg) (rnd : RMod) (s : State) : Out := fpOp s rnd (laneToInt fp64 true 32 d a)
def execD2u (d a : Reg) (rnd : RMod) (s : State) : Out := fpOp s rnd (laneToInt fp64 false 32 d a)
def execI2d (d a : Reg) (s : State) : Out := fpOp s .dyn (laneOfInt fp64 true 32 d a)
def execU2d (d a : Reg) (s : State) : Out := fpOp s .dyn (laneOfInt fp64 false 32 d a)
def execF2l (d a : Reg) (rnd : RMod) (s : State) : Out := fpOp s rnd (laneToInt fp32 true 64 d a)
def execF2ul (d a : Reg) (rnd : RMod) (s : State) : Out := fpOp s rnd (laneToInt fp32 false 64 d a)
def execL2f (d a : Reg) (rnd : RMod) (s : State) : Out := fpOp s rnd (laneOfInt fp32 true 64 d a)
def execUl2f (d a : Reg) (rnd : RMod) (s : State) : Out := fpOp s rnd (laneOfInt fp32 false 64 d a)
def execD2l (d a : Reg) (rnd : RMod) (s : State) : Out := fpOp s rnd (laneToInt fp64 true 64 d a)
def execD2ul (d a : Reg) (rnd : RMod) (s : State) : Out := fpOp s rnd (laneToInt fp64 false 64 d a)
def execL2d (d a : Reg) (rnd : RMod) (s : State) : Out := fpOp s rnd (laneOfInt fp64 true 64 d a)
def execUl2d (d a : Reg) (rnd : RMod) (s : State) : Out := fpOp s rnd (laneOfInt fp64 false 64 d a)

/-! ## Anchored accumulators (R176, R177, R250 to R252) -/

/-- Q of a quad as a signed integer (R176). -/
def qAt (g : Gang) (r : Reg) (i : Nat) : Int := (quadOf g r.toNat i).toInt

def outQ (d : Reg) (r : Int × FlagSet) : LaneOut := ⟨wordsInto d 4 (ofInt 128 r.1).toNat, r.2⟩

/-- The anchor of register b, when it lies from −2,048 to 2,047 (R250). -/
def anchorOf (g : Gang) (b : Reg) (i : Nat) : Option Int :=
  let a := (getReg g b.toNat i).toInt
  if -2048 ≤ a ∧ a ≤ 2047 then some a else none

/-- Add values one after another at the anchor of b; a bad anchor raises NV and leaves Q (R250). -/
def laneAadd (d b : Reg) (ys : Gang → Nat → List FVal) : LaneFn := fun g _ i =>
  match anchorOf g b i with
  | none => ⟨[], fNV⟩
  | some a => outQ d ((ys g i).foldl (fun (acc : Int × FlagSet) y =>
      let r := anchorAdd acc.1 a y; (r.1, acc.2 ||| r.2)) (qAt g d i, 0#8))

def laneAaddf (d a b : Reg) : LaneFn := laneAadd d b fun g i => [valAt fp32 g a i]
def laneAaddd (d a b : Reg) : LaneFn := laneAadd d b fun g i => [valAt fp64 g a i]
def laneAadd2 (f : Fmt) (d a b : Reg) : LaneFn := laneAadd d b fun g i => [elemVal f g a i 0, elemVal f g a i 1]

/-- Q(d) + Q(a); AO when the exact sum lies outside (R250). -/
def laneAaddq (d a : Reg) : LaneFn := fun g _ i =>
  let x := qAt g d i + qAt g a i
  outQ d (x, if outside128 x then fAO else 0)

/-- Q(a) × 2^A rounded once; a bad anchor gives the canonical NaN with NV (R250). -/
def laneAcvt (f : Fmt) (d a b : Reg) : LaneFn := fun g mode i =>
  match anchorOf g b i with
  | none => outF f d (f.nan, fNV)
  | some e => outF f d (froundInt f mode (qAt g a i) e)

def execAaddf (d a b : Reg) (s : State) : Out := fpOp s .dyn (laneAaddf d a b)
def execAaddd (d a b : Reg) (s : State) : Out := fpOp s .dyn (laneAaddd d a b)
def execAaddh (d a b : Reg) (s : State) : Out := fpOp s .dyn (laneAadd2 fp16 d a b)
def execAaddbf (d a b : Reg) (s : State) : Out := fpOp s .dyn (laneAadd2 bf16 d a b)
def execAaddq (d a : Reg) (s : State) : Out := fpOp s .dyn (laneAaddq d a)
def execAcvtf (d a b : Reg) (s : State) : Out := fpOp s .dyn (laneAcvt fp32 d a b)
def execAcvtd (d a b : Reg) (s : State) : Out := fpOp s .dyn (laneAcvt fp64 d a b)

/-- The exact sum over the active lanes, written to every one (R252). -/
def aredOut (g : Gang) (m : LaneMask) (d a : Reg) (i : Nat) : LaneOut :=
  let x := (copyLanes g m i).foldl (fun acc j => acc + qAt g a j) (0 : Int)
  outQ d (x, if outside128 x then fAO else 0)

def execAred (d a : Reg) (s : State) : Out :=
  withGang s fun g it =>
    let m := execMask g it
    finishFp s g ((lanesOf m).map fun i => (i, aredOut g m d a i))

/-! ## Extended rounding forms (R238) -/

/-- The same operation as func k of the major, with MOD and the options .SAT (FL[0]) and .HI (FL[1]). -/
def execFpExtendedRoundingForm (maj : FpMajor) (op : BitVec 4) (d a b : Reg) (rnd : RMod) (fl : BitVec 2) (s : State) : Out :=
  let k := op.toNat
  match maj with
  | .fp32 => fpOp s rnd (scalarForm fp32 k d a b)
  | .fp64 => fpOp s rnd (scalarForm fp64 k d a b)
  | .packed => fpOp s rnd (packedForm (if k < 8 then fp16 else bf16) (k % 8) d a b)
  | .special => fpOp s rnd (specialForm k d a)
  | .conv => fpOp s rnd (convForm k (fl.getLsbD 0) (fl.getLsbD 1) d a b)
  | .anchored =>
    match k with
    | 0 => fpOp s rnd (laneAaddf d a b)
    | 1 => fpOp s rnd (laneAaddd d a b)
    | 2 => fpOp s rnd (laneAadd2 fp16 d a b)
    | 3 => fpOp s rnd (laneAadd2 bf16 d a b)
    | 4 => fpOp s rnd (laneAaddq d a)
    | 5 => withGang s fun g it =>
        let m := execMask g it
        finishFp s g ((lanesOf m).map fun i => (i, aredOut g m d a i))
    | 6 => fpOp s rnd (laneAcvt fp32 d a b)
    | _ => fpOp s rnd (laneAcvt fp64 d a b)

end Sys2Proof.Machine
end

