-- ==== Sys2Proof/Machine/Spring.lean ====
section
/-! DEFINITION. Springs, majors 0x3C to 0x3F: the bank image, the micro-operations and one invocation (R329 to R337). -/

namespace Sys2Proof.Machine

/-! ## Images and micro-operation words (R330, R331) -/

/-- A bank image by offset; bytes that are not listed are 0. -/
abbrev Image := List (Nat × Byte)

def imageNat (im : Image) (off n : Nat) : Nat := natOfBytes ((List.range n).map fun i => readK 0#8 (off + i) im)

/-- Slot j of spring s. -/
def slotWord (im : Image) (s j : Nat) : DWord := BitVec.ofNat 64 (imageNat im (512 * s + 8 * j) 8)

/-- Entry e of the table of spring s. -/
def tableWord (im : Image) (s e : Nat) : Word := BitVec.ofNat 32 (imageNat im (0x8000 + 64 * s + 4 * e) 4)

/-- All 64 slots and the table are zero (R330). -/
def springEmptyIn (im : Image) (s : Nat) : Bool :=
  im.all fun p => p.2 == 0#8 || !((512 * s ≤ p.1 && p.1 < 512 * s + 512) || (0x8000 + 64 * s ≤ p.1 && p.1 < 0x8000 + 64 * s + 64))

def uOpc (w : DWord) : Nat := fld w 58 6
def uDst (w : DWord) : Nat := fld w 54 4
def uS1 (w : DWord) : Nat := fld w 50 4
def uS2 (w : DWord) : Nat := fld w 46 4
def uS3 (w : DWord) : Nat := fld w 42 4
def uRm (w : DWord) : RMode := rmodeOf (w.extractLsb' 40 2)
def uImm (w : DWord) : Word := w.extractLsb' 0 32
/-- N and E of a LOOP (R333). -/
def uN (w : DWord) : Nat := fld w 0 5
def uE (w : DWord) : Nat := fld w 8 6

/-- The code of a spring up to its END. -/
def springCode (im : Image) (s : Nat) : List DWord := ((List.range 64).map (slotWord im s)).takeWhile fun w => uOpc w != 1

/-- The spring writes d1 (R331). -/
def springWritesD1 (im : Image) (s : Nat) : Bool := (springCode im s).any fun w => uOpc w != 0x1A && uDst w == 9

/-- The bank image that serves the gang's springs: its region's image in a bank of its core (R342). -/
def gangImage (s : State) (g : Gang) : Option Image :=
  let a := heldSpring s (regionOf s g)
  if a = 0 then none else ((coreOf s g.core).banks.find? fun b => b.tag == a).map (·.image)

/-- The gang's spring n, when its region holds an image and the spring is not empty (R329). -/
def gangSpring (s : State) (g : Gang) (n : Nat) : Option Image := (gangImage s g).filter fun im => !springEmptyIn im n

/-! ## Micro-operations (R332) -/

/-- The value and flags of an operation other than END, LDL, LUT and LOOP. -/
def microOp (opc : Nat) (mode : RMode) (x y z : Word) : Word × FlagSet :=
  let f (w : Word) : FVal := fdec fp32 w.toNat
  let fp (r : Nat × FlagSet) : Word × FlagSet := (BitVec.ofNat 32 r.1, r.2)
  let bit (b : Bool) : Word := if b then 1 else 0
  match opc with
  | 0x02 => (x + y, 0) | 0x03 => (x - y, 0) | 0x04 => (x * y, 0)
  | 0x05 => (x &&& y, 0) | 0x06 => (x ||| y, 0) | 0x07 => (x ^^^ y, 0)
  | 0x08 => (shlBy x y.toNat, 0) | 0x09 => (shrBy x y.toNat, 0) | 0x0A => (sarBy x y.toNat, 0)
  | 0x0B => (BitVec.ofNat 32 (bfField x y), 0)
  | 0x0C => (bfInsert z x y, 0)
  | 0x0D => (if z != 0 then x else y, 0)
  | 0x0E => (bit (x == y), 0) | 0x0F => (bit (x.slt y), 0) | 0x10 => (bit (x.ult y), 0)
  | 0x11 => (minS x y, 0) | 0x12 => (maxS x y, 0)
  | 0x13 => fp (fadd fp32 mode (f x) (f y)) | 0x14 => fp (fmul fp32 mode (f x) (f y)) | 0x15 => fp (ffma fp32 mode (f x) (f y) (f z))
  | 0x16 => fp (froundInt fp32 mode x.toInt 0)
  | 0x17 => let r := ftoInt mode (loOf true 32) (hiOf true 32) (f x); (BitVec.ofInt 32 r.1, r.2)
  | _ => (0, 0)

/-- One lane of an invocation: temporaries, D, D1 and the flags gathered. -/
structure SpLane where
  lane : Nat
  t : List Word
  d : Word
  d1 : Word
  flags : FlagSet
deriving DecidableEq, Repr

/-- The spring as one gang runs it. -/
structure SpEnv where
  g : Gang
  im : Image
  n : Nat
  rd : Nat
  ra : Nat
  rb : Nat

/-- The course of an invocation: the state with the bank accesses performed, the lanes, and lanes that consumed poison. -/
structure SpRun where
  s : State
  lanes : List SpLane
  dead : List (Nat × DWord)

inductive SpOut where
  | ok (r : SpRun)
  | trap (t : Trap)
  | wait

def SpOut.bind (x : SpOut) (k : SpRun → SpOut) : SpOut :=
  match x with
  | .ok r => k r
  | .trap t => .trap t
  | .wait => .wait

/-- The value that a source code selects (R331). -/
def spSource (e : SpEnv) (l : SpLane) (w : DWord) (code : Nat) : Word :=
  if code < 8 then l.t.getD code 0
  else if code = 8 then getReg e.g e.ra l.lane
  else if code = 9 then getReg e.g e.rb l.lane
  else if code = 10 then getReg e.g e.rd l.lane
  else uImm w

def spWrite (l : SpLane) (dst : Nat) (v : Word) : SpLane :=
  if dst < 8 then { l with t := l.t.set dst v } else if dst = 8 then { l with d := v } else { l with d1 := v }

/-- TRAPINFO of SPRING (R336). -/
def springInfo (usub ucause iter uidx sub : Nat) : Word :=
  BitVec.ofNat 32 (usub * 2 ^ 24 + ucause * 2 ^ 18 + iter * 2 ^ 14 + uidx * 2 ^ 8 + sub)

/-- LDL in the lanes that take part (R334): the checks of every lane, then the scoreboard, then the reads. -/
def spLdl (e : SpEnv) (r : SpRun) (w : DWord) (j iter : Nat) (part : SpLane → Bool) : SpOut :=
  let rs := (r.lanes.filter part).map fun l => (l.lane, localCheck r.s e.g 4 (spSource e l w (uS1 w) + uImm w))
  let fails := rs.filterMap fun x => match x.2 with
    | .fail c i a => some (x.1, c, i, a) | _ => none
  match fails with
  | (_, c, i, a) :: _ => .trap { cause := cSPRING, info := springInfo (i.toNat % 256) c.toNat iter j 1, addr := some a,
                                 lanes := some (maskOf (fails.map (·.1))) }
  | [] =>
    let oks := laneOks rs
    match scoreWait r.s e.g.cohort (localRanges 4 oks) with
    | none => .wait
    | some s =>
      let dead := (oks.filter fun o => localPoisoned s e.g.cohort o.2.wg o.2.off 4).map fun o => (o.1, o.2.word)
      let val (lane : Nat) : Word := match oks.find? fun o => o.1 == lane with
        | some o => BitVec.ofNat 32 (natOfBytes (localBytes s e.g.cohort o.2.wg o.2.off 4))
        | none => 0
      .ok { s, dead := r.dead ++ dead,
            lanes := (r.lanes.filter fun l => !dead.any fun q => q.1 == l.lane).map fun l =>
              if part l then spWrite l (uDst w) (val l.lane) else l }

/-- Any other operation in the lanes that take part; an enabled flag abandons the invocation (R335, R336). -/
def spArith (e : SpEnv) (r : SpRun) (w : DWord) (j iter : Nat) (part : SpLane → Bool) : SpOut :=
  let out (l : SpLane) : Word × FlagSet :=
    if uOpc w = 0x19 then (tableWord e.im e.n ((spSource e l w (uS1 w)).toNat % 16), 0)
    else microOp (uOpc w) (uRm w) (spSource e l w (uS1 w)) (spSource e l w (uS2 w)) (spSource e l w (uS3 w))
  let bad := (r.lanes.filter part).filter fun l => enabled e.g (out l).2 != 0#8
  match bad with
  | l :: _ =>
    let fl : FlagSet := enabled e.g (out l).2
    .trap { cause := cSPRING, info := springInfo (fl.toNat % 32) 0x0F iter j 2, addr := none, lanes := some (maskOf (bad.map (·.lane))) }
  | [] =>
    let upd (l : SpLane) : SpLane := { spWrite l (uDst w) (out l).1 with flags := l.flags ||| (out l).2 }
    .ok { r with lanes := r.lanes.map fun l => if part l then upd l else l }

def spSlot (e : SpEnv) (r : SpRun) (j iter : Nat) (part : SpLane → Bool) : SpOut :=
  let w := slotWord e.im e.n j
  if uOpc w = 0x18 then spLdl e r w j iter part else spArith e r w j iter part

/-- A loop at slot L: its body, K times (R333). -/
def spLoop (e : SpEnv) (r : SpRun) (l : Nat) : SpOut :=
  let w := slotWord e.im e.n l
  let ks := r.lanes.map fun x => (x.lane, if uS1 w = 11 then uN w else min (spSource e x w (uS1 w)).toNat (uN w))
  (List.range (ks.foldl (fun m k => max m k.2) 0)).foldl (init := .ok r) fun o n =>
    (List.range (uE w - l)).foldl (init := o) fun o i =>
      o.bind fun r => spSlot e r (l + 1 + i) n fun x => decide (n < (getK x.lane ks).getD 0)

/-- Slots from j to END. -/
def spFrom (e : SpEnv) : Nat → Nat → SpRun → SpOut
  | 0, _, r => .ok r
  | fuel + 1, j, r =>
    let w := slotWord e.im e.n j
    if uOpc w = 1 ∨ 64 ≤ j then .ok r
    else if uOpc w = 0x1A then (spLoop e r j).bind fun r => spFrom e fuel (uE w + 1) r
    else (spSlot e r j 0 fun _ => true).bind fun r => spFrom e fuel (j + 1) r

/-- SPRING (R329, R335): all or nothing. -/
def execSpring (n : BitVec 6) (d a b : Reg) (s : State) : Out :=
  withGang s fun g it =>
    match gangSpring s g n.toNat with
    | none => raise s { cause := cILLEGAL, info := subInfo 0x29, addr := none, lanes := none }
    | some im =>
      let e : SpEnv := ⟨g, im, n.toNat, d.toNat, a.toNat, b.toNat⟩
      let lanes := (lanesOf (execMask g it)).map fun i =>
        { lane := i, t := List.replicate 8 0, d := getReg g d.toNat i, d1 := getReg g (d.toNat + 1) i, flags := 0 }
      match spFrom e 65 0 ⟨s, lanes, []⟩ with
      | .wait => stay s it
      | .trap t => raise s t
      | .ok r =>
        let d1 := springWritesD1 im n.toNat
        let fl : Word := BitVec.zeroExtend 32 (r.lanes.foldl (fun (f : FlagSet) l => f ||| l.flags) 0)
        let s' := modGang r.s it.gang fun g =>
          let h := r.lanes.foldl (fun h l =>
            let h := putReg h d.toNat l.lane l.d; if d1 then putReg h (d.toNat + 1) l.lane l.d1 else h) g
          { h with fpflags := h.fpflags ||| fl }
        finishLanes s (setIss s' fun it => { it with raised := it.raised ||| fl }) it.gang r.dead 0x32 none 0 0 [] []

end Sys2Proof.Machine
end

