-- ==== Sys2Proof/Machine/Uses.lean ====
section
/-! DEFINITION. What each instruction reads and writes of the registers, for the checks of a chain (R184), REGRANGE (R194),
lookahead (R186, R368) and poisoned registers (R377); the pipes (R201), the boundary instructions (R62), and the steps of
the device that stand between instructions. -/

namespace Sys2Proof.Machine

/-- Registers of an instruction: written, read by each executing lane, read by the leader alone (R195). `all` marks RDIND and
WRIND, which count as touching every register (R218). -/
structure Uses where
  writes : List Nat
  lane : List Nat
  uni : List Nat
  all : Bool
deriving DecidableEq, Repr

def Uses.reads (u : Uses) : List Nat := u.lane ++ u.uni
def Uses.touches (u : Uses) : List Nat := u.writes ++ u.reads

def one (r : Reg) : List Nat := [r.toNat]
def two (r : Reg) : List Nat := [r.toNat, r.toNat + 1]
def four (r : Reg) : List Nat := [r.toNat, r.toNat + 1, r.toNat + 2, r.toNat + 3]

/-- An instruction that reads by lane. -/
def vec (writes lane : List Nat) : Uses := ⟨writes, lane, [], false⟩
/-- An instruction that reads from the leader. -/
def uni (writes uni : List Nat) : Uses := ⟨writes, [], uni, false⟩

/-- off = 0 names no register (R190). -/
def offRegs (off : Reg) : List Nat := if off = 0#7 then [] else [off.toNat]
def basePair (base : BitVec 4) : List Nat := [2 * base.toNat, 2 * base.toNat + 1]

def loadUses (m : MemOp) (n : Nat) : Uses := ⟨dataRegs m.d n, offRegs m.off, basePair m.base, false⟩
def storeUses (m : MemOp) (n : Nat) : Uses := ⟨[], offRegs m.off ++ dataRegs m.d n, basePair m.base, false⟩

/-- The operand of an atomic, two values for CAS (R262). -/
def atomUses (x : AtomArgs) (base : List Nat) : Uses :=
  let n := atomSize x
  ⟨dataRegs x.d n, offRegs x.off ++ dataRegs x.c (if x.op = .cas then 2 * n else n), base, false⟩

def regSpan (w : Nat) (r : Reg) : List Nat := (List.range w).map (r.toNat + ·)

/-- A floating-point form with its extension word (R238). -/
def formUses (f : Option FpForm) (d a b : Reg) : Uses :=
  match f with
  | none => ⟨[], [], [], false⟩
  | some f => vec (regSpan f.wd d) (regSpan f.wa a ++ (if f.usesB then regSpan f.wb b else []) ++ if f.readsD then regSpan f.wd d else [])

/-- A spring reads a, b and d and writes d, and d + 1 where its code writes d1 (R329). -/
def springUses (s : State) (g : Gang) (n : BitVec 6) (d a b : Reg) : Uses :=
  let d1 := ((gangSpring s g n.toNat).map fun im => springWritesD1 im n.toNat).getD false
  let dd := if d1 then [d.toNat, d.toNat + 1] else [d.toNat]
  vec dd (one a ++ one b ++ dd)

def usesOf (s : State) (g : Gang) (i : Instr) : Uses :=
  match i with
  | .iadd d a b | .isub d a b | .imul d a b | .imulhi d a b | .imulhiu d a b | .imin d a b | .imax d a b | .iminu d a b
  | .imaxu d a b | .iadds d a b | .isubs d a b | .idivu d a b | .iremu d a b | .idiv d a b | .irem d a b | .iaddsu d a b
  | .isubsu d a b | .and d a b | .or d a b | .xor d a b | .andn d a b | .shl d a b | .shr d a b | .sar d a b
  | .rol d a b | .bfe d a b | .bfes d a b | .cmpeq d a b | .cmpne d a b | .cmplt d a b | .cmple d a b | .cmpltu d a b
  | .cmpleu d a b | .fcmpeq d a b | .fcmpne d a b | .fcmplt d a b | .fcmple d a b | .fcmpun d a b | .shflIdx d a b
  | .shflUp d a b | .shflDown d a b | .shflXor d a b | .fadd d a b | .fsub d a b | .fmul d a b | .fdiv d a b
  | .fmin d a b | .fmax d a b | .fscale d a b | .fcopysign d a b | .fminnum d a b | .fmaxnum d a b | .hadd2 d a b
  | .hsub2 d a b | .hmul2 d a b | .hmin2 d a b | .hmax2 d a b | .badd2 d a b | .bsub2 d a b | .bmul2 d a b
  | .bmin2 d a b | .bmax2 d a b | .f2h d a b | .f2bf d a b => vec (one d) (one a ++ one b)
  | .iabs d a | .not d a | .popc d a | .clz d a | .brev d a | .mov d a | .voteBallot d a | .voteAny d a | .voteAll d a
  | .redadd d a | .redmin d a | .redmax d a | .redminu d a | .redmaxu d a | .redand d a | .redor d a | .redxor d a
  | .scanadd d a | .fredadd d a _ | .fredmin d a _ | .fredmax d a _ | .fsqrt d a | .fabs d a | .fneg d a | .frnd d a
  | .fclass d a | .frcp d a | .frsqrt d a | .fexp2 d a | .flog2 d a | .fsinpi d a | .fcospi d a | .frcpA d a
  | .frsqrtA d a | .fexp2A d a | .flog2A d a | .fsinA d a | .fcosA d a | .ftanhA d a | .f2i d a | .f2u d a | .i2f d a
  | .u2f d a | .iaddi d a _ | .andi d a _ | .ori d a _ | .xori d a _ | .shli d a _ | .cmpeqi d a _ | .imuli d a _ => vec (one d) (one a)
  | .imad d a b | .bfi d a b | .sel d a b | .ffma d a b | .fnma d a b | .hfma2 d a b | .bfma2 d a b | .hdot2f d a b _
  | .bdot2f d a b _ | .f2e4 d a b | .f2e5 d a b => vec (one d) (one a ++ one b ++ one d)
  | .iadd64 d a b | .isub64 d a b | .imul64 d a b | .imin64 d a b | .imax64 d a b | .iminu64 d a b | .imaxu64 d a b
  | .dadd d a b | .dsub d a b | .dmul d a b | .ddiv d a b | .dmin d a b | .dmax d a b | .dcopysign d a b
  | .dminnum d a b | .dmaxnum d a b => vec (two d) (two a ++ two b)
  | .shl64 d a b | .shr64 d a b | .sar64 d a b | .dscale d a b => vec (two d) (two a ++ one b)
  | .imulw d a b | .imulwu d a b => vec (two d) (one a ++ one b)
  | .cmpeq64 d a b | .cmplt64 d a b | .cmpltu64 d a b | .cmple64 d a b | .cmpleu64 d a b | .dcmpeq d a b | .dcmpne d a b
  | .dcmplt d a b | .dcmple d a b | .dcmpun d a b => vec (one d) (two a ++ two b)
  | .mov64 d a | .dsqrt d a | .dabs d a | .dneg d a | .drnd d a | .d2l d a _ | .d2ul d a _ | .l2d d a _ | .ul2d d a _ => vec (two d) (two a)
  | .elect d | .movi d _ | .sysrd d _ | .sysrdCyclelo d | .spanOpen d | .leaseGet d => vec (one d) []
  | .dfma d a b | .dnma d a b => vec (two d) (two a ++ two b ++ two d)
  | .dclass d a | .d2f d a | .d2i d a _ | .d2u d a _ | .l2f d a _ | .ul2f d a _ => vec (one d) (two a)
  | .f2d d a | .h2f d a | .bf2f d a | .i2d d a | .u2d d a | .f2l d a _ | .f2ul d a _ => vec (two d) (one a)
  | .e42f d a | .e52f d a => vec (four d) (one a)
  | .aaddf d a b | .aaddh d a b | .aaddbf d a b => vec (four d) (one a ++ one b ++ four d)
  | .aaddd d a b => vec (four d) (two a ++ one b ++ four d)
  | .aaddq d a => vec (four d) (four a ++ four d)
  | .ared d a => vec (four d) (four a)
  | .acvtf d a b => vec (one d) (four a ++ one b)
  | .acvtd d a b => vec (two d) (four a ++ one b)
  | .movh d _ => vec (one d) (one d)
  | .movpc d _ => vec (two d) []
  | .call r _ => vec (two r) []
  | .brm r _ => uni [] (one r)
  | .ret a | .jmpi a => uni [] (two a)
  | .syswr d _ | .syswrFpflags d | .syswrGangctl d | .regsGrow d | .regsShrink d => uni [] (one d)
  | .leaseSet d mode => uni [] (if mode = .measured then [] else one d)
  | .gridLaunch d sp => uni (one sp) (two d)
  | .rdind d a => ⟨one d, one a, [], true⟩
  | .wrind a b => ⟨[], one a ++ one b, [], true⟩
  | .ld m | .ldAcq _ m => loadUses m (sizeBHWD m.sz)
  | .lds m => loadUses m (sizeLds m.sz)
  | .ldByp m => loadUses m (sizeByp m.sz)
  | .st m | .stRel _ m => storeUses m (sizeBHWD m.sz)
  | .stq m => storeUses m 16
  | .ldl m => ⟨dataRegs m.d (sizeBHWD m.sz), offRegs m.off, [2 * m.base.toNat], false⟩
  | .stl m => ⟨[], offRegs m.off ++ dataRegs m.d (sizeBHWD m.sz), [2 * m.base.toNat], false⟩
  | .prefL1 m | .prefLlc m => ⟨[], offRegs m.off, basePair m.base, false⟩
  | .atom x => atomUses x (basePair x.base)
  | .atoml x => atomUses x [2 * x.base.toNat]
  | .surfLd d a b => ⟨one d, two b, two a, false⟩
  | .surfSt d a b | .surfStc d a b | .surfMv d a b => ⟨[], two b ++ one d, two a, false⟩
  | .tex d a b => ⟨four d, four b, two a, false⟩
  | .rastKick d a => uni (one d) (two a)
  | .fgrid d a b | .fgrid2d d a b => ⟨[], four a, one d ++ two b, false⟩
  | .unpack d a b => uni (one d ++ one a) (one a ++ one b)
  | .pack d a b => ⟨one a, one d, one a ++ one b, false⟩
  | .mma _ _ a b _ | .mmaB _ _ a b _ | .accTolm _ a b | .accFromlm _ a b | .accCvt _ _ a b | .scacc _ _ a b => uni [] (one a ++ one b)
  | .accLd _ a b | .accSt _ a b | .tscaleBind _ a b | .wbufLd _ a b | .wbufLdsp _ a b => uni [] (two a ++ one b)
  | .accWin _ a => uni [] (one a)
  | .accZero _ b | .barInit _ b | .barExpect _ b => uni [] (one b)
  | .cpyKick a b => uni [] (one a ++ offRegs b)
  | .cpyStat _ b a => uni (one b) (one a)
  | .barTest b _ => vec (one b) []
  | .fpExtendedRoundingForm maj op d a b _ _ => formUses (fpForm maj op) d a b
  | .exit => vec [] (if fragmentGang s g then [4, 5, 6, 7] else [])
  | .spring sp d a b => springUses s g sp d a b
  | .reset | .linkTraining _ _ _ _ _ | .sqtailDoorbell _ | .hostRegisterWrite _ _ | .deviceInit _
  | .contextCreate _ _ _ _ _ _ | .regionCreate _ _ _ | .launch _ _ | .preempt _ _ | .resume _ _ | .pageMigrate _ _ _
  | .springBind _ _ | .keyLoad _ _ _ | .attest _ _ _ | .errorQuery _ _ _ _ | .capacityMap _ _ | .poisonClear _ _ _ _
  | .ownershipHandover _ _ _ | .handoverFromDevice _ _ _ | .spanCommit _ | .twoPhaseCommit _ | .favourGrant
  | .spanInstructionLimit _ | .pathRotation _ _ | .meteringPeriod _ | .copyChunk _ | .followOnOffer _
  | .matrixAccept _ _ | .matrixComplete _ _ | .scaleEntryArrival _ _ | .rasterBinning _ | .fragmentGangLaunch _
  | .fragmentBlend _ | .tileWriteBack _ | .cohortRetire _ | .cohortPlacement | .growthStall _ | .thermalMigration _
  | .preemption _ | .cohortRestore _ _ | .admissionDecision _ | .gangAging _ | .protectionEnd _
  | .leaseMeasurementWindow _ | .lostLocalityWindow _ | .clockCreditPeriod _ | .accWinGrant _ | .regsGrowGrant _ _
  | .asyncErrorDelivery _ | .uncorrectableError _ | .correctedSoftError _ | .nop | .bra _ | .join | .regang | .regangWg
  | .yield | .trap _ | .brk _ | .rtt | .fenceAcq _ | .fenceRel _ | .fenceSc _ | .spanClose | .barArrive _
  | .barWait _ | .hostCxlMemAccess _ _ _ _ | .partnerSnoop _ | .flitRetry _ _ => ⟨[], [], [], false⟩

/-- Members of an operand's quad whose values the instruction does not read (R294, R319): they count in a chain and for REGRANGE,
and their poison is not consumed. -/
def unread (i : Instr) : List Nat :=
  match i with
  | .tex _ _ b => [b.toNat + 3]
  | .fgrid _ a _ => [a.toNat + 3]
  | .fgrid2d _ a _ => [a.toNat + 2, a.toNat + 3]
  | _ => []

/-- The span code of a boundary instruction (R62). -/
def boundaryCode (i : Instr) : Option Nat :=
  match i with
  | .ldAcq _ _ | .stRel _ _ | .atom _ | .atoml _ | .fenceAcq _ | .fenceRel _ | .fenceSc _ | .barInit _ _
  | .barExpect _ _ | .barArrive _ | .barWait _ | .barTest _ _ | .cpyKick _ _ | .gridLaunch _ _ | .exit | .regangWg => some 0
  | .spanOpen _ | .spanClose => some 1
  | .mma _ _ _ _ _ | .mmaB _ _ _ _ _ | .accWin _ _ | .accZero _ _ | .accLd _ _ _ | .accFromlm _ _ _ | .accCvt _ _ _ _
  | .scacc _ _ _ _ | .tscaleBind _ _ _ | .wbufLd _ _ _ | .wbufLdsp _ _ _ | .fgrid _ _ _ | .fgrid2d _ _ _ | .rastKick _ _
  | .regsGrow _ | .regsShrink _ => some 2
  | _ => none

/-- The steps of the device, of the links and of the environment that come about between instructions. Firmware commands
reach the machine through the submission ring alone (R382), and instruction words through fetch. -/
def isEvent (i : Instr) : Bool :=
  match i with
  | .reset | .linkTraining _ _ _ _ _ | .sqtailDoorbell _ | .hostRegisterWrite _ _ | .ownershipHandover _ _ _
  | .handoverFromDevice _ _ _ | .spanCommit _ | .twoPhaseCommit _ | .favourGrant | .spanInstructionLimit _
  | .pathRotation _ _ | .meteringPeriod _ | .copyChunk _ | .followOnOffer _ | .matrixAccept _ _ | .matrixComplete _ _
  | .scaleEntryArrival _ _ | .rasterBinning _ | .fragmentGangLaunch _ | .fragmentBlend _ | .tileWriteBack _
  | .cohortRetire _ | .cohortPlacement | .growthStall _ | .thermalMigration _ | .preemption _ | .cohortRestore _ _
  | .admissionDecision _ | .gangAging _ | .protectionEnd _ | .leaseMeasurementWindow _ | .lostLocalityWindow _
  | .clockCreditPeriod _ | .accWinGrant _ | .regsGrowGrant _ _ | .asyncErrorDelivery _ | .uncorrectableError _
  | .correctedSoftError _ | .hostCxlMemAccess _ _ _ _ | .partnerSnoop _ | .flitRetry _ _ => true
  | _ => false

/-- The pipes of a core (R201). -/
inductive Pipe where
  | integer | fp | special | control | memory | tile
deriving DecidableEq, Repr

/-- The pipe of a major opcode (R201). -/
def pipeOf (maj : Nat) : Pipe :=
  if maj = 0x17 then .special
  else if maj = 0x05 ∨ (0x14 ≤ maj ∧ maj ≤ 0x19) then .fp
  else if 0x1C ≤ maj ∧ maj ≤ 0x21 then .control
  else if maj = 0x32 ∨ (0x34 ≤ maj ∧ maj ≤ 0x39) then .tile
  else if 0x24 ≤ maj ∧ maj ≤ 0x33 then .memory
  else .integer

end Sys2Proof.Machine
end

