-- ==== Sys2Proof/Machine/Fetch.lean ====
section
/-! DEFINITION. Instruction fetch (R180 to R182, R197), the chain that issues together (R184, R185), and the checks before any
member is performed (R203). -/

namespace Sys2Proof.Machine

/-! ## Packets -/

def Packet.word (p : Packet) (k : Nat) : Word :=
  match k with
  | 0 => p.w0 | 1 => p.w1 | 2 => p.w2 | _ => 0

/-- The outcome of a fetch: the packet, a trap reported at slot 0, or a wait. -/
inductive Fetch where
  | ok (s : State) (p : Packet)
  | trap (t : Trap)
  | wait (s : State)

/-- The checks of one word's fetch (R19, R27). -/
def codeCheck (s : State) (g : Gang) (va : DWord) : LaneRes Xlat :=
  match laneCheck s g .fetchCode 1 va with
  | .ok x => if x.poison || s.linePoison.contains (lineOf x.pa) then .fail cPOISON (subInfo 0x30) va else .ok x
  | r => r

/-- The packet's words pass, or the first of them fails or needs a hand-over. -/
def codeChecks (s : State) (g : Gang) : List DWord → LaneRes (List Xlat)
  | [] => .ok []
  | va :: r =>
    match codeCheck s g va with
    | .fail c i a => .fail c i a
    | .own a => .own a
    | .ok x => match codeChecks s g r with
      | .ok xs => .ok (x :: xs)
      | e => e

/-- The current instruction-cache lines of a packet, when all came from one fill (R197). -/
def codeHit (s : State) (g : Gang) (xs : List Xlat) : Option (List CacheLine) :=
  let ls := xs.map fun x => lineHit (coreOf s g.core).icache x g.acq
  match ls with
  | some c :: r => if r.all fun o => (o.map (·.fill)) == some c.fill then some (c :: r.filterMap id) else none
  | _ => none

/-- Fill the instruction-cache line of a word from its home slice (R197). -/
def codeFill (s : State) (g : Gang) (x : Xlat) : State :=
  let line := lineOf x.pa
  if ((lineHit (coreOf s g.core).icache x g.acq).map (·.fill)) = some s.now then s
  else
    let data := readBytes s (pteKey x.pte) (lineBase line) 128
    let (k, s) := nextFresh s
    modCore s g.core fun c => { c with icache := (cacheFill c.icache Config.l1Ways (Config.replaceWay k).toNat
      (fun _ => true) (fun _ => true) ⟨line, pteKey x.pte, s.now, data, g.uid, false⟩).1 }

/-- A word of a cache line. -/
def lineWord (c : CacheLine) (pa : Nat) : Word := BitVec.ofNat 32 (natOfBytes ((c.data.drop (pa % 128)).take 4))

/-- A packet from its words. -/
def packetOfWords (addr : DWord) (ws : List Word) : Packet := ⟨addr, ws.getD 0 0, ws.getD 1 0, ws.getD 2 0⟩

/-- The words of a packet read at the home slice, in one fill. -/
def homeWords (s : State) (xs : List Xlat) : List Word :=
  xs.map fun x => BitVec.ofNat 32 (natOfBytes (readBytes s (pteKey x.pte) x.pa 4))

/-- The packet at an address (R180, R197), for a split. A line at its home slice is one request (R53, R61). -/
def fetchPacket (s : State) (g : Gang) (split : Nat) (addr : DWord) : Fetch :=
  match codeChecks s g [addr, addr + 4, addr + 8] with
  | .fail c i a => .trap { cause := c, info := i, addr := some a, lanes := none }
  | .own a => .wait (requestHandover s (ctxOf s g) a fun r => { r with waiters := (g.uid :: r.waiters).eraseDups })
  | .ok xs =>
    let s := xs.foldl (fun s x => setAD s x false) s
    match codeHit s g xs with
    | some cs => .ok s (packetOfWords addr ((cs.zip xs).map fun q => lineWord q.1 q.2.pa))
    | none =>
      let (s, ok) := askLines s (.gang g.uid split) (regionOf s g) xs
      if !ok then .wait s
      else
        let ws := homeWords s xs
        .ok (xs.foldl (fun s x => codeFill s g x) s) (packetOfWords addr ws)

/-- The packet from which a split issues: the one it holds, beyond slot 0, else a fetch (R197). -/
def packetFor (s : State) (g : Gang) (split : Nat) (pc : DWord) : Fetch :=
  match (splitSlices g split).head?.bind (·.2.packet) with
  | some p => if pc.toNat % 4 ≠ 0 ∧ p.addr = packetOf pc then .ok s p else fetchPacket s g split (packetOf pc)
  | none => fetchPacket s g split (packetOf pc)

/-! ## Chains -/

/-- A member of a chain: its slot, its word, its instruction, and the slot after it. -/
structure Member where
  slot : Nat
  word : Word
  instr : Instr
  after : Nat
deriving DecidableEq, Repr

/-- An instruction that decodes and whose spring is not empty, or the subcause of ILLEGAL (R202, R329). -/
noncomputable def decodeFor (s : State) (g : Gang) (slot : Nat) (w x : Word) : Except Nat Instr :=
  match decode slot w x with
  | .error e => .error e.subcause
  | .ok i => match i with
    | .spring n _ _ _ => if (gangSpring s g n.toNat).isNone then .error 0x29 else .ok i
    | _ => .ok i

/-- The chain that starts at a slot (R184, R185). -/
noncomputable def chainFrom (s : State) (g : Gang) (p : Packet) : Nat → Nat → Except Nat (List Member)
  | 0, _ => .ok []
  | n + 1, k =>
    let w := p.word k
    match decodeFor s g k w (p.word (k + 1)) with
    | .error e => .error e
    | .ok i =>
      let after := k + wordCount w
      if fChain w && decide (after < 3) then
        match chainFrom s g p n after with
        | .error e => .error e
        | .ok l => .ok (⟨k, w, i, after⟩ :: l)
      else .ok [⟨k, w, i, after⟩]

/-- One member reads or writes a register that the other writes; RDIND and WRIND touch every register (R184, R218). -/
def conflict (x y : Uses) : Bool :=
  (x.all && !y.touches.isEmpty) || (y.all && !x.touches.isEmpty) || (x.writes.any fun r => y.touches.contains r)
    || y.writes.any fun r => x.touches.contains r

/-- The first member that stands in a relation to an earlier one. -/
def laterOf (rel : Member → Member → Bool) : List Member → List Member → Option Member
  | _, [] => none
  | before, m :: r => if before.any fun b => rel b m then some m else laterOf rel (before ++ [m]) r

/-- The first condition of R184 that holds: its subcause and the member whose PC TRAPADDR receives. -/
def chainFault (s : State) (g : Gang) (ms : List Member) : Option (Nat × Member) :=
  let at' (c : Nat) (o : Option Member) : Option (Nat × Member) := o.map fun m => (c, m)
  let open' := ms.getLast?.filter fun m => fChain m.word
  if ms.length < 2 then at' 1 open'
  else
    (at' 1 open').orElse fun _ =>
    (at' 2 (laterOf (fun x y => pipeOf (fMajor x.word).toNat == pipeOf (fMajor y.word).toNat) [] ms)).orElse fun _ =>
    (at' 3 (laterOf (fun x y => conflict (usesOf s g x.instr) (usesOf s g y.instr)) [] ms)).orElse fun _ =>
    (at' 4 (ms.find? fun m => pipeOf (fMajor m.word).toNat == .control && fChain m.word)).orElse fun _ =>
    at' 5 (ms.find? fun m => (boundaryCode m.instr).isSome)

/-- A privileged CSR access (R205). -/
def privFault (i : Instr) : Option Trap :=
  match i with
  | .sysrd _ csr => if 0x800 ≤ csr.toNat then some (privTrap csr) else none
  | .syswr _ csr => if 0x800 ≤ csr.toNat then some (privTrap csr) else none
  | _ => none

/-- The lowest register index at or beyond the allocation (R194). -/
def rangeFault (alloc : Nat) (rs : List Nat) : Option Nat :=
  match rs.filter fun r => decide (alloc ≤ r) with
  | [] => none
  | r :: l => some (l.foldl min r)

def illegal (sub : Nat) : Trap := { cause := cILLEGAL, info := subInfo sub, addr := none, lanes := none }

/-- REGRANGE of instructions that touch a register beyond the allocation (R194). -/
def rangeTrap (s : State) (g : Gang) (is : List Instr) : Option Trap :=
  (rangeFault g.alloc (is.flatMap fun i => (usesOf s g i).touches)).map fun r =>
    { cause := cREGRANGE, info := BitVec.ofNat 32 r, addr := none, lanes := none }

/-- The chain at a slot of a packet, or the trap of R203 that keeps all of it from being performed. -/
noncomputable def checkedChain (s : State) (g : Gang) (p : Packet) (slot : Nat) : Except Trap (List Member) :=
  match chainFrom s g p 3 slot with
  | .error sub => .error (illegal sub)
  | .ok ms => match chainFault s g ms with
    | some (c, m) => .error { cause := cCHAIN, info := subInfo c, addr := some (p.addr + BitVec.ofNat 64 m.slot), lanes := none }
    | none => match ms.findSome? fun m => privFault m.instr with
      | some t => .error t
      | none => match rangeTrap s g (ms.map (·.instr)) with
        | some t => .error t
        | none => .ok ms

end Sys2Proof.Machine
end

