-- ==== Sys2Proof/Machine/Launch.lean ====
section
/-! DEFINITION. Launch descriptors (R234), the checks of a launch and its status (R141, R142, R146, R236), and the queueing of
a grid (R344). -/

namespace Sys2Proof.Machine

/-- The 64 bytes of a launch descriptor (R234). -/
structure LaunchDesc where
  codeBase : DWord
  entry : Word
  shape : Word
  dims : Nat × Nat × Nat
  wgdim : Nat × Nat × Nat
  reservedZero : Bool
  region : Nat
  args : DWord
  done : DWord
deriving DecidableEq, Repr

def parseLaunch (bs : List Byte) : LaunchDesc :=
  { codeBase := dwordAt bs 0, entry := wordAt bs 8, shape := wordAt bs 12,
    dims := (natAt bs 16 4, natAt bs 20 4, natAt bs 24 4), wgdim := (natAt bs 28 2, natAt bs 30 2, natAt bs 32 2),
    reservedZero := zeroAt bs 34 6, region := natAt bs 40 8, args := dwordAt bs 48, done := dwordAt bs 56 }

/-! ## SHAPE (R234) -/

def shapeWgs (w : Word) : Nat := fld w 30 2 + 1
def shapeProt (w : Word) : Bool := w.getLsbD 29
def shapePolSet (w : Word) : Bool := w.getLsbD 28
def shapePol (w : Word) : Bool := w.getLsbD 27
def shapeMode (w : Word) : Nat := fld w 25 2
def shapeGranules (w : Word) : Nat := fld w 21 4 + 1
def shapeLeaseQ (w : Word) : Nat := fld w 13 8
def shapeLocal (w : Word) : Nat := fld w 0 13

def leaseModeOf (n : Nat) : LeaseMode :=
  match n with
  | 1 => .declared | 2 => .floor | _ => .measured

/-- Malformed descriptor: status 4 (R236). -/
def descMalformed (d : LaunchDesc) : Bool :=
  !d.reservedZero || shapeMode d.shape == 3 || (shapePol d.shape && !shapePolSet d.shape)
    || (if shapeMode d.shape = 0 then shapeLeaseQ d.shape != 0 else shapeLeaseQ d.shape == 0 || decide (128 < shapeLeaseQ d.shape))
    || decide (4096 < shapeLocal d.shape) || d.codeBase.toNat % 4096 != 0

def prod3 (p : Nat × Nat × Nat) : Nat := p.1 * p.2.1 * p.2.2
def all3 (p : Nat × Nat × Nat) (f : Nat → Bool) : Bool := f p.1 && f p.2.1 && f p.2.2

/-- Gangs of one workgroup (R141); in protected mode a gang has 16 visible lanes (R158). -/
def gangsPerWg (prot : Bool) (wgdim : Nat × Nat × Nat) : Nat :=
  if prot then (prod3 wgdim + 15) / 16 else (prod3 wgdim + 31) / 32

/-- Bytes of local memory that one workgroup takes with its spill areas (R142). -/
def wgLocal (localBytes gangs : Nat) : Nat := localBytes + 512 * gangs

/-- The geometry and fit rules of R141 and R142: status 1. The limit of 32 gangs follows from the WGDIM product; a protected
workgroup has up to 64 (R158; log 94). -/
def geometryBad (prot : Bool) (d : LaunchDesc) : Bool :=
  let n := gangsPerWg prot d.wgdim
  !all3 d.dims (fun x => 1 ≤ x && x ≤ 65536) || !all3 d.wgdim (1 ≤ ·) || decide (1024 < prod3 d.wgdim)
    || decide (524288 < wgLocal (128 * shapeLocal d.shape) n) || decide (64 < (n + 3) / 4 * shapeGranules d.shape)

/-- A region that no other names as its parent (R146). -/
def isLeafRegion (s : State) (pa : Nat) : Bool := !s.regions.any fun r => r.parent == pa

/-- REGION does not name a leaf of the context, or its PRIO exceeds the launching region's: status 2. -/
def regionBad (s : State) (ctx : Nat) (launcher : Option Nat) (pa : Nat) : Bool :=
  match region? s pa with
  | none => true
  | some r => r.ctx != ctx || !isLeafRegion s pa
      || (launcher.map fun l => decide (heldPrio s l < heldPrio s pa)).getD false

/-- Cohorts of a grid (R141). -/
def gridCohorts (g : Grid) : Nat := prod3 g.dims

/-- Device-launched grids of the region that are not yet placed (R236, status 3). -/
def unplacedGrids (s : State) (pa : Nat) : Nat :=
  (s.grids.filter fun g => g.device && g.region == pa && decide (g.placed < gridCohorts g)).length

/-- The status of R236 for a descriptor that was read, in the order 4, 2, 1, 3. -/
def launchStatus (s : State) (ctx : Nat) (launcher : Option Nat) (target : Nat) (d : LaunchDesc) : Nat :=
  if descMalformed d then 4
  else if regionBad s ctx launcher target then 2
  else if geometryBad (shapeProt d.shape || heldProt s target) d then 1
  else if 16 ≤ unplacedGrids s target then 3
  else 0

/-- The grid of a launch that passed its checks; protected mode and policy follow R146 and R72. -/
def mkGrid (s : State) (ctx target : Nat) (launcher : Option Nat) (floor : Nat) (d : LaunchDesc) : Grid :=
  { uid := s.nextUid, ctx, region := target, codeBase := d.codeBase, entry := d.entry, wgs := shapeWgs d.shape,
    prot := shapeProt d.shape || heldProt s target,
    pol := if shapePolSet d.shape then shapePol d.shape else heldPol s target,
    lmode := leaseModeOf (shapeMode d.shape), lease := 16 * shapeLeaseQ d.shape, granules := shapeGranules d.shape,
    localBytes := 128 * shapeLocal d.shape, dims := d.dims, wgdim := d.wgdim, args := d.args, doneVa := d.done,
    device := launcher.isSome, launcher := launcher.getD target, launchFloor := floor, doneFail := none,
    placed := 0, retired := 0, stamp := 0,
    raster := none, masks := 0, laneRegs := [] }

/-- The grid enters its region's queue (R344). -/
def queueGrid (s : State) (g : Grid) : State :=
  let s := { s with grids := s.grids ++ [g], nextUid := s.nextUid + 1 }
  modRegion s g.region fun r => { r with queue := r.queue ++ [.fresh g.uid 0] }

/-- Check and queue a launch: its status and the state (R235, step 3; R236). -/
def tryLaunch (s : State) (ctx : Nat) (launcher : Option Nat) (target floor : Nat) (d : LaunchDesc) : State × Nat :=
  let st := launchStatus s ctx launcher target d
  (if st = 0 then queueGrid s (mkGrid s ctx target launcher floor d) else s, st)

end Sys2Proof.Machine
end

