-- ==== Sys2Proof/Machine/Sync.lean ====
section
/-! DEFINITION. Fences, transactions, leases, register allocation and GRID.LAUNCH, major 0x21 (R78, R79, R234 to R236, R265
to R269). -/

namespace Sys2Proof.Machine

/-! ## Fences (R266) -/

/-- What FENCE.ACQ does: the floor rises to the pending floor, the acquire point moves at COHORT or wider (R92, R42). -/
def fenceAcquire (s : State) (uid : Nat) (sc : Scope) : State :=
  acquireEvent s uid sc (((gang? s uid).map (·.pendFloor)).getD 0)

def execFenceAcq (sc : Scope) (s : State) : Out :=
  boundary 0 false s fun s _ it => doneBoundary (fenceAcquire s it.gang sc) it.gang

def execFenceRel (_sc : Scope) (s : State) : Out :=
  boundary 0 false s fun s _ it => doneBoundary (fenceRelease s it.gang) it.gang

/-- FENCE.SC does both; its release takes the floor after the acquire. -/
def execFenceSc (sc : Scope) (s : State) : Out :=
  boundary 0 false s fun s _ it => doneBoundary (fenceRelease (fenceAcquire s it.gang sc) it.gang) it.gang

/-! ## Transactions (R78, R79, R267) -/

/-- SPAN.OPEN: the checkpoint is taken before d is written, with the PC after SPAN.OPEN. Status 4 is written by the one at which the
trap of its transaction was delivered (R79). -/
def execSpanOpen (d : Reg) (s : State) : Out :=
  boundary 1 false s fun s g it =>
    let m := execMask g it
    let status := if g.span.txNext = some (it.split, it.pc) then 4 else 0
    let sp := { emptySpan g with tx := some ⟨d, m, it.pc, it.npc, it.split⟩, txNext := if status = 4 then none else g.span.txNext }
    .next (setGang s (putAll { g with span := sp } m d (BitVec.ofNat 32 status)))

def execSpanClose (s : State) : Out :=
  boundary 1 true s fun s _ it => doneBoundary s it.gang

/-! ## Leases (R268, R350) -/

def execLeaseSet (d : Reg) (mode : LeaseMode) (s : State) : Out :=
  withGang s fun g it =>
    let n := (uniform g (execMask g it) d.toNat).toNat
    if mode = .measured then .next (setGang s { g with lease := { g.lease with decl := 0, mode, changed := true } })
    else if n < 16 ∨ 2048 < n then raise s { cause := cILLEGAL, info := subInfo 0x21, addr := none, lanes := none }
    else .next (setGang s { g with lease := { g.lease with decl := ceilTo 16 n, mode, changed := true } })

/-- The word of LEASE.GET (R268). -/
def leaseWord (l : Lease) : Word :=
  let n := appliedLease l
  BitVec.ofNat 32 ((if 1792 < n then 2 ^ 31 else 0) + min 32767 l.lost * 2 ^ 16 + (encLease l.mode).toNat * 2 ^ 14 + n)

def execLeaseGet (d : Reg) (s : State) : Out :=
  withGang s fun g it => .next (setGang s (putAll g (execMask g it) d (leaseWord g.lease)))

/-! ## Register allocation (R269, R347, R358) -/

/-- Granules that the resident gangs hold in a partition of a core. -/
def granulesUsed (s : State) (core part : Nat) : Nat :=
  s.gangs.foldl (fun n g => if g.core == core && partOf g == part && !g.ended
    && ((cohortOf s g).map (·.resident)).getD false then n + g.alloc / 8 else n) 0

/-- Free granules of a partition (R347: 64 in all). -/
def freeGranules (s : State) (core part : Nat) : Nat := 64 - granulesUsed s core part

/-- Waiting growers of a partition, first in first. -/
def growersOf (s : State) (core part : Nat) : List (Nat × Nat) :=
  (coreOf s core).growers.filter fun q => match gang? s q.1 with
    | some g => partOf g == part
    | none => false

/-- The new registers of a grown allocation read as 0 (R269). -/
def grow (n : Nat) (g : Gang) : Gang :=
  { g with alloc := n, regs := g.regs.filter fun r => decide (r.1 / 32 < g.alloc),
           regPoison := g.regPoison.filter fun r => decide (r / 32 < g.alloc) }

/-- The registers from n upward are discarded (R269). -/
def shrink (n : Nat) (g : Gang) : Gang :=
  { g with alloc := n, regs := g.regs.filter fun r => decide (r.1 / 32 < n),
           regPoison := g.regPoison.filter fun r => decide (r / 32 < n) }

/-- The regions whose path to the root holds a node (R145). -/
def regionsUnder (s : State) (h : Nat) : List Nat :=
  (s.regions.filter fun r => (pathOf s r.pa).any fun x => x.pa == h).map (·.pa)

def regsOutOfRange (s : State) : Out := raise s { cause := cILLEGAL, info := subInfo 0x22, addr := none, lanes := none }

/-- REGQ of a region as held. -/
def heldRegq (s : State) (pa : Nat) : Nat := ((holder s pa .regq).map (·.regq)).getD 0

def execRegsGrow (d : Reg) (s : State) : Out :=
  boundary 2 false s fun s g it =>
    if engineOpen s it.gang then stay s it
    else
      let n := ceilTo 8 (uniform g (execMask g it) d.toNat).toNat
      if n = 0 ∨ 128 < n then regsOutOfRange s
      else if heldRegq s (regionOf s g) < n / 8 then
        raise s { cause := cILLEGAL, info := subInfo 0x23, addr := none, lanes := none }
      else if n ≤ g.alloc then doneBoundary s it.gang
      else if (growersOf s g.core (partOf g)).isEmpty && decide (n / 8 - g.alloc / 8 ≤ freeGranules s g.core (partOf g)) then
        doneBoundary (setGang s (grow n g)) it.gang
      else
        let s := modCore s g.core fun c => { c with growers := c.growers ++ [(it.gang, n)] }
        .next (stopChain (setGang s (park g it (.grow n it.split))))

def execRegsShrink (d : Reg) (s : State) : Out :=
  boundary 2 false s fun s g it =>
    if engineOpen s it.gang then stay s it
    else
      let n := ceilTo 8 (uniform g (execMask g it) d.toNat).toNat
      if n = 0 ∨ 128 < n then regsOutOfRange s
      else if g.alloc ≤ n then doneBoundary s it.gang
      else doneBoundary (setGang s (shrink n g)) it.gang

/-! ## GRID.LAUNCH (R234 to R236) -/

/-- The target region: REGION, or the launching gang's when it is 0. -/
def launchTarget (s : State) (g : Gang) (d : LaunchDesc) : Nat := if d.region = 0 then regionOf s g else d.region

def execGridLaunch (d sreg : Reg) (s : State) : Out :=
  boundary 0 false s fun s g it =>
    let m := execMask g it
    let va := uniformPair g m d.toNat
    if va.toNat % 64 ≠ 0 then raise s { cause := cMISALIGN, info := subInfo 1, addr := some va, lanes := none }
    else match laneCheck s g .load 64 va with
      | .own a => awaitHandover s it (ctxOf s g) a
      | .fail c i a => raise s { cause := c, info := i, addr := some a, lanes := none }
      | .ok x =>
        if x.poison || s.linePoison.contains (lineOf x.pa) then
          raise s { cause := cPOISON, info := subInfo 0x30, addr := some va, lanes := none }
        else match askLine s (.gang it.gang it.split) (regionOf s g) x with
        | (s, false) => stay s it
        | (s, true) =>
          let s := noteSeen (setAD s x false) it.gang [lineOf x.pa] s.now
          let desc := parseLaunch (homeBytes s x 64).1
          let s := releaseEvent s it.gang
          let (s, st) := tryLaunch s (ctxOf s g) (some (regionOf s g)) (launchTarget s g desc) g.floor desc
          doneBoundary (modGang s it.gang fun g => putAll g m sreg (BitVec.ofNat 32 st)) it.gang

end Sys2Proof.Machine
end

