-- ==== Sys2Proof/Machine/Barrier.lean ====
section
/-! DEFINITION. The barrier forms, major 0x39 (R270 to R273). -/

namespace Sys2Proof.Machine

/-- Raise BARRIER (R273). -/
def barTrap (sub : Nat) (s : State) : Out := raise s { cause := cBARRIER, info := subInfo sub, addr := none, lanes := none }

/-- A barrier operand: the workgroup it names and the name (R270). -/
def barTarget (g : Gang) : BarName → Nat × Nat
  | .own n => (g.wg, n.toNat)
  | .basin q n => (q.toNat, n.toNat)

/-- The workgroup that a barrier operand names, when it lies in the cohort. -/
def barWg (s : State) (cohort w : Nat) : Option Workgroup := (cohort? s cohort).bind fun c => workgroup? c w

/-- The object that a name of a workgroup is bound to: its core and number. -/
def boundObj (s : State) (cohort w name : Nat) : Option (Nat × Nat) :=
  (barWg s cohort w).bind fun x => (getK name x.names).map fun o => (x.core, o)

/-- Lowest object of a core that no name is bound to (R270). -/
def freeObj (s : State) (core : Nat) : Option Nat :=
  (List.range 128).find? fun o => (barObj s core o).isNone

/-- Some gang waits on the object. -/
def anyWaits (s : State) (core obj : Nat) : Bool :=
  s.gangs.any fun g => match g.sched.wait with
    | .barrier c o _ => c == core && o == obj
    | _ => false

/-- PART of BAR.INIT (R272). -/
def partSet (s : State) (g : Gang) (pset : Nat) : List Nat :=
  let live := gangsOf s g.cohort
  match pset with
  | 1 => (live.filter fun h => h.wg == g.wg).map (·.uid)
  | 2 => live.map (·.uid)
  | _ => []

/-- The object as BAR.INIT sets it, and the gangs' W (R271, R272); no arrival has been made in it yet. -/
def initObj (s : State) (core obj : Nat) (e : Nat) (part : List Nat) : State :=
  let old := barObj s core obj
  let s := setBarObj s core obj { e, arr := e, bytes := 0, phase := 0, part, stamp := (old.map (·.stamp)).getD 0, arrived := false }
  { s with gangs := s.gangs.map fun g => setBarRec g ⟨core, obj, 0, noArrival⟩ }

/-- The objects of a bound name meet BAR.INIT's third condition of R273. -/
def initBusy (s : State) (core obj : Nat) : Bool :=
  anyWaits s core obj || match barObj s core obj with
    | none => false
    | some b => b.arrived || b.bytes != 0

def execBarInit (bar : BarName) (b : Reg) (s : State) : Out :=
  boundary 0 false s fun s g it =>
    let (w, name) := barTarget g bar
    let v := uniform g (execMask g it) b.toNat
    match barWg s g.cohort w with
    | none => barTrap 2 s
    | some x =>
      if fld v 30 2 = 3 ∨ fld v 8 22 ≠ 0 then barTrap 7 s
      else match getK name x.names with
        | some o =>
          if initBusy s x.core o then barTrap 3 s
          else doneBoundary (initObj s x.core o (fld v 0 8) (partSet s g (fld v 30 2))) it.gang
        | none => match freeObj s x.core with
          | none => barTrap 6 s
          | some o =>
            let s := modWg s g.cohort w fun x => { x with names := setK name o x.names }
            doneBoundary (initObj s x.core o (fld v 0 8) (partSet s g (fld v 30 2))) it.gang

/-- A form on a name that must be bound: subcause 0x02, then 0x01 (R273). -/
def withBound (s : State) (g : Gang) (bar : BarName) (k : Nat → Nat → BarObj → Out) : Out :=
  let (w, name) := barTarget g bar
  if (barWg s g.cohort w).isNone then barTrap 2 s
  else match boundObj s g.cohort w name with
    | none => barTrap 1 s
    | some (core, o) => match barObj s core o with
      | none => barTrap 1 s
      | some b => k core o b

/-- BAR.EXPECT: an amount of 0 changes no count, so no phase completes by it (R271, R272); nor does a phase of an object with E = 0,
which only a count-down completes (R272). -/
def execBarExpect (bar : BarName) (b : Reg) (s : State) : Out :=
  boundary 0 false s fun s g it =>
    withBound s g bar fun core o obj =>
      let n := obj.bytes + (uniform g (execMask g it) b.toNat).toNat
      if 2 ^ 31 - 1 < n then barTrap 5 s
      else
        let s := modGang s it.gang fun g => setBarRec g { barRec g core o with w := obj.phase }
        let obj' := { obj with bytes := n }
        doneBoundary (if n = obj.bytes ∨ obj.e = 0 then setBarObj s core o obj' else barSettle s core o obj') it.gang

def execBarArrive (bar : BarName) (s : State) : Out :=
  boundary 0 false s fun s g it =>
    withBound s g bar fun core o obj =>
      if obj.arr = 0 then barTrap 4 s
      else
        let s := releaseEvent s it.gang
        let s := modGang s it.gang fun g => setBarRec g ⟨core, o, obj.phase, obj.phase⟩
        doneBoundary (barSettle s core o { obj with arr := obj.arr - 1, stamp := max obj.stamp g.floor, arrived := true }) it.gang

def execBarWait (bar : BarName) (s : State) : Out :=
  boundary 0 false s fun s g it =>
    withBound s g bar fun core o obj =>
      if later obj.phase (barRec g core o).w then
        doneBoundary (modGang s it.gang (barAcquire s.now core o obj)) it.gang
      else .next (stopChain (setGang s (park g it (.barrier core o it.split))))

def execBarTest (b : Reg) (bar : BarName) (s : State) : Out :=
  boundary 0 false s fun s g it =>
    withBound s g bar fun core o obj =>
      let m := execMask g it
      if later obj.phase (barRec g core o).w then
        doneBoundary (modGang s it.gang fun g => putAll (barAcquire s.now core o obj g) m b 1#32) it.gang
      else doneBoundary (modGang s it.gang fun g => putAll g m b 0#32) it.gang

end Sys2Proof.Machine
end

