-- ==== Sys2Proof/Machine/MatData.lean ====
section
/-! DEFINITION. Data of the matrix engine: element encodings (R168, R169, R285), the forms of MMA (R286), operand words (R281,
R282), the stores of an engine (R274, R283) and the arithmetic of one cell (R172 to R175, R287, R291, R293). -/

namespace Sys2Proof.Machine

/-! ## Elements (R168, R169, R285) -/

/-- An element encoding of an A row or a B column. -/
inductive Elt where
  | pe (w : Nat)
  | fl (f : Fmt)
  | int (bytes : Nat) (uns : Bool)
deriving DecidableEq, Repr

/-- Bytes of one PE block: a header word and 32 elements of w bits. -/
def peBlock (w : Nat) : Nat := 4 + 4 * w

/-- Element t of consecutive PE blocks (R169). -/
def peVal (w : Nat) (bs : List Byte) (t : Nat) : FVal :=
  let base := t / 32 * peBlock w
  let h := natAt bs base 4
  let e := h % 256
  if e = 255 then .nan false
  else
    let q := (BitVec.ofNat w (natAt bs (base + 4) (4 * w) / 2 ^ (w * (t % 32)))).toInt
    let sh := h / 2 ^ (8 + 3 * (t % 32 / 4)) % 8
    .fin (q < 0) q.natAbs ((e : Int) - 127 - ((w : Int) - 2) - sh)

/-- An integer element. -/
def intVal (n : Nat) (uns : Bool) (bs : List Byte) (t : Nat) : Int :=
  let v := natAt bs (n * t) n
  if uns then v else (BitVec.ofNat (8 * n) v).toInt

def eltVal (e : Elt) (bs : List Byte) (t : Nat) : FVal :=
  match e with
  | .pe w => peVal w bs t
  | .fl f => let n := f.width / 8; fdec f (natAt bs (n * t) n)
  | .int n u => let v := intVal n u bs t; .fin (v < 0) v.natAbs 0

def eltInt (e : Elt) (bs : List Byte) (t : Nat) : Int :=
  match e with
  | .int n u => intVal n u bs t
  | _ => 0

/-! ## The forms of MMA (R286) -/

structure Form where
  a : Elt
  b : Elt
  k : Nat
  rate : Nat
  sparse : Bool
deriving DecidableEq, Repr

def fp8Of (x e5 : Bool) : Elt := .fl (if x != e5 then e5m2 else e4m3)

/-- The form of a func with flags[0] and flags[1]. -/
def formOf (func : BitVec 4) (flags : BitVec 3) : Form :=
  let fa := flags.getLsbD 0
  let fb := flags.getLsbD 1
  match func.toNat with
  | 0 => ⟨.pe 3, .pe 3, 288, 65536, false⟩
  | 1 => ⟨.pe 5, .pe 5, 192, 32768, false⟩
  | 2 => ⟨.pe 8, .pe 8, 128, 16384, false⟩
  | 3 => ⟨fp8Of fa false, fp8Of fb false, 144, 16384, false⟩
  | 4 => ⟨fp8Of fa true, fp8Of fb true, 144, 16384, false⟩
  | 5 => ⟨.fl bf16, .fl bf16, 72, 8192, false⟩
  | 6 => ⟨.fl fp16, .fl fp16, 72, 8192, false⟩
  | 7 => ⟨.int 1 fa, .int 1 fb, 144, 16384, false⟩
  | 8 => ⟨.int 2 fa, .int 1 fb, 72, 4096, false⟩
  | 9 => ⟨.pe 5, .pe 5, 192, 65536, true⟩
  | 10 => ⟨.pe 8, .pe 8, 128, 32768, true⟩
  | 11 => ⟨fp8Of fa false, fp8Of fb false, 144, 32768, true⟩
  | 12 => ⟨fp8Of fa true, fp8Of fb true, 144, 32768, true⟩
  | 13 => ⟨.fl bf16, .fl bf16, 72, 16384, true⟩
  | 14 => ⟨.fl fp16, .fl fp16, 72, 16384, true⟩
  | _ => ⟨.int 1 fa, .int 1 fb, 144, 32768, true⟩

def isInt : Elt → Bool
  | .int _ _ => true | _ => false

/-- INT16 × INT8: a cell takes two columns (R287). -/
def wideForm (func : BitVec 4) : Bool := func = 8#4

/-- Which kept value stands at position t of a sparse column: the second one where i1 = i0 (R285). -/
def keptAt (metaBytes : List Byte) (t : Nat) : Option Nat :=
  let n := natAt metaBytes (t / 8) 1 / 16 ^ (t / 4 % 2) % 16
  if t % 4 = n / 4 then some (t / 4 * 2 + 1) else if t % 4 = n % 4 then some (t / 4 * 2) else none

/-- Element t of a column slot: its data area and its metadata area. -/
def slotVal (f : Form) (slot : List Byte) (t : Nat) : FVal :=
  if !f.sparse then eltVal f.b slot t
  else match keptAt (slot.drop 144) t with
    | some u => eltVal f.b slot u
    | none => .fin false 0 0

def slotInt (f : Form) (slot : List Byte) (t : Nat) : Int :=
  if !f.sparse then eltInt f.b slot t
  else match keptAt (slot.drop 144) t with
    | some u => eltInt f.b slot u
    | none => 0

/-- One cell of a float form (R172). -/
def floatCell (f : Form) (acc : Word) (row slot : List Byte) : Word × FlagSet :=
  let r := sumProd fp32 .rn true
    ([fdec fp32 acc.toNat] :: (List.range f.k).map fun t => [eltVal f.a row t, slotVal f slot t])
  (BitVec.ofNat 32 r.1, r.2)

/-- One cell of an integer form, of width w (R174). -/
def intCell (f : Form) (w : Nat) (acc : BitVec w) (row slot : List Byte) : BitVec w × FlagSet :=
  let x : Int := (List.range f.k).foldl (fun s t => s + eltInt f.a row t * slotInt f slot t) acc.toInt
  (ofInt w x, if x < -2 ^ (w - 1) ∨ 2 ^ (w - 1) ≤ x then fIOV else 0)

/-- Engine cycles of an MMA (R287). -/
def mmaCycles (f : Form) (m n : Nat) : Nat := (m * n * f.k + f.rate - 1) / f.rate

/-! ## Operand words (R281, R282) -/

/-- A local operand word: row stride in bytes, workgroup, offset. -/
structure Low where
  stride : Nat
  wg : Nat
  off : Nat
deriving DecidableEq, Repr

def parseLow (w : Word) : Low := ⟨16 * fld w 21 11, fld w 19 2, 16 * fld w 4 15⟩
def lowMalformed (w : Word) : Bool := fld w 0 4 != 0
def Low.row (l : Low) (r : Nat) : Nat := l.off + l.stride * r

/-- The first byte of rows of n bytes that R31 refuses, as a local address. -/
def lowFail (s : State) (cohort : Nat) (l : Low) (rows n : Nat) : Option DWord :=
  (List.range rows).findSome? fun r =>
    let a : LocalAddr := ⟨0, l.wg, l.row r⟩
    if !localOk s cohort a then some a.word
    else ((cohort? s cohort).bind fun c =>
      if c.localBytes < l.row r + n then some (LocalAddr.word ⟨0, l.wg, c.localBytes⟩) else none)

/-- The scoreboard range of rows of n bytes, outward to 64-byte bounds (R49). -/
def lowRange (l : Low) (rows n : Nat) : Nat × Nat := (l.off / 64 * 64, ceilTo 64 (l.row (rows - 1) + n))

/-- An accumulator range word. -/
structure Arw where
  init : Bool
  panel : Nat
  slot : Nat
  rows : Nat
  row0 : Nat
  width : Nat
  col : Nat
deriving DecidableEq, Repr

def parseArw (w : Word) : Arw :=
  ⟨w.getLsbD 31, fld w 29 2, 16 * fld w 25 4, fld w 16 9, fld w 8 8, 16 * (fld w 4 4 + 1), 16 * fld w 0 4⟩

/-- Malformed (R282): `mma` for MMA and MMA.B, `init` for those and SCACC. -/
def arwMalformed (mma init : Bool) (w : Word) : Bool :=
  let r := parseArw w
  (r.init && !init) || (!mma && (r.panel != 0 || r.slot != 0))
    || (if mma then r.rows % 16 != 0 || r.rows == 0 || decide (128 < r.rows) else r.rows == 0 || decide (256 < r.rows))
    || decide (256 < r.col + r.width)

/-- Columns of B that an MMA uses (R286). -/
def mmaCols (func : BitVec 4) (r : Arw) : Nat := if wideForm func then r.width / 2 else r.width

/-! ## The stores of an engine (R274, R283) -/

def accKey (g : Grant) (row col : Nat) : Nat := (g.base + row) * 256 + col
def accGet (c : Core) (g : Grant) (row col : Nat) : Word := readK 0#32 (accKey g row col) c.acc

/-- A written cell is not poisoned any more. -/
def accPut (g : Grant) (row col : Nat) (v : Word) (c : Core) : Core :=
  { c with acc := putK 0#32 (accKey g row col) v c.acc, accPoison := c.accPoison.filter (· != accKey g row col) }

def slotKey (g : Grant) (panel slot : Nat) : Nat := g.panels.getD panel 0 * 256 + slot
def slotBytes (c : Core) (g : Grant) (panel slot : Nat) : List Byte :=
  (List.range 192).map fun i => readK 0#8 (slotKey g panel slot * 192 + i) c.wbuf

def scaleKey (g : Grant) (e : Nat) : Nat := g.scales.getD e 0
def scaleGet (c : Core) (g : Grant) (e : Nat) : Word := readK 0#32 (scaleKey g e) c.scales

/-- Cells of a range: rows, then columns ascending. -/
def cellsOf (row0 rows col width : Nat) : List (Nat × Nat) :=
  (List.range rows).flatMap fun i => (List.range width).map fun j => (row0 + i, col + j)

def Arw.cells (r : Arw) : List (Nat × Nat) := cellsOf r.row0 r.rows r.col r.width

def anyCellPoison (c : Core) (g : Grant) (l : List (Nat × Nat)) : Bool := l.any fun p => c.accPoison.contains (accKey g p.1 p.2)

def accPuts (g : Grant) (c : Core) (l : List (Nat × Nat × Word)) : Core := l.foldl (fun c p => accPut g p.1 p.2.1 p.2.2 c) c

/-! ## What the instructions write: cells and flags -/

def orFlags (l : List FlagSet) : FlagSet := l.foldl (· ||| ·) 0#8

/-- The cells of an MMA over fetched A rows (R287). -/
def mmaResult (func : BitVec 4) (flags : BitVec 3) (r : Arw) (c : Core) (g : Grant) (rows : Nat → List Byte) :
    List (Nat × Nat × Word) × FlagSet :=
  let f := formOf func flags
  let out := (List.range r.rows).flatMap fun i => (List.range (mmaCols func r)).map fun j =>
    let row := r.row0 + i
    let slot := slotBytes c g r.panel (r.slot + j)
    if wideForm func then
      let lo := r.col + 2 * j
      let acc : DWord := if r.init then 0 else accGet c g row (lo + 1) ++ accGet c g row lo
      let (v, fl) := intCell f 64 acc (rows i) slot
      ([(row, lo, v.extractLsb' 0 32), (row, lo + 1, v.extractLsb' 32 32)], fl)
    else
      let acc : Word := if r.init then 0 else accGet c g row (r.col + j)
      let (v, fl) := if isInt f.a then intCell f 32 acc (rows i) slot else floatCell f acc (rows i) slot
      ([(row, r.col + j, v)], fl)
  (out.flatMap (·.1), orFlags (out.map (·.2)))

/-- An MMA reads a poisoned cell or column (R284, R377). -/
def mmaPoisoned (func : BitVec 4) (r : Arw) (c : Core) (g : Grant) : Bool :=
  (!r.init && anyCellPoison c g r.cells)
    || (List.range (mmaCols func r)).any fun j => c.wbufPoison.contains (slotKey g r.panel (r.slot + j))

/-- The operand word of SCACC (R291). -/
structure ScWord where
  sa : Nat
  sb : Nat
  prow : Nat
  pcol : Nat
deriving DecidableEq, Repr

def parseSc (w : Word) : ScWord := ⟨fld w 21 9, fld w 12 9, fld w 4 8, 16 * fld w 0 4⟩

/-- The cells of an SCACC: P cells at +0 under .ZP, then F cells (R291). -/
def scaccResult (zp : Bool) (r : Arw) (x : ScWord) (c : Core) (g : Grant) : List (Nat × Nat × Word) × FlagSet :=
  let out := (List.range r.rows).flatMap fun i => (List.range r.width).map fun j =>
    let fv : Word := if r.init then 0 else accGet c g (r.row0 + i) (r.col + j)
    let p := accGet c g (x.prow + i) (x.pcol + j)
    let q := sumProd fp32 .rn true [[fdec fp32 fv.toNat],
      [fdec fp32 (scaleGet c g (x.sa + i)).toNat, fdec fp32 (scaleGet c g (x.sb + j)).toNat, fdec fp32 p.toNat]]
    ((r.row0 + i, r.col + j, BitVec.ofNat 32 q.1), q.2)
  let zeros := if zp then (cellsOf x.prow r.rows x.pcol r.width).map fun p => (p.1, p.2, (0#32 : Word)) else []
  (zeros ++ out.map (·.1), orFlags (out.map (·.2)))

def scaccPoisoned (r : Arw) (x : ScWord) (c : Core) (g : Grant) : Bool :=
  (!r.init && anyCellPoison c g r.cells) || anyCellPoison c g (cellsOf x.prow r.rows x.pcol r.width)
    || ((List.range r.rows).map (x.sa + ·) ++ (List.range r.width).map (x.sb + ·)).any
      fun e => c.scalePoison.contains (scaleKey g e)

/-- The format of ACC.CVT and how many values one column takes (R293). -/
def cvtFmt (fmt : BitVec 2) : Fmt × Nat :=
  match fmt.toNat with
  | 0 => (bf16, 2) | 1 => (fp16, 2) | 2 => (e4m3, 4) | _ => (e5m2, 4)

/-- The packed destination cells of ACC.CVT. -/
def cvtResult (fmt : BitVec 2) (r : Arw) (drow dcol : Nat) (c : Core) (g : Grant) : List (Nat × Nat × Word) × FlagSet :=
  let (f, n) := cvtFmt fmt
  let out := (List.range r.rows).flatMap fun i => (List.range (r.width / n)).map fun j =>
    let qs := (List.range n).map fun k => fconv f .rn true (fdec fp32 (accGet c g (r.row0 + i) (r.col + n * j + k)).toNat)
    let v := ((List.range n).zip qs).foldl (fun v q => v + q.2.1 * 2 ^ (f.width * q.1)) 0
    ((drow + i, dcol + j, BitVec.ofNat 32 v), orFlags (qs.map (·.2)))
  (out.map (·.1), orFlags (out.map (·.2)))

end Sys2Proof.Machine
end

