-- ==== Sys2Proof/Machine/Matrix.lean ====
section
/-! DEFINITION. Issue of the engine instructions, majors 0x34 to 0x37 (R276 to R278, R284 to R293): their checks, and the
offer to the engine. What they do when the engine accepts and performs them is in Machine/Engine.lean. -/

namespace Sys2Proof.Machine

/-! ## Verdicts of the checks -/

/-- A check passes, traps, fails by R19 or R31 (which lookahead may defer, R368), or needs a hand-over. -/
inductive Verdict where
  | pass
  | trap (t : Trap)
  | access (t : Trap)
  | own (va : DWord)
deriving DecidableEq, Repr

def ill (sub : Nat) : Verdict := .trap { cause := cILLEGAL, info := subInfo sub, addr := none, lanes := none }

/-- ACCWIN with the first offending index (R277). -/
def accwin (sub idx : Nat) : Verdict :=
  .trap { cause := cACCWIN, info := BitVec.ofNat 32 (sub + 256 * (idx % 512)), addr := none, lanes := none }

def Verdict.andThen (v : Verdict) (w : Verdict) : Verdict :=
  match v with
  | .pass => w
  | v => v

def failIf (c : Bool) (v : Verdict) : Verdict := if c then v else .pass

/-- Rows against a window (R277). -/
def checkRows (sub : Nat) (g : Grant) (row0 rows : Nat) : Verdict :=
  failIf (decide (g.rows < row0 + rows)) (accwin sub (max row0 g.rows))

def checkPanel (sub : Nat) (g : Grant) (p : Nat) : Verdict := failIf (decide (g.panels.length ≤ p)) (accwin sub p)

def checkScales (g : Grant) (e n : Nat) : Verdict :=
  failIf (decide (g.scales.length < e + n)) (accwin 0x03 (max e g.scales.length))

/-- Rows of a LOW by R31 (R281). -/
def checkLow (s : State) (cohort : Nat) (l : Low) (rows n : Nat) : Verdict :=
  match lowFail s cohort l rows n with
  | some a => .access { cause := cPERM, info := subInfo 0x16, addr := some a, lanes := none }
  | none => .pass

/-! ## MMA (R286, R289) -/

/-- Operand words of an MMA (R282, R286). -/
def mmaWords (func : BitVec 4) (low arw : Word) : Verdict :=
  let r := parseArw arw
  failIf (arwMalformed true true arw || lowMalformed low || decide (256 < r.slot + mmaCols func r)) (ill 0x24)

/-- The window and panel of one grant. -/
def mmaGrant (rowSub panelSub : Nat) (g : Grant) (r : Arw) : Verdict :=
  (checkRows rowSub g r.row0 r.rows).andThen (checkPanel panelSub g r.panel)

/-- The checks of MMA at issue. -/
def mmaVerdict (s : State) (g : Gang) (func : BitVec 4) (low arw : Word) : Verdict :=
  let r := parseArw arw
  ((mmaWords func low arw).andThen (mmaGrant 1 2 g.grant r)).andThen (checkLow s g.cohort (parseLow low) r.rows 144)

/-- Peer q of a gang (R289). -/
def peerOf (s : State) (g : Gang) (q : Nat) : Option Gang :=
  (gangsOf s g.cohort).find? fun h => h.wg == q && h.gangid == g.gangid

/-- One peer's grant: a missing peer or one without a grant fails as well. -/
def peerVerdict (s : State) (g : Gang) (r : Arw) (q : Nat) : Verdict :=
  if q = g.wg then .pass
  else match peerOf s g q with
    | none => accwin 0x04 r.row0
    | some p => mmaGrant 4 4 p.grant r

def peersVerdict (s : State) (g : Gang) (r : Arw) : Verdict :=
  (List.range 4).foldl (fun v q => v.andThen (peerVerdict s g r q)) .pass

def cohortWgs (s : State) (g : Gang) : Nat := ((cohortOf s g).map fun c => c.wgs.length).getD 0

def mmaBVerdict (s : State) (g : Gang) (func : BitVec 4) (low arw : Word) : Verdict :=
  let r := parseArw arw
  ((((failIf (cohortWgs s g != 4) (ill 0x25)).andThen (mmaWords func low arw)).andThen (mmaGrant 1 2 g.grant r)).andThen
    (peersVerdict s g r)).andThen (checkLow s g.cohort (parseLow low) r.rows 144)

/-! ## Accesses to memory (R19, R23) -/

/-- Pieces of n bytes at va that cross no line. -/
def splitLines : Nat → DWord → Nat → List (DWord × Nat)
  | 0, _, _ => []
  | k + 1, va, n =>
    if n = 0 then []
    else let m := min n (128 - va.toNat % 128); (va, m) :: splitLines k (va + BitVec.ofNat 64 m) (n - m)

def linesOf (va : DWord) (n : Nat) : List (DWord × Nat) := splitLines (n / 128 + 2) va n

/-- Checked pieces: what fails, and the translations up to there. -/
def checkPieces (s : State) (g : Gang) (need : Need) : List (DWord × Nat) → Verdict × List (Xlat × Nat)
  | [] => (.pass, [])
  | (va, n) :: r =>
    match laneCheck s g need 1 va with
    | .fail c i a => (.access { cause := c, info := i, addr := some a, lanes := none }, [])
    | .own a => (.own a, [])
    | .ok x =>
      if need.write && x.poison then
        (.access { cause := cPOISON, info := subInfo 0x30, addr := some va, lanes := none }, [])
      else
        let (v, xs) := checkPieces s g need r
        (v, (x, n) :: xs)

/-- The lines of page-table entries through which the pieces were translated. -/
def walksOf (s : State) (g : Gang) (ps : List (DWord × Nat)) : List Nat :=
  match context? s (ctxOf s g) with
  | none => []
  | some c => ((ps.flatMap fun p => walkEntries s p.1 4 0 c.root).map lineOf).eraseDups

/-! ## The offer (R278) -/

/-- The operand a of a replay is the recorded base (R258). -/
def tilePair (g : Gang) (it : Issue) (m : LaneMask) (a : Reg) : DWord :=
  match it.replay with
  | some r => r.base
  | none => uniformPair g m a.toNat

def tileWord (g : Gang) (it : Issue) (m : LaneMask) (a : Reg) : Word :=
  match it.replay with
  | some r => r.base.extractLsb' 0 32
  | none => uniform g m a.toNat

def mkOp (s : State) (g : Gang) (i : Work) (la : BitVec 4) (a : DWord) (b : Word) : EngineOp :=
  { uid := s.nextUid, work := i, gang := g.uid, region := regionOf s g, a, b, peer := g.uid, pieces := [], walks := [],
    bytes := [], poisoned := [], ready := false, left := [], la := la.toNat, follow := none }

def offerTo (s : State) (core : Nat) (o : EngineOp) : State :=
  modCore { s with nextUid := s.nextUid + 1 } core fun c => { c with offers := c.offers ++ [o] }

/-- An offer with the pieces of memory that its instruction reads or writes. -/
def offerPieces (s : State) (g : Gang) (write : Bool) (o : EngineOp) (vas : List (DWord × Nat)) (xs : List (Xlat × Nat)) :
    State :=
  let s := xs.foldl (fun s x => setAD s x.1 write) s
  offerTo s g.core { o with pieces := xs.map fun x => (x.1.pa, x.1.pte, x.2), walks := walksOf s g vas }

/-- What follows the checks: the offer, or the trap. `s` is the state before the instruction; a failure of R19 or R31 under
LA > 0 stays pending (R368). -/
def issueTile (s : State) (g : Gang) (it : Issue) (v : Verdict) (base : DWord) (la : BitVec 4) (reads : List Nat)
    (k : State → State) : Out :=
  match v with
  | .pass => .next (k s)
  | .trap t => raise s t
  | .own va => awaitHandover s it (ctxOf s g) va
  | .access t => raiseOwed s s t (execMask g it) base la.toNat reads []

/-- The same for a boundary instruction: the next span begins after it. -/
def issueBoundary (s : State) (g : Gang) (it : Issue) (v : Verdict) (base : DWord) (la : BitVec 4) (reads : List Nat)
    (k : State → State) : Out :=
  freshOut (issueTile s g it v base la reads k) it.gang

/-! ## MMA, MMA.B -/

def execMma (la func : BitVec 4) (a b : Reg) (flags : BitVec 3) (s : State) : Out :=
  boundary 2 false s fun s g it =>
    let m := execMask g it
    let low := tileWord g it m a
    let arw := uniform g m b.toNat
    issueBoundary s g it (mmaVerdict s g func low arw) (low.zeroExtend 64) la [a.toNat, b.toNat] fun s =>
      offerTo s g.core (mkOp s g (.mma func flags) la (low.zeroExtend 64) arw)

/-- One command for each engine of the basin (R289). -/
def offerAll (s : State) (g : Gang) (o : EngineOp) : State :=
  (List.range 4).foldl (init := { s with nextUid := s.nextUid + 1 }) fun s q =>
    match peerOf s g q with
    | none => s
    | some p => modCore s p.core fun c => { c with offers := c.offers ++ [{ o with peer := p.uid }] }

def execMmaB (la func : BitVec 4) (a b : Reg) (flags : BitVec 3) (s : State) : Out :=
  boundary 2 false s fun s g it =>
    let m := execMask g it
    let low := tileWord g it m a
    let arw := uniform g m b.toNat
    issueBoundary s g it (mmaBVerdict s g func low arw) (low.zeroExtend 64) la [a.toNat, b.toNat] fun s =>
      offerAll s g (mkOp s g (.mmaB func flags) la (low.zeroExtend 64) arw)

/-! ## ACC.WIN (R274 to R276) -/

def winRows (w : Word) : Nat := fld w 0 9
def winPanels (w : Word) : Nat := fld w 16 3
def winGroups (w : Word) : Nat := fld w 20 6

def winVerdict (w : Word) : Verdict :=
  if fld w 26 6 ≠ 0 ∨ fld w 19 1 ≠ 0 ∨ fld w 9 7 ≠ 0 ∨ winRows w % 16 ≠ 0 then ill 0x24
  else if 256 < winRows w ∨ 4 < winPanels w ∨ 32 < winGroups w then ill 0x26
  else .pass

/-- The grants that stand on a core. -/
def grantsOn (s : State) (core : Nat) : List Grant :=
  (s.gangs.filter fun g => g.core == core && ((cohortOf s g).map (·.resident)).getD false).map (·.grant)

def rowFree (gs : List Grant) (r : Nat) : Bool := gs.all fun g => !(decide (g.base ≤ r) && decide (r < g.base + g.rows))

/-- The lowest free contiguous run of n rows. -/
def lowestRun (gs : List Grant) (n : Nat) : Option Nat :=
  if n = 0 then some 0
  else (List.range (257 - n)).find? fun b => (List.range n).all fun i => rowFree gs (b + i)

/-- The lowest n of the free ones. -/
def lowestOf (free : List Nat) (n : Nat) : Option (List Nat) := if free.length < n then none else some (free.take n)

def freePanels (gs : List Grant) : List Nat := (List.range 4).filter fun p => gs.all fun g => !g.panels.contains p
def freeGroups (gs : List Grant) : List Nat := (List.range 32).filter fun k => gs.all fun g => !g.scales.contains (16 * k)

/-- A grant of so many rows, panels and groups of scale entries, where they are free (R276). -/
def tryGrantOf (s : State) (core rows panels groups : Nat) : Option Grant :=
  let gs := grantsOn s core
  match lowestRun gs rows, lowestOf (freePanels gs) panels, lowestOf (freeGroups gs) groups with
  | some base, some panels, some groups =>
    some ⟨base, rows, panels, groups.flatMap fun k => (List.range 16).map (16 * k + ·), []⟩
  | _, _, _ => none

def tryGrant (s : State) (core : Nat) (w : Word) : Option Grant :=
  tryGrantOf s core (winRows w) (winPanels w) (winGroups w)

/-- The granted rows, panels and entries read as zero (R276). -/
def clearGrant (g : Grant) (c : Core) : Core :=
  let row (k : Nat) : Bool := decide (g.base ≤ k / 256) && decide (k / 256 < g.base + g.rows)
  { c with acc := c.acc.filter fun p => !row p.1, accPoison := c.accPoison.filter fun k => !row k,
           wbuf := c.wbuf.filter fun p => !g.panels.contains (p.1 / 192 / 256),
           wbufPoison := c.wbufPoison.filter fun k => !g.panels.contains (k / 256),
           scales := c.scales.filter fun p => !g.scales.contains p.1,
           scalePoison := c.scalePoison.filter fun k => !g.scales.contains k }

def giveGrant (s : State) (uid core : Nat) (gr : Grant) : State :=
  modCore (modGang s uid fun g => { g with grant := gr }) core (clearGrant gr)

def execAccWin (_la : BitVec 4) (a : Reg) (s : State) : Out :=
  boundary 2 false s fun s g it =>
    let w := uniform g (execMask g it) a.toNat
    match winVerdict w with
    | .trap t => raise s t
    | _ =>
      if engineBusy (coreOf s g.core) it.gang then stay s it
      else
        let s := modGang s it.gang fun g => { g with grant := .none }
        match (if (coreOf s g.core).accWaiters.isEmpty then tryGrant s g.core w else none) with
        | some gr => doneBoundary (giveGrant s it.gang g.core gr) it.gang
        | none =>
          let s := modCore s g.core fun c => { c with accWaiters := c.accWaiters ++ [(it.gang, w)] }
          .next (stopChain (modGang s it.gang fun g => park g it (.accWin w it.split)))

/-! ## The other ACC forms (R292, R293) -/

/-- The ARW of an ACC form, and its cells against the window. -/
def arwVerdict (g : Gang) (w : Word) : Verdict :=
  let r := parseArw w
  (failIf (arwMalformed false false w) (ill 0x24)).andThen (checkRows 1 g.grant r.row0 r.rows)

def execAccZero (la : BitVec 4) (b : Reg) (s : State) : Out :=
  boundary 2 false s fun s g it =>
    let w := uniform g (execMask g it) b.toNat
    issueBoundary s g it (arwVerdict g w) 0 la [b.toNat] fun s => offerTo s g.core (mkOp s g .zero la 0 w)

/-- The alignment of an address (R284). -/
def alignVerdict (va : DWord) (n : Nat) : Verdict :=
  failIf (va.toNat % n != 0) (.trap { cause := cMISALIGN, info := subInfo 1, addr := some va, lanes := none })

/-- Bytes of a cell range in memory. -/
def Arw.size (r : Arw) : Nat := 4 * r.rows * r.width

def execAccLd (la : BitVec 4) (a b : Reg) (s : State) : Out :=
  boundary 2 false s fun s g it =>
    let m := execMask g it
    let va := tilePair g it m a
    let w := uniform g m b.toNat
    let ps := linesOf va (parseArw w).size
    let (v, xs) := checkPieces s g .load ps
    issueBoundary s g it (((arwVerdict g w).andThen (alignVerdict va 16)).andThen v) va la [a.toNat, a.toNat + 1, b.toNat]
      fun s => offerPieces s g false (mkOp s g .load la va w) ps xs

/-- Words of pieces, for locate mode (R73). -/
def pieceWords (lane : Nat) (ps : List (DWord × Nat)) (xs : List (Xlat × Nat)) : List (Nat × DWord × Nat) :=
  (ps.zip xs).flatMap fun p => (List.range (p.1.2 / 4)).map fun i => (lane, p.1.1 + BitVec.ofNat 64 (4 * i), p.2.1.pa + 4 * i)

/-- What an ACC.ST meets at issue: the version lines that it would need beside those that outstanding ACC.STs will need must
fit (R54, R62). Its requests issue when the engine performs it. -/
def storeOpGate (s : State) (g : Gang) (xs : List (Xlat × Nat)) : StoreGate :=
  let held := (accStLines s g.uid).eraseDups.filter fun l => !(verLines g.span).contains l
  let fresh := (newVersionLines g.span (xs.map fun x => x.1.pa)).filter fun l => !held.contains l
  if Config.spanLines < (verLines g.span).length + held.length + fresh.length then .full
  else if sliceFull s fresh then if spanEmpty g.span && held.isEmpty && g.span.tx.isNone then .wait s else .full
  else .go s

/-- Words, size, window, alignment: the checks of ACC.ST before R19 (R292). -/
def accStWords (g : Gang) (va : DWord) (w : Word) : Verdict :=
  let r := parseArw w
  (((failIf (arwMalformed false false w) (ill 0x24)).andThen (failIf (decide (32768 < r.size)) (ill 0x27))).andThen
    (checkRows 1 g.grant r.row0 r.rows)).andThen (alignVerdict va 16)

/-- ACC.ST: tracked stores of the current span, made when the engine performs it (R101, R292). -/
def execAccSt (la : BitVec 4) (a b : Reg) (s : State) : Out :=
  withGang s fun g it =>
    let m := execMask g it
    let va := tilePair g it m a
    let w := uniform g m b.toNat
    let reads := [a.toNat, a.toNat + 1, b.toNat]
    match accStWords g va w with
    | .pass =>
      let ps := linesOf va (parseArw w).size
      let (v, xs) := checkPieces s g .store ps
      match v with
      | .pass =>
        match raceTrap g 4 (pieceWords ((leader m).getD 0) ps xs) with
        | some t => raise s t
        | none => match storeOpGate s g xs with
          | .full => endBefore 4 s
          | .wait s => stay s it
          | .go s => .next (offerPieces s g true (mkOp s g .store la va w) ps xs)
      | v => issueTile s g it v va la reads fun s => s
    | v => issueTile s g it v va la reads fun s => s

/-- ACC.TOLM and ACC.FROMLM: words, window, LOW (R292). -/
def lmVerdict (s : State) (g : Gang) (low w : Word) : Verdict :=
  let r := parseArw w
  ((failIf (arwMalformed false false w || lowMalformed low) (ill 0x24)).andThen (checkRows 1 g.grant r.row0 r.rows)).andThen
    (checkLow s g.cohort (parseLow low) r.rows (4 * r.width))

def execAccTolm (la : BitVec 4) (a b : Reg) (s : State) : Out :=
  withGang s fun g it =>
    let m := execMask g it
    let low := tileWord g it m a
    let w := uniform g m b.toNat
    issueTile s g it (lmVerdict s g low w) (low.zeroExtend 64) la [a.toNat, b.toNat] fun s =>
      offerTo s g.core (mkOp s g .toLm la (low.zeroExtend 64) w)

def execAccFromlm (la : BitVec 4) (a b : Reg) (s : State) : Out :=
  boundary 2 false s fun s g it =>
    let m := execMask g it
    let low := tileWord g it m a
    let w := uniform g m b.toNat
    issueBoundary s g it (lmVerdict s g low w) (low.zeroExtend 64) la [a.toNat, b.toNat] fun s =>
      offerTo s g.core (mkOp s g .fromLm la (low.zeroExtend 64) w)

/-- ACC.CVT: the words, the source rows and the destination rows (R293). -/
def cvtVerdict (g : Gang) (fmt : BitVec 2) (dw w : Word) : Verdict :=
  let r := parseArw w
  ((failIf (arwMalformed false false w || fld dw 12 20 != 0
      || decide (256 < 16 * fld dw 0 4 + r.width / (cvtFmt fmt).2)) (ill 0x24)).andThen
    (checkRows 1 g.grant r.row0 r.rows)).andThen (checkRows 1 g.grant (fld dw 4 8) r.rows)

def execAccCvt (la : BitVec 4) (fmt : BitVec 2) (a b : Reg) (s : State) : Out :=
  boundary 2 false s fun s g it =>
    let m := execMask g it
    let dw := uniform g m a.toNat
    let w := uniform g m b.toNat
    issueBoundary s g it (cvtVerdict g fmt dw w) 0 la [a.toNat, b.toNat] fun s =>
      offerTo s g.core (mkOp s g (.cvt fmt) la (dw.zeroExtend 64) w)

/-! ## SCACC, TSCALE.BIND, WBUF.LD, WBUF.LDSP (R284, R290, R291) -/

def scaccVerdict (g : Gang) (x w : Word) : Verdict :=
  let r := parseArw w
  let p := parseSc x
  ((((failIf (arwMalformed false true w || fld x 30 2 != 0 || decide (256 < p.pcol + r.width)) (ill 0x24)).andThen
    (checkRows 1 g.grant r.row0 r.rows)).andThen (checkRows 1 g.grant p.prow r.rows)).andThen
    (checkScales g.grant p.sa r.rows)).andThen (checkScales g.grant p.sb r.width)

def execScacc (la : BitVec 4) (zp : Bool) (a b : Reg) (s : State) : Out :=
  boundary 2 false s fun s g it =>
    let m := execMask g it
    let x := uniform g m a.toNat
    let w := uniform g m b.toNat
    issueBoundary s g it (scaccVerdict g x w) 0 la [a.toNat, b.toNat] fun s =>
      offerTo s g.core (mkOp s g (.scacc zp) la (x.zeroExtend 64) w)

/-- First entry and number of entries of TSCALE.BIND. -/
def bindFirst (w : Word) : Nat := fld w 0 9
def bindCount (w : Word) : Nat := fld w 16 9 + 1

def bindVerdict (g : Gang) (va : DWord) (w : Word) : Verdict :=
  ((failIf (fld w 25 7 != 0 || fld w 9 7 != 0) (ill 0x24)).andThen (alignVerdict va 4)).andThen
    (checkScales g.grant (bindFirst w) (bindCount w))

def execTscaleBind (la : BitVec 4) (a b : Reg) (s : State) : Out :=
  boundary 2 false s fun s g it =>
    let m := execMask g it
    let va := tilePair g it m a
    let w := uniform g m b.toNat
    let ps := linesOf va (4 * bindCount w)
    let (v, xs) := checkPieces s g .load ps
    issueBoundary s g it ((bindVerdict g va w).andThen v) va la [a.toNat, a.toNat + 1, b.toNat] fun s =>
      offerPieces s g false (mkOp s g .bind la va w) ps xs

/-- The word of WBUF.LD: panel, first slot, columns, source stride in bytes. -/
structure FillWord where
  panel : Nat
  slot : Nat
  cols : Nat
  stride : Nat
deriving DecidableEq, Repr

def parseFill (w : Word) : FillWord := ⟨fld w 30 2, fld w 22 8, fld w 14 8 + 1, 16 * fld w 0 14⟩

def fillVerdict (g : Gang) (va : DWord) (w : Word) : Verdict :=
  let f := parseFill w
  ((failIf (decide (256 < f.slot + f.cols)) (ill 0x24)).andThen (alignVerdict va 16)).andThen (checkPanel 2 g.grant f.panel)

/-- Bytes of one source column. -/
def colBytes (sparse : Bool) : Nat := if sparse then 120 else 144

def colPieces (va : DWord) (f : FillWord) (n : Nat) : List (DWord × Nat) :=
  (List.range f.cols).flatMap fun j => linesOf (va + BitVec.ofNat 64 (f.stride * j)) n

def issueFill (s : State) (sparse : Bool) (la : BitVec 4) (a b : Reg) : Out :=
  boundary 2 false s fun s g it =>
    let m := execMask g it
    let va := tilePair g it m a
    let w := uniform g m b.toNat
    let ps := colPieces va (parseFill w) (colBytes sparse)
    let (v, xs) := checkPieces s g .load ps
    issueBoundary s g it ((fillVerdict g va w).andThen v) va la [a.toNat, a.toNat + 1, b.toNat] fun s =>
      offerPieces s g false (mkOp s g (.fill sparse) la va w) ps xs

def execWbufLd (la : BitVec 4) (a b : Reg) (s : State) : Out := issueFill s false la a b
def execWbufLdsp (la : BitVec 4) (a b : Reg) (s : State) : Out := issueFill s true la a b

end Sys2Proof.Machine
end

