-- ==== Sys2Proof/Machine/Pack.lean ====
section
/-! DEFINITION. UNPACK and PACK, major 0x33 (R314), over the stream code of R312 and R313. -/

namespace Sys2Proof.Machine

/-- The byte of local memory k bytes after an address, as a program forms it. -/
def byteAfter (addr k : Nat) : Word := BitVec.ofNat 32 (addr + k)

/-- The first of n bytes at a local address that R31 refuses. -/
def firstBadByte (s : State) (cohort addr n : Nat) : Option Word :=
  ((List.range n).map (byteAfter addr)).find? fun a => !localOk s cohort (localAddr a)

/-- n checked bytes at a local address, as a number. -/
def localNat (s : State) (cohort addr n : Nat) : Nat :=
  natOfBytes ((List.range n).map fun k => let a := localAddr (byteAfter addr k); localByte s cohort a.wg a.off)

/-- The scoreboard ranges of n bytes (R50). -/
def byteRanges (addr n : Nat) : List (Nat × Nat × Nat) :=
  (List.range n).map fun k => let a := localAddr (byteAfter addr k); (a.wg, a.off, a.off + 1)

def anyPoison (s : State) (cohort addr n : Nat) : Bool :=
  (List.range n).any fun k => let a := localAddr (byteAfter addr k); localPoisoned s cohort a.wg a.off 1

def localWrites (s : State) (cohort addr : Nat) (bs : List Byte) : State :=
  localPuts s cohort (((List.range bs.length).zip bs).map fun p =>
    let a := localAddr (byteAfter addr p.1); (a.wg, a.off, p.2))

/-- Pointer and control word of a form: local byte address, bit in the byte, element width, sign extension, ratio code. -/
structure PackArgs where
  ptr : Nat
  e : Nat
  sx : Bool
  rc : Nat
deriving DecidableEq, Repr

def PackArgs.addr (p : PackArgs) : Nat := p.ptr / 8
def PackArgs.bit (p : PackArgs) : Nat := p.ptr % 8
/-- Bytes that n bits from the pointer touch. -/
def PackArgs.bytes (p : PackArgs) (n : Nat) : Nat := (p.ptr % 8 + n + 7) / 8

/-- The operands, or none for ILLEGAL 0x28: SX is UNPACK's and RC is PACK's. -/
def packArgs (unpack : Bool) (ptr ctl : Word) : Option PackArgs :=
  if fld ptr 24 8 ≠ 0 ∨ fld ctl 5 27 ≠ 0 ∨ fld ctl 0 2 = 3 ∨ fld ctl 2 2 = 3
      ∨ (unpack = true ∧ fld ctl 2 2 ≠ 0) ∨ (unpack = false ∧ ctl.getLsbD 4 = true) then none
  else some ⟨fld ptr 0 24, 8 * 2 ^ fld ctl 0 2, ctl.getLsbD 4, fld ctl 2 2⟩

def packIllegal (s : State) : Out := raise s { cause := cILLEGAL, info := subInfo 0x28, addr := none, lanes := none }

def localTrap (s : State) (sub : Nat) (a : Word) : Out :=
  raise s { cause := cPERM, info := subInfo sub, addr := some (a.zeroExtend 64), lanes := none }

/-- The pointer after the group, in every active lane. -/
def advancePtr (g : Gang) (m : LaneMask) (a : Reg) (p : PackArgs) (w : Nat) : Gang :=
  putAll g m a (BitVec.ofNat 32 (p.ptr + groupBits p.e w))

/-- The first bits of a group are read once no copy or engine instruction still owns their bytes (R50, R314); poisoned bytes
kill the active lanes (R376). -/
def withGroup (s : State) (it : Issue) (cohort : Nat) (p : PackArgs) (bits : Nat) (k : State → Out) : Out :=
  let n := p.bytes bits
  match scoreWait s cohort (byteRanges p.addr n) with
  | none => stay s it
  | some s1 =>
    if anyPoison s1 cohort p.addr n then
      withGang s1 fun g it =>
        finishLanes s s1 it.gang ((lanesOf (execMask g it)).map fun i => (i, (byteAfter p.addr 0).zeroExtend 64)) 0x32 none 0 0 [] []
    else k s1

def execUnpack (d a b : Reg) (s : State) : Out :=
  withGang s fun g it =>
    let m := execMask g it
    match packArgs true (uniform g m a.toNat) (uniform g m b.toNat) with
    | none => packIllegal s
    | some p =>
      match firstBadByte s g.cohort p.addr (p.bytes 6) with
      | some x => localTrap s 0x16 x
      | none => withGroup s it g.cohort p 6 fun s =>
        let w := localNat s g.cohort p.addr (p.bytes 6) / 2 ^ p.bit % 64
        let n := p.bytes (groupBits p.e w)
        if 32 < w then localTrap s 0x1A (byteAfter p.addr 0)
        else match firstBadByte s g.cohort p.addr n with
          | some x => localTrap s 0x16 x
          | none => withGroup s it g.cohort p (groupBits p.e w) fun s1 =>
                let v := localNat s1 g.cohort p.addr n / 2 ^ p.bit
                let elem (i : Nat) : Word :=
                  let x := groupElem p.e v (visOf g i)
                  if p.sx then ofInt 32 (BitVec.ofNat p.e x).toInt else BitVec.ofNat 32 x
                .next (modGang s1 it.gang fun g => advancePtr (putLanes g d.toNat m elem) m a p w)

/-- The values that PACK codes, by element index. -/
def packValues (g : Gang) (m : LaneMask) (d : Reg) (e : Nat) : List (Nat × Nat) :=
  ((lanesOf m).filter fun i => !g.prot || i % 2 == 0).map fun i => (visOf g i, (getReg g d.toNat i).toNat % 2 ^ e)

def execPack (d a b : Reg) (s : State) : Out :=
  withGang s fun g it =>
    let m := execMask g it
    if m = 0#32 then .next s
    else match packArgs false (uniform g m a.toNat) (uniform g m b.toNat) with
    | none => packIllegal s
    | some p =>
      let vals := packValues g m d p.e
      let (base, w) := chooseGroup (wMin p.e (2 ^ p.rc)) (vals.map (·.2))
      let bits := groupBits p.e w
      let n := p.bytes bits
      match firstBadByte s g.cohort p.addr n with
      | some x => localTrap s 0x16 x
      | none => match scoreWait s g.cohort (byteRanges p.addr n) with
        | none => stay s it
        | some s1 =>
          let offs := (List.range 32).map fun k => match getK k vals with
            | some x => x - base
            | none => 0
          let old := localNat s1 g.cohort p.addr n
          let new := old % 2 ^ p.bit + packGroup p.e w base offs * 2 ^ p.bit + old / 2 ^ (p.bit + bits) * 2 ^ (p.bit + bits)
          let s2 := localWrites s1 g.cohort p.addr (bytesOf n new)
          .next (modGang s2 it.gang fun g => advancePtr g m a p w)

end Sys2Proof.Machine
end

