-- ==== Sys2Proof/Machine/CopyData.lean ====
section
/-! DEFINITION. Copy commands as data: their fields (R297 to R300), the elements that they move (R301), conversion (R302) and
the stream records (R303, R313). -/

namespace Sys2Proof.Machine

/-! ## Element types (R299) -/

/-- A copy element type: raw bits, a signed or unsigned integer, or a float. -/
inductive CType where
  | raw (n : Nat)
  | int (n : Nat) (signed : Bool)
  | fl (f : Fmt)
deriving DecidableEq, Repr

def ctypeOf (code : Nat) : Option CType :=
  match code with
  | 0 => some (.raw 1) | 1 => some (.raw 2) | 2 => some (.raw 4) | 3 => some (.raw 8)
  | 4 => some (.int 1 true) | 5 => some (.int 2 true) | 6 => some (.int 4 true) | 7 => some (.int 1 false)
  | 8 => some (.fl fp32) | 9 => some (.fl fp16) | 10 => some (.fl bf16) | 11 => some (.fl e4m3) | 12 => some (.fl e5m2)
  | 13 => some (.int 2 false)
  | _ => none

def CType.size : CType → Nat
  | .raw n => n | .int n _ => n | .fl f => f.width / 8

def CType.isRaw : CType → Bool
  | .raw _ => true | _ => false

/-- The exact value of an element. -/
def CType.val (t : CType) (bits : Nat) : FVal :=
  match t with
  | .fl f => fdec f bits
  | .int n sg => let v : Int := if sg then (BitVec.ofNat (8 * n) bits).toInt else bits; .fin (v < 0) v.natAbs 0
  | .raw _ => .fin false bits 0

/-! ## The command (R297, R298) -/

structure Cmd where
  opc : Nat
  stype : Nat
  dtype : Nat
  trans : Bool
  sloc : Bool
  dloc : Bool
  follow : Bool
  cvt : Bool
  baren : Bool
  chunk : Nat
  bq : Bool
  q : Nat
  name : Nat
  scale : Nat
  src : Nat
  dst : Nat
  sstr1 : Nat
  sstr2 : Nat
  sstr3 : Nat
  ext0 : Nat
  ext1 : Nat
  org0 : Int
  org1 : Int
  win0 : Nat
  win1 : Nat
  win2 : Nat
  win3 : Nat
  dpitch : Nat
  fctl : Nat
  fword : DWord
deriving DecidableEq, Repr

def parseCmd (bs : List Byte) : Cmd :=
  let c := wordAt bs 0
  let s16 (off : Nat) : Int := (BitVec.ofNat 16 (natAt bs off 2)).toInt
  { opc := fld c 28 4, stype := fld c 24 4, dtype := fld c 20 4, trans := c.getLsbD 19, sloc := c.getLsbD 18,
    dloc := c.getLsbD 17, follow := c.getLsbD 16, cvt := c.getLsbD 15, baren := c.getLsbD 14, chunk := fld c 10 4,
    bq := c.getLsbD 9, q := fld c 7 2, name := fld c 0 7, scale := natAt bs 4 4, src := natAt bs 8 8, dst := natAt bs 16 8,
    sstr1 := natAt bs 24 4, sstr2 := natAt bs 28 4, sstr3 := natAt bs 32 4, ext0 := natAt bs 36 2, ext1 := natAt bs 38 2,
    org0 := s16 40, org1 := s16 42, win0 := natAt bs 44 2, win1 := natAt bs 46 2, win2 := natAt bs 48 2, win3 := natAt bs 50 2,
    dpitch := natAt bs 52 2, fctl := natAt bs 54 2, fword := dwordAt bs 56 }

def isCopy (c : Cmd) : Bool := c.opc == 1
def isEncode (c : Cmd) : Bool := c.opc == 2
def isDecode (c : Cmd) : Bool := c.opc == 3

def Cmd.st (c : Cmd) : CType := (ctypeOf c.stype).getD (.raw 1)
def Cmd.dt (c : Cmd) : CType := (ctypeOf c.dtype).getD (.raw 1)
def Cmd.ssz (c : Cmd) : Nat := c.st.size
def Cmd.dsz (c : Cmd) : Nat := c.dt.size
def Cmd.elems (c : Cmd) : Nat := c.win0 * c.win1 * c.win2 * c.win3
/-- Chunk size in bytes, and the number of chunks (R298, R304). -/
def Cmd.size (c : Cmd) : Nat := 4096 * (c.chunk + 1)
def Cmd.chunks (c : Cmd) : Nat := (c.elems * c.dsz + c.size - 1) / c.size

/-- Elements of a destination row, and rows of a plane (R301). -/
def Cmd.wf (c : Cmd) : Nat := if c.trans then c.win1 else c.win0
def Cmd.wg (c : Cmd) : Nat := if c.trans then c.win0 else c.win1
def Cmd.pitch (c : Cmd) : Nat := if c.dpitch = 0 then c.wf * c.dsz else 16 * c.dpitch

/-- Reserved fields and values (R297, R298, R300). -/
def Cmd.reserved (c : Cmd) : Bool :=
  !(isCopy c || isEncode c || isDecode c) || (ctypeOf c.stype).isNone || (ctypeOf c.dtype).isNone
    || (!c.cvt && c.scale != 0) || (c.sloc && c.src / 2 ^ 32 != 0) || (c.dloc && c.dst / 2 ^ 32 != 0)
    || (!c.baren && (c.bq || c.q != 0 || c.name != 0)) || (!c.bq && c.q != 0) || c.fctl / 8 != 0
    || (!c.follow && c.fword != 0#64)

/-- The command is malformed (R300). -/
def Cmd.malformed (c : Cmd) : Bool :=
  c.reserved
    || (!c.cvt && c.stype != c.dtype) || (c.cvt && (c.st.isRaw || c.dt.isRaw))
    || c.win0 == 0 || c.win1 == 0 || c.win2 == 0 || c.win3 == 0
    || (!isDecode c && (c.ext0 == 0 || c.ext1 == 0))
    || decide (2 ^ 31 - 1 < c.elems * c.dsz)
    || c.src % c.ssz != 0 || c.dst % c.dsz != 0
    || (!isEncode c && c.dpitch != 0 && decide (16 * c.dpitch < c.wf * c.dsz))
    || (isEncode c && (c.dst % 16 != 0 || c.dsz == 8 || c.dpitch / 4 != 0 || c.dpitch % 4 == 3))
    || (isDecode c && (c.src % 16 != 0 || c.ssz == 8 || c.sstr1 != 0 || c.sstr2 != 0 || c.sstr3 != 0 || c.ext0 != 0
        || c.ext1 != 0 || c.org0 != 0 || c.org1 != 0 || c.trans))

/-! ## Elements by ordinal (R301, R303) -/

/-- Place in the destination row, and the row. -/
def Cmd.f (c : Cmd) (o : Nat) : Nat := o % c.wf
def Cmd.row (c : Cmd) (o : Nat) : Nat := o / c.wf

/-- The window index of an ordinal. -/
def Cmd.idx (c : Cmd) (o : Nat) : Nat × Nat × Nat × Nat :=
  let g := c.row o % c.wg
  let r := c.row o / c.wg
  (if c.trans then g else c.f o, if c.trans then c.f o else g, r % c.win2, r / c.win2)

/-- Address arithmetic: modulo 2^32 for a local operand, 2^64 for a global one. -/
def wrapAddr (isLocal : Bool) (a : Nat) : Nat := if isLocal then a % 2 ^ 32 else a % 2 ^ 64

/-- The source of an element of a tensor; none for zero fill. -/
def Cmd.srcAddr (c : Cmd) (o : Nat) : Option Nat :=
  let (i0, i1, i2, i3) := c.idx o
  let p0 : Int := c.org0 + i0
  let p1 : Int := c.org1 + i1
  if p0 < 0 ∨ (c.ext0 : Int) ≤ p0 ∨ p1 < 0 ∨ (c.ext1 : Int) ≤ p1 then none
  else some (wrapAddr c.sloc (c.src + p0.toNat * c.ssz + p1.toNat * c.sstr1 + i2 * c.sstr2 + i3 * c.sstr3))

def Cmd.dstAddr (c : Cmd) (o : Nat) : Nat := wrapAddr c.dloc (c.dst + c.row o * c.pitch + c.f o * c.dsz)

/-- Ordinals of a chunk. -/
def Cmd.ordinals (c : Cmd) (k : Nat) : List Nat :=
  let n := c.size / c.dsz
  (List.range (min n (c.elems - k * n))).map (k * n + ·)

/-- Ordinals of the chunks from a first one on (R306). -/
def Cmd.ordinalsFrom (c : Cmd) (first : Nat) : List Nat := ((List.range c.chunks).drop first).flatMap c.ordinals

/-! ## Conversion (R302) -/

/-- An element converted under SCALE: bits, flags, saturated. -/
def convElem (c : Cmd) (bits : Nat) : Nat × FlagSet × Bool :=
  if !c.cvt then (bits, 0, false)
  else
    let x := c.st.val bits
    let sc := fdec fp32 c.scale
    let z := if x.isNan || sc.isNan then none else prodOf [x, sc]
    match c.dt with
    | .fl f => match z with
      | none => (f.nan, fNV, false)
      | some (.inf n) => (signed f n f.maxBits, 0, true)
      | some v => let (b, fl) := fconv f .rn true v; (b, fl, fl &&& fOF != 0#8)
    | .int n sg =>
      let lo : Int := if sg then -2 ^ (8 * n - 1) else 0
      let hi : Int := if sg then 2 ^ (8 * n - 1) - 1 else 2 ^ (8 * n) - 1
      match z with
      | none => (0, fNV, false)
      | some v => let (k, fl) := ftoInt .rn lo hi v; ((ofInt (8 * n) k).toNat, fl, fl &&& fNV != 0#8)
    | .raw _ => (bits, 0, false)

/-! ## Stream records (R303, R313) -/

/-- w_min of an ENCODE command: DPITCH[1:0] is the code of its ratio ceiling (R297, R313). -/
def Cmd.wmin (c : Cmd) : Nat := wMin (8 * c.dsz) (2 ^ (c.dpitch % 4))

/-- One group; missing elements have offset 0. -/
def encodeGroup (e wmin : Nat) (vals : List Nat) : List Bool :=
  let (base, w) := chooseGroup wmin vals
  let off (k : Nat) : Nat := match vals[k]? with
    | some v => v - base | none => 0
  let bitsOf (n v : Nat) : List Bool := (List.range n).map fun i => v / 2 ^ i % 2 == 1
  bitsOf 6 w ++ bitsOf e base ++ (List.range 32).flatMap fun k => bitsOf w (off k)

/-- Bits, first bit lowest, as bytes. -/
def packBytes (n : Nat) (l : List Bool) : List Byte :=
  (List.range n).map fun i => BitVec.ofNat 8 ((List.range 8).foldl (fun v k => v + if l.getD (8 * i + k) false then 2 ^ k else 0) 0)

/-- Elements in groups of 32. -/
def groupsOf : Nat → List Nat → List (List Nat)
  | 0, _ => []
  | n + 1, l => if l.isEmpty then [] else l.take 32 :: groupsOf n (l.drop 32)

/-- The record of a chunk: header, groups, padding. -/
def encodeRecord (e wmin : Nat) (vals : List Nat) : List Byte :=
  let gs := groupsOf (vals.length / 32 + 1) vals
  let bits := gs.flatMap (encodeGroup e wmin)
  let len := ceilTo 16 (4 + (bits.length + 7) / 8)
  bytesOf 4 len ++ packBytes (len - 4) bits

/-- Where the groups of an encoded record stand: first and last byte of each in the record. -/
def groupSpans (e wmin : Nat) (vals : List Nat) : List (Nat × Nat) :=
  (((groupsOf (vals.length / 32 + 1) vals).map fun g => groupBits e (chooseGroup wmin g).2).foldl
    (fun (acc : List (Nat × Nat) × Nat) n => (acc.1 ++ [(4 + acc.2 / 8, 4 + (acc.2 + n - 1) / 8)], acc.2 + n)) ([], 0)).1

/-- The most bytes that the records of an ENCODE from a first chunk on can take: every offset of full width or w_min (R49). -/
def encodeBound (c : Cmd) (first : Nat) : Nat :=
  ((List.range c.chunks).drop first).foldl (fun n k =>
    n + ceilTo 16 (4 + (((c.ordinals k).length + 31) / 32 * groupBits (8 * c.dsz) (max (8 * c.dsz) c.wmin) + 7) / 8)) 0

end Sys2Proof.Machine
end

