-- ==== Sys2Proof/Machine/Copy.lean ====
section
/-! DEFINITION. CPY.KICK and CPY.STAT, major 0x38 (R308, R309), the chunks of copy commands (R301 to R306) and their
follow-on (R307). -/

namespace Sys2Proof.Machine

/-! ## Local operands and their ranges (R49, R300, R308) -/

/-- From the lowest to one past the highest byte of some accesses, given as address and length. -/
def boundsOf : List (Nat × Nat) → Option (Nat × Nat)
  | [] => none
  | a :: r => some (r.foldl (fun m b => min m b.1) a.1, r.foldl (fun m b => max m (b.1 + b.2)) (a.1 + a.2))

/-- The records of a local stream as they stand: the offset past n of them, or past the last one whose L is a length. -/
def walkLocal (s : State) (cohort base : Nat) : Nat → Nat → Nat
  | 0, off => off
  | n + 1, off =>
    let len := localNat s cohort (base + off) 4
    if len = 0 ∨ len % 16 ≠ 0 ∨ 2 ^ 21 < base + off + len then off + 4 else walkLocal s cohort base n (off + len)

/-- The local source bytes of the chunks from `first` on, as address and length. A stream is read from the record at `pos`,
or from its base when the records before must be passed by their L (R306), with the lengths as they stand (log 68). -/
def localSrc (s : State) (cohort : Nat) (c : Cmd) (first : Nat) (pos : Option Nat) : List (Nat × Nat) :=
  if !c.sloc then []
  else if isDecode c then
    match pos with
    | some p => [(c.src + p, walkLocal s cohort (c.src + p) (c.chunks - first) 0)]
    | none => [(c.src, walkLocal s cohort c.src c.chunks 0)]
  else (c.ordinalsFrom first).filterMap fun o => (c.srcAddr o).map fun a => (a, c.ssz)

/-- The local destination bytes of those chunks. The length of a stream that ENCODE writes is not known yet: an upper bound
(log 68). -/
def localDst (s : State) (cohort : Nat) (c : Cmd) (first : Nat) (pos : Option Nat) : List (Nat × Nat) :=
  if !c.dloc then []
  else if isEncode c then
    match pos with
    | some p => [(c.dst + p, encodeBound c first)]
    | none => [(c.dst, walkLocal s cohort c.dst first 0 + encodeBound c first)]
  else (c.ordinalsFrom first).map fun o => (c.dstAddr o, c.dsz)

/-- The first byte of these accesses that R31 refuses (R308). -/
def operandBad (s : State) (cohort : Nat) (l : List (Nat × Nat)) : Option Nat :=
  (l.flatMap fun p => (List.range p.2).map (p.1 + ·)).find? fun a => !localOk s cohort (localAddr (BitVec.ofNat 32 a))

/-- The bytes of the destination that are known at the kick: of a stream, its first one. -/
def knownDst (s : State) (cohort : Nat) (c : Cmd) (first : Nat) : List (Nat × Nat) :=
  if c.dloc && isEncode c then [(c.dst, 1)] else localDst s cohort c first none

/-- The entries of a range: outward to 64-byte bounds, one for each workgroup that it reaches (R49; log 69). -/
def rangeEntries (cohort core owner : Nat) (r : Option (Nat × Nat)) : List ScoreEntry :=
  match r with
  | none => []
  | some (lo, hi) =>
    ((List.range 4).filter fun w => decide (lo / 2 ^ 19 ≤ w) && decide (w ≤ (hi - 1) / 2 ^ 19)).map fun w =>
      ({ cohort, wg := w, lo := if w = lo / 2 ^ 19 then lo % 2 ^ 19 / 64 * 64 else 0,
         hi := if w = (hi - 1) / 2 ^ 19 then ceilTo 64 ((hi - 1) % 2 ^ 19 + 1) else 2 ^ 19,
         core, owner, kept := false } : ScoreEntry)

/-- The entries of a command for its chunks from `first` on (R49, R51). -/
def commandEntries (s : State) (cohort core owner : Nat) (c : Cmd) (first : Nat) (pos : Option Nat) : List ScoreEntry :=
  rangeEntries cohort core owner (boundsOf (localSrc s cohort c first pos))
    ++ rangeEntries cohort core owner (boundsOf (localDst s cohort c first pos))

/-! ## CPY.KICK (R308) -/

def copyTrap (s : State) (addr : Word) (sub : Nat) (at' : DWord) : Out :=
  raise s { cause := cCOPY, info := subInfo sub, addr := some at', lanes := some addr }

/-- The commands whose slots a core's request engine holds. -/
def slotsHeld (s : State) (core : Nat) : List Nat := (s.copies.filter fun c => c.core == core).map (·.slot)

/-- The slot of a kick: the lowest free one without a record, else the free one with the oldest record. -/
def chooseSlot (s : State) (core : Nat) : Option Nat :=
  let held := slotsHeld s core
  let free := (List.range 16).filter fun k => !held.contains k
  let recs := (coreOf s core).records
  match free.find? fun k => !recs.any fun r => r.slot == k with
  | some k => some k
  | none =>
    match recs.filter fun r => free.contains r.slot with
    | [] => none
    | r :: rs => some (rs.foldl (fun a b => if b.stamp < a.stamp then b else a) r).slot

/-- The barrier that the command names. -/
def cmdBar (c : Cmd) : BarName := if c.bq then .basin (BitVec.ofNat 2 c.q) (BitVec.ofNat 7 c.name) else .own (BitVec.ofNat 7 c.name)

def followFunc (c : Cmd) : BitVec 4 := c.fword.extractLsb' 0 4
def followFlags (c : Cmd) : BitVec 3 := BitVec.ofNat 3 c.fctl
def followLow (c : Cmd) : Word := c.fword.extractLsb' 0 32 &&& ~~~0xF#32
def followArw (c : Cmd) : Word := c.fword.extractLsb' 32 32

/-- The follow-on passes the checks of an MMA of the gang (R307). -/
def followOk (s : State) (g : Gang) (c : Cmd) : Bool :=
  followFlags c &&& mmaFlagBits (followFunc c) == followFlags c
    && mmaVerdict s g (followFunc c) (followLow c) (followArw c) == .pass

/-- The command enters its core's request engine, with its record. -/
def startCommand (s : State) (g : Gang) (basin slot addr first : Nat) (bs : List Byte) (bar : Option (Nat × Nat)) : State :=
  let c := parseCmd bs
  let cmd : CopyCmd :=
    { uid := s.nextUid, basin, core := g.core, slot, cohort := g.cohort, wg := g.wg, gang := g.uid, ctx := ctxOf s g,
      region := regionOf s g, addr, bytes := bs, next := first, total := c.chunks, bar, flags := 0, sat := 0, csn := 0,
      kickFloor := g.floor, engine := none, pos := none, follow := .none }
  let s := { s with copies := s.copies ++ [cmd], nextUid := s.nextUid + 1 }
  modCore s g.core fun k =>
    { k with records := (k.records.filter fun r => r.slot != slot) ++
        [({ slot, stamp := cmd.uid, cohort := g.cohort, addr, state := 1, flags := 0, sat := 0, done := first } : CopyRec)] }

/-- Steps 4 and 5 of R308, the command fetched and a slot free. -/
def kickChecked (s : State) (g : Gang) (it : Issue) (addr kick : Word) (slot : Nat) (bs : List Byte) : Out :=
  let c := parseCmd bs
  let basin := ((cohortOf s g).map (·.basin)).getD 0
  let first := fld kick 0 20
  if c.malformed || fld kick 20 12 != 0 then copyTrap s addr 0x41 (addr.zeroExtend 64)
  else if c.chunks ≤ first then copyTrap s addr 0x41 (addr.zeroExtend 64)
  else match operandBad s g.cohort (localSrc s g.cohort c first none ++ knownDst s g.cohort c first) with
    | some a => copyTrap s addr 0x16 (BitVec.ofNat 64 a)
    | none =>
      let go (s : State) (bar : Option (Nat × Nat)) : Out :=
        if c.follow && !followOk s g c then copyTrap s addr 0x43 (addr.zeroExtend 64)
        else match enterRanges s basin (commandEntries s g.cohort g.core s.nextUid c first none) with
          | none => stay s it
          | some s => doneBoundary (releaseEvent (startCommand s g basin slot addr.toNat first bs bar) it.gang) it.gang
      if c.baren then withBound s g (cmdBar c) fun core obj _ => go s (some (core, obj)) else go s none

def execCpyKick (a b : Reg) (s : State) : Out :=
  boundary 0 false s fun s g it =>
    let m := execMask g it
    let addr := uniform g m a.toNat
    let kick := if b = 0#7 then 0#32 else uniform g m b.toNat
    if addr.toNat % 64 ≠ 0 then
      raise s { cause := cMISALIGN, info := subInfo 1, addr := some (addr.zeroExtend 64), lanes := none }
    else match firstBadByte s g.cohort addr.toNat 64 with
      | some x => localTrap s 0x16 x
      | none =>
        match chooseSlot s g.core with
        | none => stay s it
        | some slot =>
          let l := localAddr addr
          if localPoisoned s g.cohort l.wg l.off 64 then
            finishLanes s s it.gang ((lanesOf m).map fun i => (i, addr.zeroExtend 64)) 0x32 none 0 0 [] []
          else kickChecked s g it addr kick slot (localBytes s g.cohort l.wg l.off 64)

/-! ## CPY.STAT (R309) -/

/-- The record of the most recent kick of the command at an address by a gang of the cohort. -/
def copyRecord (c : Core) (cohort addr : Nat) : Option CopyRec :=
  match c.records.filter fun r => r.cohort == cohort && r.addr == addr with
  | [] => none
  | r :: rs => some (rs.foldl (fun a b => if a.stamp < b.stamp then b else a) r)

def bit (b : Bool) (k : Nat) : Nat := if b then 2 ^ k else 0

/-- The two words of a record. -/
def recordWord (done : Bool) (r : Option CopyRec) : Word :=
  match r with
  | none => 0
  | some r =>
    if done then BitVec.ofNat 32 (r.done % 2 ^ 20)
    else BitVec.ofNat 32 (r.state * 2 ^ 30 + bit (r.flags.getLsbD 4) 29 + bit (r.flags.getLsbD 2) 28
      + bit (r.flags.getLsbD 1) 27 + bit (r.flags.getLsbD 0) 26 + min r.sat 65535)

def execCpyStat (done : Bool) (b a : Reg) (s : State) : Out :=
  withGang s fun g it =>
    let m := execMask g it
    let r := copyRecord (coreOf s g.core) g.cohort (uniform g m a.toNat).toNat
    .next (setGang s (putAll g m b (recordWord done r)))

/-! ## Course of a command -/

def copy? (s : State) (u : Nat) : Option CopyCmd := s.copies.find? fun c => c.uid == u
def setCopy (s : State) (c : CopyCmd) : State := { s with copies := s.copies.map fun x => if x.uid = c.uid then c else x }

def modRecord (s : State) (c : CopyCmd) (f : CopyRec → CopyRec) : State :=
  modCore s c.core fun k =>
    { k with records := k.records.map fun r => if r.slot = c.slot ∧ r.stamp = c.uid then f r else r }

/-- Flags of an engine reach FPFLAGS and the checkpoint copy (R167). -/
def engineFlags (s : State) (uid : Nat) (f : FlagSet) : State :=
  let w : Word := BitVec.zeroExtend 32 f
  modGang s uid fun g =>
    { g with fpflags := g.fpflags ||| w,
             span := { g.span with chk := { g.span.chk with fpflags := g.span.chk.fpflags ||| w } } }

/-- The command leaves: entries retired, slot free; the CLOCK of its last chunk counts for its grid's completion write
(R235). -/
def leaveCommand (s : State) (c : CopyCmd) : State :=
  let s := match cohort? s c.cohort with
    | none => s
    | some h => modGrid s h.grid fun g => { g with stamp := max g.stamp (csnClock c.csn) }
  retireRanges (doneAsking { s with copies := s.copies.filter fun x => x.uid != c.uid } (.command c.uid)) c.basin c.uid

/-- A chunk from c.next on touches the range of an entry (R50). -/
def entryTouched (s : State) (c : CopyCmd) (k : Cmd) (e : ScoreEntry) : Bool :=
  (localSrc s c.cohort k c.next c.pos ++ localDst s c.cohort k c.next c.pos).any fun p =>
    decide (p.1 < e.wg * 2 ^ 19 + e.hi) && decide (e.wg * 2 ^ 19 + e.lo < p.1 + p.2)

/-- The entries that no remaining chunk touches retire (R50). -/
def retireTouched (s : State) (c : CopyCmd) : State :=
  let k := parseCmd c.bytes
  let b := basinOf s c.basin
  setBasin s c.basin { b with score := b.score.filter fun e => e.owner != c.uid || entryTouched s c k e }

/-- The command ends in a fault (R305). -/
def failCommand (s : State) (c : CopyCmd) (sub : Nat) (addr : Nat) : State :=
  let s := modRecord s c fun r => { r with state := 3 }
  let t : Trap := { cause := cCOPY, info := BitVec.ofNat 32 (c.next * 4096 + sub), addr := some (BitVec.ofNat 64 addr),
                    lanes := some (BitVec.ofNat 32 c.addr) }
  queueAsync (leaveCommand s c) c.gang t

/-- The command completes (R309). -/
def completeCommand (s : State) (c : CopyCmd) : State :=
  let s := modRecord s c fun r => { r with state := 2 }
  engineFlags (leaveCommand s c) c.gang c.flags

/-- Bytes counted down on the completion barrier; none when BYTES would fall below −2^31 (R272, R304). -/
def countDown (s : State) (c : CopyCmd) (n : Nat) : Option State :=
  match c.bar with
  | none => some s
  | some (core, obj) =>
    match barObj s core obj with
    | none => some s
    | some b =>
      if b.bytes - (n : Int) < -2 ^ 31 then none
      else some (barSettle s core obj { b with bytes := b.bytes - n, stamp := max b.stamp (csnClock c.csn) })

/-- Step 4 and what follows it: the chunk is completed, and with the last one the command. -/
def closeChunk (s : State) (c : CopyCmd) : State :=
  let k := parseCmd c.bytes
  match countDown s c ((k.ordinals c.next).length * k.dsz) with
  | none => failCommand s c 0x42 c.addr
  | some s =>
    let s := modRecord s c fun r => { r with done := c.next + 1, flags := c.flags, sat := min c.sat 65535 }
    let c := { c with next := c.next + 1 }
    if c.total ≤ c.next then completeCommand (setCopy s c) c else retireTouched (setCopy s c) c

/-! ## Chunks: accesses (R304) -/

/-- What one byte of an operand meets at step 1. -/
inductive ByteRes where
  | glob (x : Xlat)
  | loc (a : LocalAddr)
  | fail (sub : Nat)
  | own
deriving DecidableEq, Repr

def byteCheck (s : State) (c : CopyCmd) (need : Need) (isLocal : Bool) (a : Nat) : ByteRes :=
  if isLocal then
    let l := localAddr (BitVec.ofNat 32 a)
    if localOk s c.cohort l then .loc l else .fail 0x16
  else match checkAccess s c.ctx c.region need (BitVec.ofNat 64 a) with
    | .fail _ sub _ => .fail sub
    | .own _ => .own
    | .ok x => if x.poison then .fail 0x30 else .glob x

/-- A step-1 failure: subcause and address. -/
abbrev ChunkFail := Nat × Nat

/-- The first failing byte of n at a, or a needed hand-over. -/
inductive SpanRes where
  | ok
  | fail (f : ChunkFail)
  | own (a : Nat)
deriving DecidableEq, Repr

def spanCheck (s : State) (c : CopyCmd) (need : Need) (isLocal cmp : Bool) (a : Nat) : Nat → SpanRes
  | 0 => .ok
  | n + 1 =>
    let a := wrapAddr isLocal a
    match byteCheck s c need isLocal a with
    | .fail sub => .fail (sub, a)
    | .own => .own a
    | .loc _ => spanCheck s c need isLocal cmp (a + 1) n
    | .glob x => if cmp && !pteCMP x.pte then .fail (0x40, c.addr) else spanCheck s c need isLocal cmp (a + 1) n

/-- What the link makes of a read at pa (R13, R35, R379): nothing, poison, or a request that is not completed. -/
def linkSub (s : State) (link : LinkResult) (pa : Nat) : Option Nat :=
  if isDram pa then none
  else if !linkUp s (portOf pa) then some 0x22
  else match link with
    | .ok => none
    | .poisoned => some 0x30
    | .failed => some 0x22

/-- A byte as a chunk reads it, and the subcause with which the read fails. -/
def chunkByte (s : State) (c : CopyCmd) (link : LinkResult) (isLocal : Bool) (a : Nat) : Byte × Option Nat :=
  match byteCheck s c .copyRead isLocal a with
  | .glob x => (readByte s (pteKey x.pte) x.pa,
      (linkSub s link x.pa).orElse fun _ => if s.linePoison.contains (lineOf x.pa) then some 0x30 else none)
  | .loc l => (localByte s c.cohort l.wg l.off, if localPoisoned s c.cohort l.wg l.off 1 then some 0x30 else none)
  | .fail sub => (0, some sub)
  | .own => (0, none)

def chunkBytes (s : State) (c : CopyCmd) (link : LinkResult) (isLocal : Bool) (a n : Nat) : List Byte :=
  (List.range n).map fun i => (chunkByte s c link isLocal (wrapAddr isLocal (a + i))).1

/-- The first of n bytes whose read fails. -/
def chunkFault (s : State) (c : CopyCmd) (link : LinkResult) (isLocal : Bool) (a n : Nat) : Option ChunkFail :=
  (List.range n).findSome? fun i =>
    let a := wrapAddr isLocal (a + i)
    (chunkByte s c link isLocal a).2.map fun sub => (sub, a)

/-- A piece of the work of a chunk in ordinal order: the source bytes that an element needs, and the bytes that it writes. -/
structure Piece where
  src : Option (Nat × Nat)
  dst : Nat
  out : List Byte
deriving DecidableEq, Repr

/-- The elements as a command forms them: one entry for each ordinal of the chunk, with source address, bits after Conv, flags. -/
structure Elem where
  src : Option Nat
  bits : Nat
  flags : FlagSet
  sat : Bool
deriving DecidableEq, Repr

/-- Elements of COPY and ENCODE (R301). -/
def tensorElems (s : State) (c : CopyCmd) (link : LinkResult) (k : Cmd) : List Elem :=
  (k.ordinals c.next).map fun o =>
    match k.srcAddr o with
    | none => ⟨none, 0, 0, false⟩
    | some a =>
      let (b, f, st) := convElem k (natOfBytes (chunkBytes s c link k.sloc a k.ssz))
      ⟨some a, b, f, st⟩

/-! ### Streams -/

/-- The offset of the record of a chunk, by the L of the records before it; a failing header's subcause and address (R306). -/
def findRecord (s : State) (c : CopyCmd) (link : LinkResult) (isLocal : Bool) (base : Nat) : Nat → Nat → Except ChunkFail Nat
  | 0, off => .ok off
  | n + 1, off =>
    match chunkFault s c link isLocal (base + off) 4 with
    | some f => .error f
    | none => findRecord s c link isLocal base n (off + natOfBytes (chunkBytes s c link isLocal (base + off) 4))

def recordOffset (s : State) (c : CopyCmd) (link : LinkResult) (k : Cmd) : Except ChunkFail Nat :=
  match c.pos with
  | some p => .ok p
  | none => if isDecode k then findRecord s c link k.sloc k.src c.next 0 else findRecord s c link k.dloc k.dst c.next 0

/-- A bit field of a record at a bit offset after its header. -/
def recordBits (bs : List Byte) (bit n : Nat) : Nat := natOfBytes ((bs.drop (bit / 8)).take ((bit % 8 + n + 7) / 8)) / 2 ^ (bit % 8) % 2 ^ n

/-- A group of a record: its first bit after the header, w, and the first bit past it. -/
structure RecGroup where
  bit : Nat
  w : Nat
  stop : Nat
deriving DecidableEq, Repr

/-- The n groups of a record of L bytes up to one that is malformed or passes L, whose first bit is given then (R303, R313).
`bs` are the record's bytes after the header. -/
def recordGroups (e : Nat) (bs : List Byte) (len : Nat) : Nat → Nat → List RecGroup × Option Nat
  | 0, _ => ([], none)
  | n + 1, bit =>
    let w := recordBits bs bit 6
    let stop := bit + groupBits e w
    if 32 < w ∨ 8 * (len - 4) < stop then ([], some bit)
    else
      let (gs, bad) := recordGroups e bs len n stop
      (⟨bit, w, stop⟩ :: gs, bad)

/-- Element j of a group. -/
def recordElem (e : Nat) (bs : List Byte) (bit w j : Nat) : Nat :=
  (recordBits bs (bit + 6) e + recordBits bs (bit + 6 + e + w * j) w) % 2 ^ e

/-! ## A chunk -/

/-- What a chunk is to do: pieces in ordinal order, the number of bytes written, which adjacent groups of a record share (R304, step
5), the elements' flags and saturations, and the next record's offset. -/
structure Plan where
  pieces : List Piece
  written : Nat
  flags : FlagSet
  sat : Nat
  pos : Option Nat
  /-- A stream fault after these pieces. -/
  bad : Option ChunkFail
deriving DecidableEq, Repr

def elemFlags (l : List Elem) : FlagSet := orFlags (l.map (·.flags))
def elemSat (l : List Elem) : Nat := (l.filter (·.sat)).length

def planCopy (s : State) (c : CopyCmd) (link : LinkResult) (k : Cmd) : Plan :=
  let es := tensorElems s c link k
  { pieces := ((k.ordinals c.next).zip es).map fun p =>
      ⟨p.2.src.map fun a => (a, k.ssz), k.dstAddr p.1, bytesOf k.dsz p.2.bits⟩,
    written := es.length * k.dsz, flags := elemFlags es, sat := elemSat es, pos := none, bad := none }

/-- The bytes of the record that belong to element j: those of its group, the header with the first, the padding with the
last group. -/
def recordPiece (rec : List Byte) (spans : List (Nat × Nat)) (n j : Nat) : Nat × List Byte :=
  if j % 32 ≠ 0 then (0, [])
  else
    let g := j / 32
    let lo := if g = 0 then 0 else (spans.getD g (0, 0)).1
    let hi := if n ≤ j + 32 then rec.length else (spans.getD g (0, 0)).2 + 1
    (lo, (rec.drop lo).take (hi - lo))

def planEncode (s : State) (c : CopyCmd) (link : LinkResult) (k : Cmd) (off : Nat) : Plan :=
  let es := tensorElems s c link k
  let e := 8 * k.dsz
  let vals := es.map (·.bits)
  let bytes := encodeRecord e k.wmin vals
  let spans := groupSpans e k.wmin vals
  { pieces := ((List.range es.length).zip es).map fun p =>
      let (lo, out) := recordPiece bytes spans es.length p.1
      ⟨p.2.src.map fun a => (a, k.ssz), wrapAddr k.dloc (k.dst + off + lo), out⟩,
    written := bytes.length, flags := elemFlags es, sat := elemSat es, pos := some (off + bytes.length), bad := none }

/-- The pieces of one decoded group: the first needs the group's bytes (and with group 0 the header), the others nothing more. -/
def decodedGroup (k : Cmd) (base : Nat) (bs : List Byte) (ords : List Nat) (g : Nat) (x : RecGroup) : List (Piece × Elem) :=
  (((List.range 32).zip ((ords.drop (32 * g)).take 32))).map fun p =>
    let (b, f, st) := convElem k (recordElem (8 * k.ssz) bs x.bit x.w p.1)
    let lo := if g = 0 then 0 else 4 + x.bit / 8
    let hi := 4 + (x.stop + 7) / 8
    (⟨if p.1 = 0 then some (base + lo, hi - lo) else none, k.dstAddr p.2, bytesOf k.dsz b⟩, ⟨none, b, f, st⟩)

/-- A stream fault of DECODE at a field of n bytes: what the read of the field meets, else 0x45 (R303, R304). -/
def streamFault (s : State) (c : CopyCmd) (link : LinkResult) (k : Cmd) (a n : Nat) : ChunkFail :=
  (chunkFault s c link k.sloc a n).getD (0x45, wrapAddr k.sloc a)

/-- The bytes of the record that hold the w of a group, none past L (R303). -/
def widthBytes (len bit : Nat) : Nat := min ((bit % 8 + 13) / 8) (len - 4 - bit / 8)

def planDecode (s : State) (c : CopyCmd) (link : LinkResult) (k : Cmd) (off : Nat) : Plan :=
  let ords := k.ordinals c.next
  let e := 8 * k.ssz
  let base := k.src + off
  let n := (ords.length + 31) / 32
  let len := natOfBytes (chunkBytes s c link k.sloc base 4)
  if len % 16 ≠ 0 ∨ len = 0 then ⟨[], 0, 0, 0, none, some (streamFault s c link k base 4)⟩
  else
    let bs := chunkBytes s c link k.sloc (base + 4) (min (len - 4) (n * groupBits e 32 / 8 + 1))
    let (gs, bad) := recordGroups e bs len n 0
    let ps := ((List.range gs.length).zip gs).flatMap fun p => decodedGroup k base bs ords p.1 p.2
    { pieces := ps.map (·.1), written := ps.length * k.dsz, flags := elemFlags (ps.map (·.2)), sat := elemSat (ps.map (·.2)), pos := some (off + len),
      bad := bad.map fun bit => streamFault s c link k (base + 4 + bit / 8) (widthBytes len bit) }

def planOf (s : State) (c : CopyCmd) (link : LinkResult) (k : Cmd) : Except ChunkFail Plan :=
  if isCopy k then .ok (planCopy s c link k)
  else match recordOffset s c link k with
    | .error f => .error f
    | .ok off =>
      if isEncode k then .ok (planEncode s c link k off)
      else match chunkFault s c link k.sloc (k.src + off) 4 with
        | some f => .error f
        | none => .ok (planDecode s c link k off)

/-- Step 1: the first element that fails, its source before its destination, or a hand-over that a write needs. -/
def planCheck (s : State) (c : CopyCmd) (k : Cmd) : List Piece → SpanRes
  | [] => .ok
  | p :: r =>
    let src := match p.src with
      | none => SpanRes.ok
      | some (a, n) => spanCheck s c .copyRead k.sloc false a n
    match src with
    | .ok => match spanCheck s c .store k.dloc (isEncode k) p.dst p.out.length with
      | .ok => planCheck s c k r
      | x => x
    | x => x

/-- Step 2: the first source byte that arrives poisoned, or that the link does not deliver. -/
def planReads (s : State) (c : CopyCmd) (link : LinkResult) (k : Cmd) (ps : List Piece) : Option ChunkFail :=
  ps.findSome? fun p => p.src.bind fun (a, n) => chunkFault s c link k.sloc a n

/-- The translations of global bytes. -/
def globalBytes (s : State) (c : CopyCmd) (need : Need) (isLocal : Bool) (l : List Nat) : List Xlat :=
  l.filterMap fun a => match byteCheck s c need isLocal (wrapAddr isLocal a) with
    | .glob x => some x | _ => none

def srcXlats (s : State) (c : CopyCmd) (k : Cmd) (ps : List Piece) : List Xlat :=
  globalBytes s c .copyRead k.sloc (ps.flatMap fun p => match p.src with
    | none => [] | some (a, n) => (List.range n).map (a + ·))

/-- The unit in which an access reaches a home: a line of DRAM, or 64 bytes of a link (R60). -/
def accessUnit (pa : Nat) : Nat := if isDram pa then pa / 128 * 2 else pa / 64

def dedupLines (xs : List Xlat) : List Xlat :=
  xs.foldl (fun acc x => if acc.any fun y => accessUnit y.pa == accessUnit x.pa then acc else acc ++ [x]) []

/-- The request for a 64-byte piece over a link (R37, R60, R61). -/
def askPiece (s : State) (who : Asker) (region pa : Nat) : State × Bool :=
  ask s who region (linkOf pa) 0 (pa / 64) 1

/-- The reads of a chunk at their homes: lines of DRAM and pieces of the links (R53, R60, R61). -/
def askReads (s : State) (who : Asker) (region : Nat) : List Xlat → State × Bool
  | [] => (s, true)
  | x :: xs =>
    let (s, ok) := if isDram x.pa then askLine s who region x else askPiece s who region x.pa
    let (s, rest) := askReads s who region xs
    (s, ok && rest)

/-- Global writes as physical address, leaf and byte; local writes by workgroup and offset (R99, R47). -/
def planWrites (s : State) (c : CopyCmd) (k : Cmd) (ps : List Piece) : List (Nat × DWord × Byte) × List (Nat × Nat × Byte) × List Xlat :=
  let bytes := ps.flatMap fun p => ((List.range p.out.length).zip p.out).map fun q => (wrapAddr k.dloc (p.dst + q.1), q.2)
  let rs := bytes.map fun b => (byteCheck s c .store k.dloc b.1, b.2)
  (rs.filterMap fun r => match r.1 with
      | .glob x => some (x.pa, x.pte, r.2) | _ => none,
   rs.filterMap fun r => match r.1 with
      | .loc a => some (a.wg, a.off, r.2) | _ => none,
   rs.filterMap fun r => match r.1 with
      | .glob x => some x | _ => none)

/-- Writer identity of a copy engine (R81). -/
def copySrc (c : CopyCmd) : Word := BitVec.ofNat 32 (2 ^ 31 + (c.basin * 2 + c.engine.getD 0) * 256)

/-- The chunk's writes: one engine span, then the banks. None while the favoured span would be a victim (R77). -/
def writeChunk (s : State) (c : CopyCmd) (k : Cmd) (ps : List Piece) : Option (State × Nat) :=
  let (gw, lw, xs) := planWrites s c k ps
  let s := (dedupLines xs).foldl (fun s x => setAD s x true) s
  if gw.isEmpty then some (localPuts s c.cohort lw, c.csn)
  else match engineCommit s c.region (max c.kickFloor (csnClock c.csn)) c.core gw [] [] (copySrc c) fun _ s => s with
    | none => none
    | some (s, csn) => some (localPuts s c.cohort lw, csn)

/-- A copy engine of the basin that runs nothing (R304). -/
def freeEngine (s : State) (basin : Nat) : Option Nat :=
  (List.range 2).find? fun e => !s.copies.any fun c => c.basin == basin && c.engine == some e

/-- Commands of one request engine start in kick order (R308). -/
def mayStart (s : State) (c : CopyCmd) : Bool :=
  s.copies.all fun x => x.core != c.core || c.uid ≤ x.uid || x.engine.isSome

/-- The command starts on a free engine of its basin, when it may. -/
def startEngine (s : State) (c : CopyCmd) : State :=
  if !mayStart s c then s
  else match freeEngine s c.basin with
    | none => s
    | some e => setCopy s { c with engine := some e }

/-- The conversion flags and saturations of the chunks written so far stand in the record, however the command ends (R309, R398). -/
def noteFlags (s : State) (c : CopyCmd) : State := modRecord s c fun r => { r with flags := c.flags, sat := min c.sat 65535 }

/-- Steps 2 to 5 of a chunk whose checks passed: without a balance it waits before step 2, and its written bytes are charged when
they are written (R60, R61). -/
def performChunk (s : State) (c : CopyCmd) (link : LinkResult) (k : Cmd) (p : Plan) : State :=
  let who := Asker.command c.uid
  let xs := dedupLines (srcXlats s c k p.pieces)
  match ask s who c.region .copy (c.core / 64) 0 0 with
  | (s, false) => s
  | (s, true) => match askReads s who c.region xs with
    | (s, false) => s
    | (s, true) =>
      match planReads s c link k p.pieces with
      | some f => failCommand s c f.1 f.2
      | none =>
        match writeChunk (xs.foldl (fun s x => setAD s x false) s) c k p.pieces with
        | none => s
        | some (t, csn) =>
          let s := doneAsking (charge t c.region .copy (c.core / 64) ((p.written + 63) / 64)) who
          let c := { c with flags := c.flags ||| p.flags, sat := min 65535 (c.sat + p.sat), csn, pos := p.pos }
          let s := noteFlags s c
          if k.follow && c.next + 1 == c.total then setCopy s { c with follow := .due }
          else closeChunk (setCopy s c) c

/-- A chunk on its engine: its checks, then its steps; a write to a page of the host or a peer waits for the hand-over. -/
def runChunk (s : State) (c : CopyCmd) (link : LinkResult) (k : Cmd) : State :=
  match planOf s c link k with
  | .error f => failCommand s c f.1 f.2
  | .ok p =>
    match planCheck s c k p.pieces, p.bad with
    | .fail f, _ => failCommand s c f.1 f.2
    | .own a, _ => requestHandover s c.ctx (BitVec.ofNat 64 a) fun r => { r with cmds := setK c.uid (BitVec.ofNat 64 a) r.cmds }
    | .ok, some b => failCommand s c b.1 b.2
    | .ok, none => performChunk s c link k p

/-- The cohort's restore is not yet complete: its panels and scale entries are still being filled again, before its copies go on and
its gangs issue (R373). -/
def restoring (s : State) (uid : Nat) : Bool := (cohort? s uid).any fun c => !c.refills.isEmpty

/-- COPY_CHUNK (R304): the command starts on an engine, or its engine performs the next chunk, with the partner's answer to
reads over a link. Starting is a turn of its own, so that of two commands that have started either may write first (R310). -/
def execCopyChunk (u : Nat) (s : State) : Out :=
  match copy? s u with
  | none => .next s
  | some c =>
    if c.total ≤ c.next ∨ c.follow ≠ .none ∨ restoring s c.cohort then .next s
    else if c.engine.isNone then .next (startEngine s c)
    else .next (runChunk s c c.answer (parseCmd c.bytes))

/-! ## The follow-on (R307) -/

/-- FOLLOW_ON_OFFER: after the last chunk's writes the follow-on is checked and offered to the engine of the gang's core. -/
def execFollowOnOffer (u : Nat) (s : State) : Out :=
  match copy? s u with
  | none => .next s
  | some c =>
    let k := parseCmd c.bytes
    if c.follow ≠ .due then .next s
    else match gang? s c.gang with
      | none => .next (failCommand s c 0x44 c.addr)
      | some g =>
        if g.ended || !followOk s g k then .next (failCommand s c 0x44 c.addr)
        else
          let op := mkOp s g (.mma (followFunc k) (followFlags k)) 0 ((followLow k).zeroExtend 64) (followArw k)
          .next (offerTo (setCopy s { c with follow := .offered }) g.core { op with follow := some c.uid })

/-- The follow-on has been accepted: the last chunk's count-down (R307, step 4). -/
def followAccepted (s : State) (u : Nat) : State :=
  match copy? s u with
  | none => s
  | some c => closeChunk s c

end Sys2Proof.Machine
end

