-- ==== Sys2Proof/Machine/Done.lean ====
section
/-! DEFINITION. The completion write of a grid or a raster command (R235, R327), and the error records of the device's own
agents (R385). -/

namespace Sys2Proof.Machine

/-- RACESRC of a completion write: ENG = 1, UNIT 0xFF, GANG 0 (R81). -/
def doneSrc : Word := BitVec.ofNat 32 (2 ^ 31 + 0xFF * 256)

/-- What the add of 1 at DONE meets: it is made, it must wait, it needs a hand-over, or it fails. -/
inductive DoneRes where
  | done (s : State)
  | wait (s : State)
  | own
  | fault (t : Trap)

/-- The atomic add of 1 to the doubleword at va with a release stamp (R235). `who` asks for the line (R60); `fail` is
the subcause of a hand-over that did not complete. A misaligned doubleword is a fault (log 37). -/
def completionAdd (s : State) (who : Asker) (ctx region : Nat) (va : DWord) (stamp : Nat) (fail : Option Nat) : DoneRes :=
  let fault (c : BitVec 6) (i : Word) : DoneRes := .fault { cause := c, info := i, addr := some va, lanes := none }
  if va.toNat % 8 ≠ 0 then fault cMISALIGN (subInfo 1)
  else match checkAccess s ctx region .store va with
    | .fail c sub level => fault c (checkInfo c sub level)
    | .own _ => match fail with
      | some sub => fault cOWNER (subInfo sub)
      | none => .own
    | .ok x =>
      if x.poison || s.linePoison.contains (lineOf x.pa) then fault cPOISON (subInfo 0x30)
      else if favourBlocks s none ((List.range 8).map (x.pa + ·)) [] then .wait s
      else match askLine s who region x with
        | (s, false) => .wait s
        | (s, true) =>
          let s := setStamp (setAD s x true) x.pa 8 stamp
          let s := homeWrite s none none x (bytesOf 8 (natOfBytes (homeBytes s x 8).1 + 1)) stamp doneSrc
          .done (doneAsking (storeLines s region [(x.pa, x.pte)]) who)

/-- A record of an error that no gang of the device carries (R385): kind 2, with the fault domain of a region. GANGID,
workgroup and TRAPPC are free (log 19). -/
def unitRecord (s : State) (ctx region cohort : Nat) (t : Trap) : State :=
  let (s, t) := fixTrapWith s t t.lanes
  let (k, s) := nextFresh (nextFresh s).2
  let v := Config.unstated (k - 1)
  keepRecord s
    { kind := 2#8, fdom := BitVec.zeroExtend 8 (heldFdom s region), ctx := BitVec.ofNat 32 ctx,
      cohort := BitVec.ofNat 64 cohort, gangid := v.extractLsb' 0 16, wg := v.extractLsb' 16 16,
      cause := BitVec.zeroExtend 32 t.cause, info := t.info, lanes := t.lanes.getD 0, pc := Config.unstated k,
      addr := t.addr.getD 0, count := 1 }

end Sys2Proof.Machine
end

