-- ==== Sys2Proof/Machine/FGrid.lean ====
section
/-! DEFINITION. The feature-grid unit, major 0x32 (R294, R295). -/

namespace Sys2Proof.Machine

/-- The grid descriptor (R294). -/
structure GridDesc where
  table : DWord
  levels : Nat
  t : Nat
  feats : Nat
  res : List Nat
deriving DecidableEq, Repr

def parseGrid (bs : List Byte) : GridDesc :=
  let c := wordAt bs 8
  { table := dwordAt bs 0, levels := fld c 8 4 + 1, t := fld c 3 5, feats := if c.getLsbD 0 then 4 else 2,
    res := (List.range 16).map fun l => natAt bs (16 + 2 * l) 2 }

def gridMalformed (d : GridDesc) (bs : List Byte) : Bool :=
  let c := wordAt bs 8
  fld c 12 20 != 0 || fld c 1 2 != 0 || !zeroAt bs 12 4 || !zeroAt bs 48 16 || decide (d.t < 4) || decide (22 < d.t)
    || ((List.range 16).any fun l => decide (l < d.levels) == (d.res.getD l 0 == 0))
    || d.table.toNat % 8 != 0 || d.table.toNat / 2 ^ 56 != 0

/-- sat32(RN(x × 2^16)); NaN gives 0. -/
def gridCoord (x : Word) : Int :=
  match fdec fp32 x.toNat with
  | .nan _ => 0
  | .inf n => if n then -2 ^ 31 else 2 ^ 31 - 1
  | .fin n m e => (ftoInt .rn (-2 ^ 31) (2 ^ 31 - 1) (.fin n m (e + 16))).1

/-- Integer and fractional part of a coordinate at a level. -/
def gridPart (p : Int) (res : Nat) : Int × Nat := let x := p * res; (x.fdiv 65536, (x.fmod 65536).toNat)

/-- Integer and fractional parts along three axes; FGRID.2D takes z as 0. -/
abbrev GridPoint := List (Int × Nat)

def gridPoint (twoD : Bool) (x y z : Word) (res : Nat) : GridPoint :=
  [gridPart (gridCoord x) res, gridPart (gridCoord y) res, if twoD then (0, 0) else gridPart (gridCoord z) res]

def cornerBit (c k : Nat) : Nat := c / 2 ^ k % 2

/-- The table entry of a corner. -/
def gridHash (t : Nat) (p : GridPoint) (c : Nat) : Nat :=
  let term (k mul : Nat) : Nat := (ofInt 32 ((p.getD k (0, 0)).1 + cornerBit c k) * BitVec.ofNat 32 mul).toNat
  Nat.xor (Nat.xor (term 0 1) (term 1 0x9E3779B1)) (term 2 0xC2B2AE35) % 2 ^ t

/-- The weight along an axis, an exact FP32 value. -/
def gridWeight (p : GridPoint) (c k : Nat) : FVal :=
  let f := (p.getD k (0, 0)).2
  .fin false (if cornerBit c k = 1 then f else 65536 - f) (-16)

def rn32 (f : Nat × FlagSet) : FVal := fdec fp32 f.1

/-- The corner's weight; wz is 1.0 in two dimensions. -/
def cornerWeight (twoD : Bool) (p : GridPoint) (c : Nat) : FVal :=
  let wz : FVal := if twoD then .fin false 1 0 else gridWeight p c 2
  rn32 (fmul fp32 .rn (rn32 (fmul fp32 .rn (gridWeight p c 0) (gridWeight p c 1))) wz)

def corners (twoD : Bool) : List Nat := List.range (if twoD then 4 else 8)

/-- Addresses of the entries of one lane, level by level, corner by corner. -/
def gridAddrs (twoD : Bool) (d : GridDesc) (x y z : Word) : List DWord :=
  (List.range d.levels).flatMap fun l =>
    let p := gridPoint twoD x y z (d.res.getD l 0)
    (corners twoD).map fun c => d.table + BitVec.ofNat 64 ((l * 2 ^ d.t + gridHash d.t p c) * (2 * d.feats))

/-- One feature of one level from the corners' entries, in corner order. -/
def gridFeature (twoD : Bool) (p : GridPoint) (entries : List (List Byte)) (f : Nat) : Nat :=
  let s := ((corners twoD).zip entries).foldl (fun s q =>
    rn32 (ffma fp32 .rn (cornerWeight twoD p q.1) (fdec fp16 (natAt q.2 (2 * f) 2)) s)) (.fin false 0 0)
  (fconv bf16 .rn false s).1

/-- The row of a lane: level by level, feature by feature, as BF16. -/
def gridRow (twoD : Bool) (d : GridDesc) (x y z : Word) (entries : List (List Byte)) : List Byte :=
  let n := (corners twoD).length
  (List.range d.levels).flatMap fun l =>
    let p := gridPoint twoD x y z (d.res.getD l 0)
    (List.range d.feats).flatMap fun f => bytesOf 2 (gridFeature twoD p ((entries.drop (n * l)).take n) f)

/-- The table reads of one lane, checked (R22). -/
def gridLane (s : State) (g : Gang) (addrs : List DWord) : LaneRes (List Xlat) :=
  addrs.foldr (fun va r => match laneCheck s g .load 1 va with
    | .fail c i a => .fail c i a
    | .own a => .own a
    | .ok x => match r with
      | .ok xs => .ok (x :: xs)
      | r => r) (.ok [])

/-- Lanes that write a row: one of each pair in protected mode. -/
def rowLanes (g : Gang) (m : LaneMask) : List Nat := (lanesOf m).filter fun i => !g.prot || i % 2 == 0

/-- The ranges of rows that the lanes write. -/
def rowRanges (g : Gang) (l : Low) (n : Nat) (lanes : List Nat) : List (Nat × Nat × Nat) :=
  lanes.map fun i => (l.wg, l.row (visOf g i), l.row (visOf g i) + n)

/-- The first byte of the lanes' rows that R31 refuses. -/
def rowsFail (s : State) (g : Gang) (l : Low) (n : Nat) (lanes : List Nat) : Option DWord :=
  lanes.findSome? fun i => lowFail s g.cohort { l with off := l.row (visOf g i) } 1 n

/-- Coordinate k of a lane, in quad a. -/
def laneCoord (g : Gang) (a : Reg) (k lane : Nat) : Word := getReg g (a.toNat + k) lane

/-- Read one lane's entries (translations and addresses) and write its row, unless some entry is poisoned (R376). -/
def gridStep (twoD : Bool) (d : GridDesc) (l : Low) (uid : Nat) (a : Reg) (acc : State × List (Nat × DWord))
    (lane : Nat) (xs : List Xlat) (vas : List DWord) : State × List (Nat × DWord) :=
  match gang? acc.1 uid with
  | none => acc
  | some g =>
    let (s, es) := xs.foldl (fun (acc : State × List (List Byte × Bool)) x =>
      let (s, bs, p) := cachedRead (setAD acc.1 x false) uid x (2 * d.feats) false; (s, acc.2 ++ [(bs, p)])) (acc.1, [])
    match (vas.zip es).find? fun e => e.2.2 with
    | some e => (s, acc.2 ++ [(lane, e.1)])
    | none =>
      let v (k : Nat) : Word := laneCoord g a k lane
      let row := gridRow twoD d (v 0) (v 1) (v 2) (es.map (·.1))
      (localWrite s g.cohort l.wg (l.row (visOf g lane)) row, acc.2)

/-- Rows for the lanes whose table reads passed. -/
def gridLanes (twoD : Bool) (s : State) (g : Gang) (it : Issue) (d : GridDesc) (l : Low) (a : Reg) : Out :=
  let lanes := rowLanes g (execMask g it)
  let n := 2 * d.levels * d.feats
  let addrs (i : Nat) : List DWord := gridAddrs twoD d (laneCoord g a 0 i) (laneCoord g a 1 i) (laneCoord g a 2 i)
  match rowsFail s g l n lanes with
  | some x => raise s { cause := cPERM, info := subInfo 0x16, addr := some x, lanes := none }
  | none =>
    let rs := lanes.map fun i => (i, gridLane s g (addrs i))
    match laneOwn rs, laneFails rs with
    | some va, _ => awaitHandover s it (ctxOf s g) va
    | none, some f => raise s f.trap
    | none, none =>
      match scoreWait s g.cohort (rowRanges g l n lanes) with
      | none => stay s it
      | some s1 =>
        let oks := laneOks rs
        match askUntracked s1 (.gang it.gang it.split) g (oks.flatMap (·.2)) with
        | (s1, false) => stay (keepAsks s s1) it
        | (s1, true) =>
          let (s', dead) := oks.foldl (fun acc o => gridStep twoD d l it.gang a acc o.1 o.2 (addrs o.1)) (s1, [])
          finishLanes s (freshSpan s' it.gang) it.gang dead 0x30 none 0 0 [] []

def execGridUnit (twoD : Bool) (d a b : Reg) (s : State) : Out :=
  boundary 2 false s fun s g it =>
    let m := execMask g it
    let low := uniform g m d.toNat
    let va := uniformPair g m b.toNat
    if lowMalformed low then raise s { cause := cILLEGAL, info := subInfo 0x24, addr := none, lanes := none }
    else if va.toNat % 64 ≠ 0 then raise s { cause := cMISALIGN, info := subInfo 1, addr := some va, lanes := none }
    else match laneCheck s g .load 1 va with
      | .own x => awaitHandover s it (ctxOf s g) x
      | .fail c i x => raise s { cause := c, info := i, addr := some x, lanes := none }
      | .ok x =>
        match askUntracked s (.gang it.gang it.split) g [x] with
        | (s, false) => stay s it
        | (s, true) =>
          let (s, bs, p) := cachedRead (setAD s x false) it.gang x 64 false
          if p then raise s { cause := cPOISON, info := subInfo 0x30, addr := some va, lanes := none }
          else
            let desc := parseGrid bs
            if gridMalformed desc bs then raise s { cause := cPERM, info := subInfo 0x19, addr := some va, lanes := none }
            else gridLanes twoD s g it desc (parseLow low) a

def execFgrid (d a b : Reg) (s : State) : Out := execGridUnit false d a b s
def execFgrid2d (d a b : Reg) (s : State) : Out := execGridUnit true d a b s

end Sys2Proof.Machine
end

