-- ==== Sys2Proof/Machine/Engine.lean ====
section
/-! DEFINITION. The matrix engine's own steps: acceptance (R49, R278), performance in engine order (R167, R279, R280), the
arrival of scale entries (R290), and the grant to a waiting gang (R276). -/

namespace Sys2Proof.Machine

/-! ## Acceptance (R278) -/

def opRange (o : EngineOp) : Option (Low × Nat × Nat) :=
  let r := parseArw o.b
  let l := parseLow (o.a.extractLsb' 0 32)
  match o.work with
  | .mma _ _ => some (l, r.rows, 144)
  | .mmaB _ _ => if o.peer = o.gang then some (l, r.rows, 144) else none
  | .toLm => some (l, r.rows, 4 * r.width)
  | .fromLm => some (l, r.rows, 4 * r.width)
  | _ => none

/-- An MMA, of one engine or of the basin. -/
def isMma : Work → Bool
  | .mma _ _ => true | .mmaB _ _ => true | _ => false

/-- The instruction reads memory when the engine accepts it (R284, R290, R292). -/
def readsMemory : Work → Bool
  | .load => true | .bind => true | .fill _ => true | _ => false

/-- Rows that the engine keeps for .REUSE are dropped (R288). -/
def dropReuse (s : State) (core basin : Nat) : State :=
  match (coreOf s core).reuse with
  | none => s
  | some u => retireRanges (modCore s core fun c => { c with reuse := none }) basin u

/-- The pieces as translations. -/
def pieceXlats (s : State) (o : EngineOp) : List (Xlat × Nat) :=
  o.pieces.map fun p => (⟨p.1, p.2.1, 0, pagePoisoned s p.1⟩, p.2.2)

/-- The untracked reads of an engine instruction (R58, R101): the bytes, and the places of poisoned ones. -/
def fetchPieces (s : State) (uid : Nat) (xs : List (Xlat × Nat)) : State × List Byte × List Nat :=
  xs.foldl (fun acc x =>
    let (s, bs, p) := cachedRead acc.1 uid x.1 x.2 true
    (s, acc.2.1 ++ bs, if p then acc.2.2 ++ (List.range x.2).map (acc.2.1.length + ·) else acc.2.2)) (s, [], [])

/-- Local ranges enter the scoreboard; none when they must wait (R49). -/
def enterOp (s : State) (core : Nat) (g : Gang) (o : EngineOp) : Option State :=
  match opRange o with
  | none => some s
  | some (l, rows, n) =>
    let basin := ((cohortOf s g).map (·.basin)).getD 0
    let s := if isMma o.work then dropReuse s core basin else s
    let (lo, hi) := lowRange l rows n
    enterRanges s basin [⟨g.cohort, l.wg, lo, hi, core, o.uid, false⟩]

/-- The instruction as accepted, with what it reads; none when it must wait, with the requests that issued (R61). -/
def acceptOp (s : State) (core : Nat) (g : Gang) (o : EngineOp) : State × Option EngineOp :=
  match enterOp s core g o with
  | none => (s, none)
  | some s =>
    if !readsMemory o.work then (s, some o)
    else
      let xs := pieceXlats s o
      match askUntracked s (.engine o.uid) g (xs.map (·.1)) with
      | (s, false) => (s, none)
      | (s, true) =>
        let (s, bytes, poisoned) := fetchPieces (doneAsking s (.engine o.uid)) o.gang xs
        let left := if o.work = .bind then (List.range (bindCount o.b)).map (bindFirst o.b + ·) else []
        (s, some { o with bytes, poisoned, ready := true, walks := [], left })

/-- An offer may be accepted: the queue has room, and no earlier offer of the same gang stands before it. -/
def mayAccept (c : Core) (pos : Nat) (o : EngineOp) : Bool :=
  decide (c.engine.length < 16) && (c.offers.take pos).all fun x => x.gang != o.gang

/-- MATRIX_ACCEPT (R278): the engine accepts the offer at a place among its offers. -/
def execMatrixAccept (core pos : Nat) (s : State) : Out :=
  let c := coreOf s core
  match c.offers[pos]? with
  | none => .next s
  | some o =>
    if !mayAccept c pos o then .next s
    else match gang? s o.gang with
      | none => .next s
      | some g => match acceptOp s core g o with
        | (s, none) => .next s
        | (s, some o) =>
          let s := modCore s core fun c => { c with offers := c.offers.eraseIdx pos, engine := c.engine ++ [o] }
          .next (match o.follow with
            | some u => followAccepted s u
            | none => s)

/-! ## Engine order (R279, R291) -/

/-- Ranges of window cells that an instruction reads or writes: first row, rows, first column, columns. -/
def opCells (o : EngineOp) : List (Nat × Nat × Nat × Nat) :=
  let r := parseArw o.b
  let own := (r.row0, r.rows, r.col, r.width)
  match o.work with
  | .bind => []
  | .fill _ => []
  | .scacc _ => let x := parseSc (o.a.extractLsb' 0 32); [own, (x.prow, r.rows, x.pcol, r.width)]
  | .cvt fmt =>
    let w : Word := o.a.extractLsb' 0 32
    [own, (fld w 4 8, r.rows, 16 * fld w 0 4, r.width / (cvtFmt fmt).2)]
  | _ => [own]

/-- Scale entries that an instruction has yet to read or bind: of a binding, those that have not arrived (R291). -/
def opEntries (o : EngineOp) : List Nat :=
  match o.work with
  | .bind => o.left
  | .scacc _ =>
    let r := parseArw o.b
    let x := parseSc (o.a.extractLsb' 0 32)
    (List.range r.rows).map (x.sa + ·) ++ (List.range r.width).map (x.sb + ·)
  | _ => []

def rangesMeet (a b : Nat × Nat) : Bool := decide (a.1 < b.1 + b.2) && decide (b.1 < a.1 + a.2)

def opsMeet (o p : EngineOp) : Bool :=
  ((opCells o).any fun a => (opCells p).any fun b => rangesMeet (a.1, a.2.1) (b.1, b.2.1) && rangesMeet (a.2.2.1, a.2.2.2) (b.2.2.1, b.2.2.2))
    || (opEntries o).any fun e => (opEntries p).contains e

/-- An SCACC reads an entry that is still pending. -/
def waitsForEntries (before : List EngineOp) (o : EngineOp) : Bool :=
  o.work != .bind && before.any fun p => p.peer == o.peer && (opEntries o).any fun e => p.left.contains e

/-- The local bytes that an instruction has yet to read or write: cohort, range, and whether it writes them. A basin-wide MMA
whose rows are fetched reads none. -/
def opLocal (s : State) (o : EngineOp) : Option (Nat × (Nat × Nat × Nat) × Bool) :=
  if o.ready then none
  else (opRange o).bind fun (l, rows, n) => (gang? s o.gang).map fun g =>
    (g.cohort, (l.wg, lowRange l rows n), o.work == .toLm)

/-- Two instructions meet in local memory, and one of them writes there: they keep the order of acceptance (R279; log 84). -/
def localMeet (s : State) (o p : EngineOp) : Bool :=
  match opLocal s o, opLocal s p with
  | some (c, (w, lo, hi), wr), some (c', (w', lo', hi'), wr') =>
    c == c' && w == w' && decide (lo < hi') && decide (lo' < hi) && (wr || wr')
  | _, _ => false

/-- One more instruction of the queue, with those before it and those of them that pending scale entries hold up: itself, where it
waits for entries, or meets one that is held up on its grant or in local memory (R279, R291). -/
def heldStep (s : State) (acc : List EngineOp × List EngineOp) (o : EngineOp) : List EngineOp × List EngineOp :=
  let held := !o.left.isEmpty || waitsForEntries acc.1 o
    || acc.2.any fun p => localMeet s p o || (p.peer == o.peer && opsMeet p o)
  (acc.1 ++ [o], if held then acc.2 ++ [o] else acc.2)

/-- The instructions of a queue that pending scale entries hold up. -/
def heldUp (s : State) (queue : List EngineOp) : List EngineOp := (queue.foldl (heldStep s) ([], [])).2

/-- Earlier instructions that an instruction need not follow: those on other grants that do not meet it in local memory
(R279), and those that pending entries hold up and that share neither a cell nor an entry with it (R291). -/
def passes (s : State) (held : List EngineOp) (p o : EngineOp) : Bool :=
  !localMeet s p o && (p.peer != o.peer || (held.contains p && !opsMeet p o))

/-- The instruction at a place of the queue may be performed now. -/
def mayPerform (s : State) (queue : List EngineOp) (pos : Nat) (o : EngineOp) : Bool :=
  let before := queue.take pos
  o.left.isEmpty && !waitsForEntries before o && before.all fun p => passes s (heldUp s before) p o

/-! ## Performance (R167, R284 to R293) -/

/-- POISON, subcause 0x31, to the gang (R284). -/
def enginePoison (s : State) (uid : Nat) : State :=
  queueAsync s uid { cause := cPOISON, info := subInfo 0x31, addr := none, lanes := none }

/-- Written cells and flags reach the engine's core and the issuing gang. -/
def putCells (s : State) (core uid : Nat) (gr : Grant) (r : List (Nat × Nat × Word) × FlagSet) : State :=
  engineFlags (modCore s core fun c => accPuts gr c r.1) uid r.2

def lmBytes (s : State) (cohort : Nat) (l : Low) (n row : Nat) : List Byte := localBytes s cohort l.wg (l.row row) n
def lmPoison (s : State) (cohort : Nat) (l : Low) (rows n : Nat) : Bool :=
  (List.range rows).any fun r => localPoisoned s cohort l.wg (l.row r) n

/-- The A rows of an MMA: fetched here, or delivered by the issuer's engine (R289). -/
def aRows (o : EngineOp) (s : State) (g : Gang) (low : Low) (r : Nat) : List Byte :=
  if o.ready then (o.bytes.drop (144 * r)).take 144 else lmBytes s g.cohort low 144 r

/-- A rows are poisoned (log 23). -/
def aPoison (o : EngineOp) (s : State) (g : Gang) (low : Low) (rows : Nat) : Bool :=
  if o.ready then !o.poisoned.isEmpty else lmPoison s g.cohort low rows 144

/-- The issuer's engine delivers the A rows to the other three (R289). -/
def deliverRows (s : State) (o : EngineOp) (bytes : List Byte) (poisoned : List Nat) : State :=
  let f (l : List EngineOp) := l.map fun x => if x.uid = o.uid && !x.ready then { x with bytes, poisoned, ready := true } else x
  { s with cores := s.cores.map fun c => (c.1, { c.2 with offers := f c.2.offers, engine := f c.2.engine }) }

/-- MMA on one engine (R287). -/
def performMma (s : State) (core : Nat) (g p : Gang) (o : EngineOp) (func : BitVec 4) (flags : BitVec 3) : State :=
  let r := parseArw o.b
  let low := parseLow (o.a.extractLsb' 0 32)
  let c := coreOf s core
  if mmaPoisoned func r c p.grant || aPoison o s g low r.rows then enginePoison s o.gang
  else putCells s core o.gang p.grant (mmaResult func flags r c p.grant (aRows o s g low))

/-- One column slot filled: dense bytes from 0, or 72 data bytes and 48 metadata bytes from 144 (R283 to R285). -/
def putColumn (sparse : Bool) (key : Nat) (bs : List Byte) (bad : Bool) (c : Core) : Core :=
  let at' (i : Nat) : Nat := 192 * key + (if sparse && 72 ≤ i then 144 + (i - 72) else i)
  { c with wbuf := ((List.range bs.length).zip bs).foldl (fun w b => putK 0#8 (at' b.1) b.2 w) c.wbuf,
           wbufPoison := if bad then (key :: c.wbufPoison).eraseDups else c.wbufPoison.filter (· != key) }

/-- The fill of weight-buffer columns (R284). -/
def performFill (s : State) (core : Nat) (p : Gang) (o : EngineOp) (sparse : Bool) : State :=
  let f := parseFill o.b
  let n := colBytes sparse
  let put (c : Core) (j : Nat) : Core :=
    putColumn sparse (slotKey p.grant f.panel (f.slot + j)) ((o.bytes.drop (n * j)).take n)
      ((List.range n).any fun i => o.poisoned.contains (n * j + i)) c
  let kind := if sparse then 1 else 0
  let recs := (List.range f.cols).map fun j => (⟨kind, f.panel, f.slot + j, o.a + BitVec.ofNat 64 (f.stride * j)⟩ : FillRec)
  let s := modCore s core fun c => (List.range f.cols).foldl put c
  modGang s p.uid fun g =>
    { g with grant := { g.grant with fills := recs ++ g.grant.fills.filter fun x =>
        !(x.kind < 2 && x.panel == f.panel && decide (f.slot ≤ x.index) && decide (x.index < f.slot + f.cols)) } }

/-- The tracked stores of ACC.ST into the gang's current span (R101, R292). -/
def performStore (s : State) (o : EngineOp) (bytes : List Byte) : State :=
  ((pieceXlats s o).foldl (fun (acc : State × List Byte) x =>
    (trackedStore acc.1 o.gang x.1 (acc.2.take x.2), acc.2.drop x.2)) (s, bytes)).1

/-- The words of the cells of a range, row by row. -/
def cellBytes (c : Core) (g : Grant) (l : List (Nat × Nat)) : List Byte := l.flatMap fun p => bytesOf 4 (accGet c g p.1 p.2).toNat

/-- The effect of one instruction (R284 to R293), `p` being the gang whose grant it acts on. -/
def performWork (s : State) (core : Nat) (g p : Gang) (o : EngineOp) : State :=
  let r := parseArw o.b
  let a : Word := o.a.extractLsb' 0 32
  let low := parseLow a
  let c := coreOf s core
  let gr := p.grant
  let n := 4 * r.width
  match o.work with
  | .mma func flags => performMma s core g p o func flags
  | .mmaB func flags => performMma s core g p o func flags
  | .zero => modCore s core fun c => accPuts gr c (r.cells.map fun q => (q.1, q.2, (0#32 : Word)))
  | .load =>
    if !o.poisoned.isEmpty then enginePoison s o.gang
    else modCore s core fun c => accPuts gr c
      (((List.range r.cells.length).zip r.cells).map fun q => (q.2.1, q.2.2, wordAt o.bytes (4 * q.1)))
  | .store => if anyCellPoison c gr r.cells then enginePoison s o.gang else performStore s o (cellBytes c gr r.cells)
  | .toLm =>
    if anyCellPoison c gr r.cells then enginePoison s o.gang
    else (List.range r.rows).foldl (fun s i =>
      localWrite s g.cohort low.wg (low.row i) (cellBytes c gr (cellsOf (r.row0 + i) 1 r.col r.width))) s
  | .fromLm =>
    if lmPoison s g.cohort low r.rows n then enginePoison s o.gang
    else modCore s core fun c => accPuts gr c (r.cells.map fun q =>
      (q.1, q.2, wordAt (lmBytes s g.cohort low n (q.1 - r.row0)) (4 * (q.2 - r.col))))
  | .cvt fmt =>
    if anyCellPoison c gr r.cells then enginePoison s o.gang
    else putCells s core o.gang gr (cvtResult fmt r (fld a 4 8) (16 * fld a 0 4) c gr)
  | .scacc zp =>
    if scaccPoisoned r (parseSc a) c gr then enginePoison s o.gang
    else putCells s core o.gang gr (scaccResult zp r (parseSc a) c gr)
  | .bind => s
  | .fill sparse => performFill s core p o sparse

/-- Engine cycles of an instruction (R60, R287); free where no rule states them (log 22). -/
def opCycles (s : State) (o : EngineOp) : State × Nat :=
  let r := parseArw o.b
  match o.work with
  | .mma func flags => (s, mmaCycles (formOf func flags) r.rows (mmaCols func r))
  | .mmaB func flags => (s, mmaCycles (formOf func flags) r.rows (mmaCols func r))
  | _ => let (k, s) := nextFresh s; (s, Config.engineCycles k)

/-- The operand is fetched: its scoreboard entry retires or is kept (R50, R287, R288). -/
def afterFetch (s : State) (core : Nat) (g : Gang) (o : EngineOp) : State :=
  let basin := ((cohortOf s g).map (·.basin)).getD 0
  let keep := match o.work with
    | .mma _ f => f.getLsbD 2 | .mmaB _ f => f.getLsbD 2 | _ => false
  if keep && o.peer == o.gang then
    let b := basinOf s basin
    let s := setBasin s basin { b with score := b.score.map fun e => if e.owner = o.uid then { e with kept := true } else e }
    modCore s core fun c => { c with reuse := some o.uid }
  else if (opRange o).isSome then retireRanges s basin o.uid else s

/-- The issuer's copy of a basin-wide MMA has its A rows to fetch for all four engines (R289). -/
def mustFetch (o : EngineOp) : Bool :=
  match o.work with
  | .mmaB _ _ => o.peer == o.gang && !o.ready
  | _ => false

/-- The fetch waits only for earlier instructions of the engine that write the rows (R279). -/
def mayFetch (s : State) (queue : List EngineOp) (pos : Nat) (o : EngineOp) : Bool :=
  (queue.take pos).all fun p => !localMeet s p o

/-- The A rows of a basin-wide MMA are fetched once and delivered to all four engines (R289). -/
def fetchRows (s : State) (core : Nat) (g : Gang) (o : EngineOp) : State :=
  let rows := (parseArw o.b).rows
  let low := parseLow (o.a.extractLsb' 0 32)
  let bytes := (List.range rows).flatMap fun i => lmBytes s g.cohort low 144 i
  afterFetch (deliverRows s o bytes (if lmPoison s g.cohort low rows 144 then [0] else [])) core g o

/-- A basin-wide MMA has its rows (R289); an ACC.ST finds version lines free (R54). -/
def operandsReady (s : State) (o : EngineOp) : Bool :=
  match o.work with
  | .mmaB _ _ => o.ready
  | .store => match gang? s o.gang with
    | none => true
    | some g => !sliceFull s (newVersionLines g.span (o.pieces.map (·.1)))
  | _ => true

/-- The requests of an instruction that the engine starts: the version lines of an ACC.ST (R61, R292), and its engine cycles, charged
for its full duration (R60, R280). -/
def askOp (s : State) (core : Nat) (o : EngineOp) : State × Bool :=
  let (s, ok) := match o.work, gang? s o.gang with
    | .store, some g => askVersions s (.engine o.uid) o.region (newVersionLines g.span (o.pieces.map (·.1)))
    | _, _ => (s, true)
  if !ok then (s, false)
  else
    let (s, d) := opCycles s o
    ask s (.engine o.uid) o.region .matrix (core / 64) 0 d

/-- The instruction is performed: it leaves the queue and acts on its grant. -/
def completeOp (s : State) (core pos : Nat) (g p : Gang) (o : EngineOp) : State :=
  let s := doneAsking s (.engine o.uid)
  let s := modCore s core fun c => { c with engine := c.engine.eraseIdx pos }
  let s := performWork s core g p o
  let s := if o.ready then s else afterFetch s core g o
  freeGrant (freeGrant s o.peer) o.gang

/-- MATRIX_COMPLETE (R167, R279, R280): the instruction at a place of the queue is performed, when engine order and its
region's budget allow. The rows of a basin-wide MMA are fetched first, in a turn of their own, so that MMA.Bs accepted in
crossed order on two engines do not wait for each other (R289). -/
def execMatrixComplete (core pos : Nat) (s : State) : Out :=
  let queue := (coreOf s core).engine
  match queue[pos]? with
  | none => .next s
  | some o =>
    match gang? s o.gang, gang? s o.peer with
    | some g, some p =>
      if mustFetch o then .next (if mayFetch s queue pos o then fetchRows s core g o else s)
      else if !mayPerform s queue pos o || !operandsReady s o then .next s
      else match askOp s core o with
        | (s, false) => .next s
        | (s, true) => .next (completeOp s core pos g p o)
    | _, _ => .next s

/-- SCALE_ENTRY_ARRIVAL (R290): the value of a physical entry arrives for the oldest binding that waits for it. -/
def arriveEntry (p : Gang) (o : EngineOp) (e : Nat) (c : Core) : Core :=
  let k := e - bindFirst o.b
  let key := scaleKey p.grant e
  let bad := (List.range 4).any fun i => o.poisoned.contains (4 * k + i)
  let arrived (x : EngineOp) : EngineOp :=
    if x.uid = o.uid && x.work == .bind then { x with left := x.left.filter (· != e) } else x
  { c with scales := putK 0#32 key (wordAt o.bytes (4 * k)) c.scales,
           scalePoison := if bad then (key :: c.scalePoison).eraseDups else c.scalePoison.filter (· != key),
           engine := c.engine.map arrived }

/-- The entry of a binding may arrive: no instruction accepted before it has yet to read or bind the entry (R279, R291). -/
def mayArrive (before : List EngineOp) (o : EngineOp) (e : Nat) : Bool :=
  before.all fun p => p.peer != o.peer || !(opEntries p).contains e

/-- The oldest binding whose pending entry stands at a physical place, with the entry, where it may arrive. -/
def pendingBind (s : State) (c : Core) (entry : Nat) : Option (Gang × EngineOp × Nat) :=
  ((List.range c.engine.length).zip c.engine).findSome? fun (i, o) => match gang? s o.peer with
    | none => none
    | some p => (o.left.find? fun e => scaleKey p.grant e == entry && mayArrive (c.engine.take i) o e).map fun e => (p, o, e)

def execScaleEntryArrival (core entry : Nat) (s : State) : Out :=
  match pendingBind s (coreOf s core) entry with
  | none => .next s
  | some (p, o, e) =>
    let s := modCore s core (arriveEntry p o e)
    let r : FillRec := ⟨2, 0, e, o.a + BitVec.ofNat 64 (4 * (e - bindFirst o.b))⟩
    .next (modGang s p.uid fun g =>
      let others := g.grant.fills.filter fun x => !(x.kind == 2 && x.index == e)
      { g with grant := { g.grant with fills := r :: others } })

/-- ACC_WIN_GRANT (R276): the first waiting request of the core is granted when it can be. -/
def execAccWinGrant (core : Nat) (s : State) : Out :=
  match (coreOf s core).accWaiters with
  | [] => .next s
  | (uid, w) :: rest =>
    match tryGrant s core w, gang? s uid with
    | some gr, some g => match g.sched.wait with
      | .accWin _ split =>
        let s := modCore s core fun c => { c with accWaiters := rest }
        .next (modGang (giveGrant s uid core gr) uid fun g => completeWait s g split fun g => g)
      | _ => .next s
    | _, _ => .next s

end Sys2Proof.Machine
end

