-- ==== Sys2Proof/Machine/Place.lean ====
section
/-! DEFINITION. The placer's arithmetic: what a cohort needs, whether it fits (R142, R145, R341, R347), and the placing of
cohorts never placed before (R141, R204, R235, R324). -/

namespace Sys2Proof.Machine

/-! ## Ages and residents (R349) -/

/-- Age of a gang: placement of its cohort, workgroup, GANGID. -/
def gangAge (s : State) (g : Gang) : List Nat :=
  match cohortOf s g with
  | none => [0, 0, g.wg, g.gangid]
  | some c => [c.age, c.uid, g.wg, g.gangid]

def lexLt : List Nat → List Nat → Bool
  | a :: as, b :: bs => decide (a < b) || (a == b && lexLt as bs)
  | _, _ => false

def older (s : State) (g h : Gang) : Bool := lexLt (gangAge s g) (gangAge s h)

/-- Insertion by an order. -/
def insertBy {α : Type} (lt : α → α → Bool) (x : α) : List α → List α
  | [] => [x]
  | y :: r => if lt x y then x :: y :: r else y :: insertBy lt x r

def sortBy {α : Type} (lt : α → α → Bool) (l : List α) : List α := l.foldr (insertBy lt) []

def cohortResident (s : State) (g : Gang) : Bool := ((cohortOf s g).map (·.resident)).getD false

/-- Resident gangs of a core that have not ended. -/
def residents (s : State) (core : Nat) : List Gang := s.gangs.filter fun g => g.core == core && !g.ended && cohortResident s g

/-- Resident cohorts that occupy a core. -/
def cohortsOn (s : State) (core : Nat) : List Cohort := s.cohorts.filter fun c => c.resident && c.wgs.any fun w => w.core == core

/-! ## What a cohort needs (R141, R142, R347) -/

/-- The gangs of each workgroup, as GANGID and register granules, and the bytes that each workgroup takes (R142). -/
structure Demand where
  wgs : List (List (Nat × Nat))
  bytes : Nat
deriving DecidableEq, Repr

def gridDemand (g : Grid) : Demand :=
  let n := gangsPerWg g.prot g.wgdim
  ⟨List.replicate g.wgs ((List.range n).map fun i => (i, g.granules)), wgLocal g.localBytes n⟩

/-- A workgroup of a cohort: .local and 512 bytes for each of its gangs, ended ones included (R142). -/
def cohortBytes (s : State) (c : Cohort) : Nat :=
  wgLocal c.localBytes (((grid? s c.grid).map fun g => gangsPerWg g.prot g.wgdim).getD 0)

def cohortDemand (s : State) (c : Cohort) : Demand :=
  ⟨(List.range c.wgs.length).map fun w =>
      (s.gangs.filter fun g => g.cohort == c.uid && g.wg == w && !g.ended).map fun g => (g.gangid, g.alloc / 8),
   cohortBytes s c⟩

def Demand.gangs (d : Demand) : Nat := d.wgs.foldl (fun n w => n + w.length) 0

/-- Local bytes that resident workgroups of the given regions take on a core (R142). -/
def bytesOn (s : State) (core : Nat) (under : Nat → Bool) : Nat :=
  (cohortsOn s core).foldl (fun n c => if under c.region then n + cohortBytes s c else n) 0

/-! ## Springs (R341) -/

/-- The states of a bank between steps (R341); it is loading only within the step that places a cohort. -/
inductive BankState where
  | active | standby
deriving DecidableEq, Repr

/-- A bank is active while a resident gang's region holds its image. -/
def bankActive (s : State) (core tag : Nat) : Bool :=
  tag != 0 && (residents s core).any fun g => heldSpring s (regionOf s g) == tag

def bankState (s : State) (core : Nat) (b : Bank) : BankState := if bankActive s core b.tag then .active else .standby

/-- The bank that serves an image on a core: the one that holds it, else one that is not active. -/
def bankFor (s : State) (core img : Nat) : Option Nat :=
  let bs := (coreOf s core).banks
  match (List.range bs.length).find? fun k => (bs[k]?.map (·.tag)).getD 0 == img with
  | some k => some k
  | none => (List.range bs.length).find? fun k => (bs[k]?.map fun b => bankState s core b == .standby).getD false

/-- All 36 KiB of a sealed copy, as an image. -/
def sealedImage (s : State) (pa : Nat) : List (Nat × Byte) :=
  (s.mem.filter fun p => decide (pa ≤ p.1) && decide (p.1 < pa + 36864)).map fun p => (p.1 - pa, p.2)

/-- SPRING_BANK_LOAD: the core's bank is loaded when it does not yet hold the image. -/
def loadBank (s : State) (img core : Nat) : State :=
  if img = 0 then s
  else match bankFor s core img with
    | none => s
    | some k => modCore s core fun c =>
        { c with banks := c.banks.modify k fun b => if b.tag = img then b else { tag := img, image := sealedImage s img } }

/-! ## Fit of one workgroup on one core (R347) -/

def inPart (l : List (Nat × Nat)) (p : Nat) : List (Nat × Nat) := l.filter fun g => g.1 % 4 == p
def granules (l : List (Nat × Nat)) : Nat := l.foldl (fun n g => n + g.2) 0

/-- Gang slots, granules, local bytes and a spring bank. -/
def resourcesFit (s : State) (core region : Nat) (l : List (Nat × Nat)) (bytes : Nat) : Bool :=
  let here := (residents s core).map fun g => (g.gangid, g.alloc / 8)
  let img := heldSpring s region
  ((List.range 4).all fun p =>
      decide ((inPart here p).length + (inPart l p).length ≤ 16) && decide (granules (inPart here p) + granules (inPart l p) ≤ 64))
    && decide (bytesOn s core (fun _ => true) + bytes ≤ 524288)
    && (img == 0 || (bankFor s core img).isSome)

/-- The quotas of every holder on the path to the root (R145). -/
def quotasFit (s : State) (core region : Nat) (l : List (Nat × Nat)) (bytes : Nat) : Bool :=
  let here (h : Region) := ((residents s core).filter fun g => (regionsUnder s h.pa).contains (regionOf s g)).map
    fun g => (g.gangid, g.alloc / 8)
  ((holders s region .gangq).all fun h => decide ((here h).length + l.length ≤ h.gangq))
    && ((holders s region .regq).all fun h => (List.range 4).all fun p =>
          decide (granules (inPart (here h) p) + granules (inPart l p) ≤ h.regq))
    && (holders s region .lmq).all fun h =>
          decide ((bytesOn s core (fun r => (regionsUnder s h.pa).contains r) + bytes + 1023) / 1024 ≤ h.lmq)

/-- Cores for workgroups in ascending quarter, the lowest that fit; `free` gives the resources and `s` the quotas. -/
def chooseCores (s free : State) (region bytes : Nat) : List (List (Nat × Nat)) → List Nat → Option (List Nat)
  | [], _ => some []
  | _ :: _, [] => none
  | l :: ls, c :: cs =>
    if resourcesFit free c region l bytes && quotasFit s c region l bytes then
      (chooseCores s free region bytes ls cs).map (c :: ·)
    else chooseCores s free region bytes (l :: ls) cs

/-- The cores of a basin in the region's core mask (R406). -/
def basinCores (s : State) (region basin : Nat) : List Nat :=
  ((List.range 4).map (4 * basin + ·)).filter fun c => (heldMask s region).getLsbD c

def fitCores (s free : State) (region : Nat) (d : Demand) (basin : Nat) : Option (List Nat) :=
  chooseCores s free region d.bytes d.wgs (basinCores s region basin)

/-! ## A new cohort (R141, R204, R235) -/

/-- The launched lanes of gang i: linear index below the WGDIM product (R141), by visible lanes in protected mode (R158). -/
def launchLanes (g : Grid) (i : Nat) : LaneMask :=
  let n := prod3 g.wgdim
  if g.raster.isSome then (if g.prot then maskOf ((List.range 32).filter fun l => g.masks.getLsbD (l / 2)) else g.masks)
  else if g.prot then maskOf ((List.range 32).filter fun l => decide (16 * i + l / 2 < n))
  else maskOf ((List.range 32).filter fun l => decide (32 * i + l < n))

/-- Registers at launch: v0:v1 hold ARGS in every launched lane, or a fragment gang's values by lane (R235, R324). -/
def launchRegs (g : Grid) (m : LaneMask) : List (Nat × Word) :=
  let put (l : List (Nat × Word)) (r lane : Nat) (v : Word) := putK 0#32 (r * 32 + lane) v l
  if g.raster.isSome then
    (lanesOf m).foldl (fun l i => (List.range 4).foldl (fun l r =>
      put l r i (readK 0#32 (r * 32 + if g.prot then i / 2 else i) g.laneRegs)) l) []
  else (lanesOf m).foldl (fun l i => put (put l 0 i (g.args.extractLsb' 0 32)) 1 i (g.args.extractLsb' 32 32)) []

def launchSlices (pc : DWord) (m : LaneMask) : List Slice :=
  (List.range 8).map fun k =>
    { pc, path := nibble m k, stack := [], back := 0, split := 0, wait := .none, ended := nibble m k == 0#4, held := false }

def launchLease (g : Grid) : Lease :=
  { meas := 64, decl := g.lease, mode := g.lmode, apDecl := g.lease, apMode := g.lmode, lost := 0, winCount := 0,
    winLines := [], changed := false }

/-- TRAPBASE at launch: bits [63:56] read as 0 (R204). -/
def launchTrap (s : State) (region : Nat) : TrapState :=
  { base := heldTrapBase s region &&& 0x00FFFFFFFFFFFFFF#64, cause := 0, pc := 0, addr := 0, lanes := 0, info := 0,
    qovf := false, async := false, nest := false, raceCsn := 0, raceSrc := 0, queue := [], lost := false, frame := none,
    replay := none, pending := none }

def blankSpan (pol : Bool) (c : Checkpoint) : Span :=
  { chk := c, begun := false, reads := [], sigReads := [], sigFills := [], surfReads := [], formReads := [], early := [],
    ver := [], pins := [], moves := [], touched := [], leaves := [], targets := [],
    tx := none, exact := false, locate := false, ovf := false, pol, restarts := 0, lastEnd := 0, count := 0, txNext := none }

/-- A gang at launch: parked and ready, its acquire point and floor those of the launching event (R42, R91). -/
def mkGang (s : State) (gr : Grid) (uid cohort wg i core : Nat) : Gang :=
  let m := launchLanes gr i
  let pc := gr.codeBase + BitVec.ofNat 64 (12 * gr.entry.toNat)
  let slices := launchSlices pc m
  let regs := launchRegs gr m
  let alloc := 8 * gr.granules
  let trap := launchTrap s gr.region
  let chk : Checkpoint := { alloc, regs, slices, fpctl := 0, fpflags := 0, replay := none, pending := none }
  { uid, cohort, wg, gangid := i, core, alloc, regs, regPoison := [], launchMask := m, live := m, slices,
    codeBase := gr.codeBase, prot := gr.prot, deadsrc := false, freeze := false, sstep := false, fpctl := 0, fpflags := 0,
    cycleLatch := 0, lease := launchLease gr, grant := .none, span := blankSpan gr.pol chk, trap, acq := s.now,
    floor := gr.launchFloor, relFloor := 0, fenceFloor := 0, pendFloor := 0, seen := [],
    sched := { active := false, wait := .none, readySince := coreCycle s core, aged := none, protUntil := none,
               heldBy := none, lastSplit := 0, stalled := [], yields := [] },
    bars := [], mismatches := 0, ownerFail := [], outputs := [], ended := false }

/-- The cohort with the number `n` of a grid is placed on the cores of a basin: registers zeroed, names unbound, spring banks
loaded. -/
def placeFresh (s : State) (gr : Grid) (n basin : Nat) (cores : List Nat) : State :=
  let c : Cohort :=
    { uid := s.nextUid, grid := gr.uid, ctx := gr.ctx, region := gr.region, number := n, basin,
      wgs := cores.map fun k => ⟨k, coreCycle s k, [], [], [], [], []⟩, localBytes := gr.localBytes, age := s.now,
      resident := true, stop := none, savedRows := [], savedRecs := [], savedCmds := [], saveSlot := none }
  let per := gangsPerWg gr.prot gr.wgdim
  let gs := ((List.range cores.length).zip cores).flatMap fun w => (List.range per).map fun i =>
    mkGang s gr (s.nextUid + 1 + w.1 * per + i) s.nextUid w.1 i w.2
  let s := cores.foldl (fun s k => loadBank s (heldSpring s gr.region) k) s
  let s := modGrid s gr.uid fun g => { g with placed := g.placed + 1 }
  { s with cohorts := s.cohorts ++ [c], gangs := s.gangs ++ gs, nextUid := s.nextUid + 1 + gs.length, now := s.now + 1 }

end Sys2Proof.Machine
end

