-- ==== Sys2Proof/Machine/Preempt.lean ====
section
/-! DEFINITION. Pre-emption (R83, R362, R371, R372, R386) and restore (R373) of a cohort. -/

namespace Sys2Proof.Machine

/-! ## Requests (R362, R386) -/

def freeSaveSlot (s : State) (ctx : Nat) : Option Nat :=
  (context? s ctx).bind fun x => (List.range x.saveSlots).find? fun k => !x.used.contains k

/-- The cohort may be pre-empted: a request stands already, or its context's save area has a free slot (R386). -/
def removable (s : State) (c : Cohort) : Bool := c.resident && (c.stop.isSome || c.saveSlot.isSome || (freeSaveSlot s c.ctx).isSome)

def freeSlots (s : State) (ctx : Nat) : Nat :=
  ((context? s ctx).map fun x => ((List.range x.saveSlots).filter fun k => !x.used.contains k).length).getD 0

/-- Those of a list of cohorts for which, taken one after another, there are save slots (R386). -/
def withSlots (s : State) : List Cohort → List Nat → List Cohort
  | [], _ => []
  | c :: cs, taken =>
    if c.stop.isSome || c.saveSlot.isSome then c :: withSlots s cs taken
    else if (taken.filter (· == c.ctx)).length < freeSlots s c.ctx then c :: withSlots s cs (c.ctx :: taken)
    else withSlots s cs taken

/-- A request to pre-empt a cohort, numbered in the order of the requests (R344): it takes a save slot, where it does not hold one
still, and its gangs issue no more. Of two requests the earlier counts (R362). -/
def requestStop (s : State) (c : Cohort) (k : Stop) : State :=
  let stop (s : State) : State :=
    { modCohort s c.uid fun c => { c with stop := some k, stopAt := s.nextUid } with nextUid := s.nextUid + 1 }
  if !c.resident || c.stop.isSome then s
  else if c.saveSlot.isSome then stop s
  else match freeSaveSlot s c.ctx with
    | none => s
    | some n => stop (modContext (modCohort s c.uid fun c => { c with saveSlot := some n }) c.ctx fun x => { x with used := n :: x.used })

/-! ## Steps 1 to 3 of R371 -/

/-- No engine instruction of the cohort is offered or accepted any more (R280, R371, step 3). -/
def cohortQuiet (s : State) (uid : Nat) : Bool :=
  s.cores.all fun c => (c.2.offers ++ c.2.engine).all fun o => ((gang? s o.gang).map (·.cohort)).getD 0 != uid

/-- The span of one gang at pre-emption (R83): the state, and whether the span is ended; a commit that must wait is tried again. -/
def stopSpan (s : State) (g : Gang) : State × Bool :=
  if g.ended then (s, true)
  else if g.span.pol && g.span.tx.isNone then (if g.span.begun then noteEnd (rollback s g.uid) g.uid 6 else s, true)
  else match stopOutside s g with
    | .done t => (t, true)
    | .failed t => (t, true)
    | .wait => (s, false)

/-- Every gang's span; one that must wait, for the favoured span of another gang of the cohort it may be, holds up no other. -/
def stopSpans (s : State) (uid : Nat) : State × Bool :=
  (s.gangs.filter fun g => g.cohort == uid).foldl (fun acc g => match gang? acc.1 g.uid with
    | none => acc
    | some g => let (t, ok) := stopSpan acc.1 g; (t, acc.2 && ok)) (s, true)

/-! ## What is saved (R372) -/

/-- The cells of a gang's window that hold something: row, column, value, poisoned. -/
def windowCells (s : State) (g : Gang) : List (Nat × Nat × Nat × Word × Bool) :=
  let c := coreOf s g.core
  let inside (k : Nat) : Bool := decide (g.grant.base ≤ k / 256) && decide (k / 256 < g.grant.base + g.grant.rows)
  (((c.acc.map (·.1)) ++ c.accPoison).filter inside).eraseDups.map fun k =>
    (g.uid, k / 256 - g.grant.base, k % 256, readK 0#32 k c.acc, c.accPoison.contains k)

/-- The name of an object in the cohort. -/
def nameOf (c : Cohort) (core obj : Nat) : Option (Nat × Nat) :=
  ((List.range c.wgs.length).zip c.wgs).findSome? fun w =>
    if w.2.core = core then (w.2.names.find? fun n => n.2 == obj).map fun n => (w.1, n.1) else none

def saveWait (c : Cohort) : Wait → Wait
  | .barrier core obj split => match nameOf c core obj with
    | some (w, n) => .barName w n split
    | none => .barrier core obj split
  | w => w

/-- W and AP of a gang for each bound name of the cohort. -/
def saveRecs (c : Cohort) (g : Gang) : List (Nat × Nat × Nat × Nat × Nat) :=
  ((List.range c.wgs.length).zip c.wgs).flatMap fun w => w.2.names.map fun n =>
    let r := barRec g w.2.core n.2
    (g.uid, w.1, n.1, r.w, r.ap)

/-- A workgroup with its barrier objects beside their names. -/
def saveWg (s : State) (w : Workgroup) : Workgroup :=
  { w with savedBars := w.names.filterMap fun n => (barObj s w.core n.2).map fun b => (n.1, b), names := [] }

/-- A gang as saved: parked, its records under names. -/
def saveGang (c : Cohort) (g : Gang) : Gang :=
  { g with bars := [],
           trap := { g.trap with pending := g.trap.pending.map fun p => { p with left := 0 } },
           sched := { g.sched with active := false, wait := saveWait c g.sched.wait, aged := none, protUntil := none } }

/-- A saved cohort re-enters its queue ahead of cohorts not yet placed, in the order in which the pre-emptions were requested
(R344). -/
def requeue (s : State) (q : List Waiting) (uid : Nat) : List Waiting :=
  let at' (u : Nat) : Nat := ((cohort? s u).map (·.stopAt)).getD 0
  let before (w : Waiting) : Bool := match w with
    | .saved u => decide (at' u < at' uid) | .fresh _ _ => false
  q.takeWhile before ++ .saved uid :: q.dropWhile before

/-- The resources of the cohort on its cores and its basin are freed (R371, step 5). -/
def freeResources (s : State) (c : Cohort) (gs : List Gang) : State :=
  let uids := gs.map (·.uid)
  let objs (core : Nat) : List Nat := c.wgs.flatMap fun w => if w.core = core then w.names.map (·.2) else []
  let held := ((basinOf s c.basin).score.filter fun e => e.cohort == c.uid).map (·.owner)
  let cmds := (s.copies.filter fun x => x.cohort == c.uid).map (·.uid)
  let free (k : Nat) (x : Core) : Core :=
    { x with bars := x.bars.filter fun b => !(objs k).contains b.1,
             accWaiters := x.accWaiters.filter fun q => !uids.contains q.1,
             growers := x.growers.filter fun q => !uids.contains q.1,
             reuse := x.reuse.filter fun u => !held.contains u,
             records := x.records.filter fun r => !cmds.contains r.stamp }
  let s := (c.wgs.map (·.core)).eraseDups.foldl (fun s k => modCore s k (free k)) s
  let b := basinOf s c.basin
  let s := setBasin s c.basin { b with score := b.score.filter fun e => e.cohort != c.uid }
  { s with copies := s.copies.filter fun x => x.cohort != c.uid,
           favoured := s.favoured.filter fun u => !uids.contains u,
           favourQueue := s.favourQueue.filter fun u => !uids.contains u }

/-- State-save traffic: charged, never held (R61, R371, R373). -/
def saveTraffic (s : State) (c : Cohort) : State :=
  let (k, s) := nextFresh s
  charge s c.region .dram (reachOf (((context? s c.ctx).map (·.saveBase)).getD 0)) (Config.saveLines k)

/-- Steps 4 and 5 of R371. -/
def saveCohort (s : State) (c : Cohort) : State :=
  let gs := s.gangs.filter fun g => g.cohort == c.uid
  let live := gs.filter fun g => !g.ended
  let s0 := s
  let cmds := (s.copies.filter fun x => x.cohort == c.uid).map fun x => { x with engine := none, pos := none, bar := none }
  let s := freeResources s c gs
  let s := { s with gangs := s.gangs.map fun g => if g.cohort = c.uid then saveGang c g else g, now := s.now + 1 }
  let s := modCohort s c.uid fun x =>
    { x with resident := false, wgs := c.wgs.map (saveWg s0), savedRows := live.flatMap (windowCells s0),
             savedRecs := gs.flatMap (saveRecs c), savedCmds := cmds, refills := [], stop := if c.stop = some .migrate then c.stop else none }
  let s := saveTraffic s c
  let s := doneAsking s (.restore c.uid)
  if c.stop = some .migrate then s else modRegion s c.region fun r => { r with queue := requeue s r.queue c.uid }

/-- PREEMPTION (R371): the spans of a cohort that a request stops end, and once its engine instructions are performed and every span
has ended it is saved. -/
def execPreemption (cohort : Nat) (s : State) : Out :=
  match cohort? s cohort with
  | none => .next s
  | some c =>
    if !c.resident || c.stop.isNone || !cohortQuiet s cohort then .next s
    else match stopSpans s cohort with
      | (s, false) => .next s
      | (s, true) => .next (((cohort? s cohort).map (saveCohort s)).getD s)

/-! ## Restore (R373) -/

/-- Step 1: every saved name on a free object of the workgroup's new core. -/
def rebindWg (s : State) (uid : Nat) (w : Nat × Workgroup) : Option State :=
  w.2.savedBars.foldlM (fun s b => (freeObj s w.2.core).map fun o =>
    modWg (setBarObj s w.2.core o b.2) uid w.1 fun x => { x with names := setK b.1 o x.names }) s

def rebind (s : State) (c : Cohort) : Option State :=
  (((List.range c.wgs.length).zip c.wgs).foldlM (fun s w => rebindWg s c.uid w) s).map fun s =>
    modCohort s c.uid fun c => { c with wgs := c.wgs.map fun w => { w with savedBars := [] } }

def restoreWait (s : State) (uid : Nat) : Wait → Wait
  | .barName w n split => match boundObj s uid w n with
    | some (core, obj) => .barrier core obj split
    | none => .barName w n split
  | w => w

/-- W, AP and the barrier waits under the new objects. -/
def restoreRecs (s : State) (c : Cohort) : State :=
  let f (g : Gang) : Gang :=
    let g := { g with sched := { g.sched with wait := restoreWait s c.uid g.sched.wait } }
    c.savedRecs.foldl (fun g r =>
      if r.1 = g.uid then match boundObj s c.uid r.2.1 r.2.2.1 with
        | some (core, obj) => setBarRec g ⟨core, obj, r.2.2.2.1, r.2.2.2.2⟩
        | none => g
      else g) g
  { s with gangs := s.gangs.map fun g => if g.cohort = c.uid then f g else g }

/-- The bytes of a recorded fill as memory now stands, its requests having issued, and whether one is poisoned; free bytes for a
piece that cannot be read (R33; log 38). -/
def refillBytes (s : State) (g : Gang) (va : DWord) (n : Nat) : State × List Byte × Bool :=
  (linesOf va n).foldl (fun (acc : State × List Byte × Bool) q =>
    let s := acc.1
    match laneCheck s g .load 1 q.1 with
    | .ok x =>
      let (bs, p) := homeBytes s x q.2
      (setAD s x false, acc.2.1 ++ bs, acc.2.2 || p)
    | _ => let (k, s) := nextFresh s; (s, acc.2.1 ++ (List.range q.2).map (Config.refillByte k), acc.2.2)) (s, [], false)

/-- The bytes that a recorded fill reads. -/
def fillLength (f : FillRec) : Nat := if f.kind < 2 then colBytes (f.kind == 1) else 4

/-- A page that a refill needs and that belongs to the host or a peer: the restore waits for its hand-over, where that has not failed
(R35, R101). -/
def refillOwn (s : State) (g : Gang) (f : FillRec) : Option DWord :=
  (linesOf f.va (fillLength f)).findSome? fun q => match laneCheck s g .load 1 q.1 with
    | .own va => if (failedHand s (ctxOf s g) g.ownerFail va).isSome then none else some va
    | _ => none

/-- The lines that a refill reads (R53). -/
def refillXlats (s : State) (g : Gang) (f : FillRec) : List Xlat :=
  (linesOf f.va (fillLength f)).filterMap fun q => match laneCheck s g .load 1 q.1 with
    | .ok x => some x
    | _ => none

/-- One recorded fill repeated. -/
def refill (s : State) (uid : Nat) (f : FillRec) : State :=
  match gang? s uid with
  | none => s
  | some g =>
    if f.kind < 2 then
      let sparse := f.kind == 1
      let (s, bs, bad) := refillBytes s g f.va (colBytes sparse)
      modCore s g.core (putColumn sparse (slotKey g.grant f.panel f.index) bs bad)
    else
      let (s, bs, bad) := refillBytes s g f.va 4
      let key := scaleKey g.grant f.index
      modCore s g.core fun c =>
        { c with scales := putK 0#32 key (wordAt bs 0) c.scales,
                 scalePoison := if bad then (key :: c.scalePoison).eraseDups else c.scalePoison.filter (· != key) }

def putRow (gr : Grant) (c : Core) (r : Nat × Nat × Nat × Word × Bool) : Core :=
  let c := accPut gr r.2.1 r.2.2.1 r.2.2.2.1 c
  if r.2.2.2.2 then { c with accPoison := accKey gr r.2.1 r.2.2.1 :: c.accPoison } else c

/-- Step 2 for one gang: a grant of the sizes it held, with its rows; its fills are repeated by `refillNext`. -/
def regrant (s : State) (c : Cohort) (old : Gang) : Option State :=
  if old.grant.rows = 0 ∧ old.grant.panels.isEmpty = true ∧ old.grant.scales.isEmpty = true then some s
  else match gang? s old.uid with
    | none => some s
    | some g => (tryGrantOf s g.core old.grant.rows old.grant.panels.length (old.grant.scales.length / 16)).map fun gr =>
        let s := giveGrant s g.uid g.core { gr with fills := old.grant.fills }
        modCore s g.core fun k => (c.savedRows.filter fun r => r.1 == g.uid).foldl (putRow gr) k

/-- Step 3 for one command: a slot of the new core's request engine, its barrier object and its ranges. -/
def restartCmd (s : State) (c : Cohort) (core : Nat) (x : CopyCmd) : Option State :=
  let k := parseCmd x.bytes
  match chooseSlot s core with
  | none => none
  | some slot =>
    let bar := if k.baren then match cmdBar k with
        | .own n => boundObj s c.uid x.wg n.toNat
        | .basin q n => boundObj s c.uid q.toNat n.toNat
      else none
    let x := { x with basin := c.basin, core, slot, bar }
    (enterRanges s c.basin (commandEntries s c.uid core x.uid k x.next x.pos)).map
      fun s =>
        modCore { s with copies := s.copies ++ [x] } core fun q =>
          { q with records := (q.records.filter fun r => r.slot != slot) ++
              [({ slot, stamp := x.uid, cohort := c.uid, addr := x.addr, state := 1, flags := x.flags, sat := x.sat,
                  done := x.next } : CopyRec)] }

/-- Step 4 for one gang. -/
def resumeGang (s : State) (g : Gang) : Gang :=
  { g with acq := s.now, cycleLatch := 0, sched := { g.sched with readySince := coreCycle s g.core } }

/-- A gang that waits for a grant or for registers waits on its new core. -/
def requeueWaiter (s : State) (g : Gang) : State :=
  match g.sched.wait with
  | .accWin w _ => modCore s g.core fun c => { c with accWaiters := c.accWaiters ++ [(g.uid, w)] }
  | .grow n _ => modCore s g.core fun c => { c with growers := c.growers ++ [(g.uid, n)] }
  | _ => s

/-- The cohort on its new cores. -/
def moveCohort (s : State) (c : Cohort) (basin : Nat) (cores : List Nat) : State :=
  let s := cores.foldl (fun s k => loadBank s (heldSpring s c.region) k) s
  let s := modCohort s c.uid fun x =>
    { x with basin, resident := true, stop := none, recheck := none,
             wgs := (x.wgs.zip cores).map fun p => { p.1 with core := p.2, placed := coreCycle s p.2 } }
  { s with gangs := s.gangs.map fun g =>
      if g.cohort = c.uid then { g with core := cores.getD g.wg g.core, grant := .none } else g }

/-- The save slot of a cohort is free again (R386). -/
def giveSlot (s : State) (c : Cohort) : State := modContext s c.ctx fun x => { x with used := x.used.filter fun k => some k != c.saveSlot }

def freeSave (s : State) (c : Cohort) : State :=
  giveSlot (modCohort s c.uid fun x => { x with saveSlot := none, savedRows := [], savedRecs := [], savedCmds := [] }) c

/-- The restore is complete (R373, step 4): every acquire point is now, the save slot is free, and gangs that had asked for favour ask
again. -/
def finishRestore (s : State) (c : Cohort) : State :=
  let s : State := { s with gangs := s.gangs.map fun g => if g.cohort = c.uid then resumeGang s g else g }
  let ask := (s.gangs.filter fun g => g.cohort == c.uid && !g.ended && decide (8 ≤ g.span.restarts)).map (·.uid)
  let s := freeSave s c
  { s with favourQueue := s.favourQueue ++ ask.filter fun u => !s.favourQueue.contains u, now := s.now + 1 }

/-- The fills that a restore repeats, each gang's oldest first. -/
def allRefills (gs : List Gang) : List (Nat × FillRec) := gs.flatMap fun g => g.grant.fills.reverse.map fun f => (g.uid, f)

/-- Restore a saved cohort on a basin, up to the refills that it has still to repeat; none when it does not fit there. -/
def restore (s : State) (c : Cohort) (basin : Nat) : Option State :=
  let old := s.gangs.filter fun g => g.cohort == c.uid && !g.ended
  match fitCores s s c.region (cohortDemand s c) basin with
  | none => none
  | some cores =>
    let s := moveCohort s c basin cores
    match (cohort? s c.uid).bind (rebind s) with
    | none => none
    | some s =>
      let s := restoreRecs s c
      match (old.foldlM (fun s g => regrant s c g) s : Option State) with
      | none => none
      | some s =>
        let here := { c with basin }
        match (c.savedCmds.foldlM (fun s x => restartCmd s here (cores.getD x.wg 0) x) s : Option State) with
        | none => none
        | some s =>
          let s : State := (s.gangs.filter fun g => g.cohort == c.uid && !g.ended).foldl requeueWaiter s
          let s := saveTraffic (modCohort s c.uid fun c => { c with refills := allRefills old }) c
          some (if (allRefills old).isEmpty then finishRestore s c else s)

/-- Refills are left to repeat; with none the restore is complete. -/
def noteRefill (s : State) (c : Cohort) (rest : List (Nat × FillRec)) : State :=
  let s := modCohort s c.uid fun c => { c with refills := rest }
  if rest.isEmpty then finishRestore s c else s

/-- The next refill of a cohort that has been placed again: a page of the host or a peer is handed over first, its requests may wait
for the budget of the cohort's region (R61), and with the last one the restore is complete (R33, R373, step 2). -/
def refillNext (s : State) (c : Cohort) : State :=
  match c.refills with
  | [] => s
  | (u, f) :: rest => match gang? s u with
    | none => noteRefill s c rest
    | some g => match refillOwn s g f with
      | some va => requestHandover s c.ctx va fun q => { q with waiters := (u :: q.waiters).eraseDups }
      | none => match askLines s (.restore c.uid) c.region (refillXlats s g f) with
        | (s, false) => s
        | (s, true) => noteRefill (refill (doneAsking s (.restore c.uid)) u f) c rest

end Sys2Proof.Machine
end

