-- ==== Sys2Proof/Machine/Placer.lean ====
section
/-! DEFINITION. The placer: region queues and priority (R344, R345), pre-emption for priority (R346), reservation (R348),
placement (R347), restore (R373), pre-emption for register growth (R358) and thermal migration (R359), and the end of a
cohort (R229, R235). -/

namespace Sys2Proof.Machine

/-! ## Heads of queues -/

/-- The head that the placer may offer: none while placement for the region is suspended (R383). -/
def headOf (r : Region) : Option Waiting := if r.suspended then none else r.queue.head?

def headDemand (s : State) : Waiting → Demand
  | .fresh u _ => ((grid? s u).map gridDemand).getD ⟨[], 0⟩
  | .saved u => ((cohort? s u).map (cohortDemand s)).getD ⟨[], 0⟩

/-- The head on a basin of a machine in which `free` gives the resources: whether it fits, the quotas taken from `s`. -/
def headFits (s free : State) (r : Region) (basin : Nat) : Bool :=
  match headOf r with
  | none => false
  | some w => (fitCores s free r.pa (headDemand s w) basin).isSome && match w with
    | .fresh _ _ => true
    | .saved u => ((cohort? s u).bind fun c => restore free c basin).isSome

/-- What another region has on a basin keeps cohorts of equal or lower priority away: its reservation (R348), and the room that
pre-emption makes there for its head (R346). Of two reservations that equal priorities hold on one basin the earlier counts, and the
region whose head the basin is cleared for comes first (log 39). -/
def kept (s : State) (r : Region) (basin : Nat) : Bool :=
  s.regions.any fun q => q.pa != r.pa &&
    ((q.reserved == some basin && (decide (heldPrio s r.pa < heldPrio s q.pa)
        || (heldPrio s r.pa == heldPrio s q.pa && r.clearing != some basin
          && !(r.reserved == some basin && lexLt [r.reservedAt, r.pa] [q.reservedAt, q.pa]))))
      || (q.clearing == some basin && (headOf q).isSome && (decide (heldPrio s r.pa < heldPrio s q.pa)
        || (heldPrio s r.pa == heldPrio s q.pa && r.clearing != some basin))))

/-- Granules that are free in a partition of a core serve a waiting request first (R358). -/
def growerReady (s : State) (core part : Nat) : Bool :=
  match growersOf s core part with
  | [] => false
  | (uid, n) :: _ => (gang? s uid).any fun g =>
    (match g.sched.wait with
      | .grow _ _ => true | _ => false) && decide (n / 8 - g.alloc / 8 ≤ freeGranules s core part)

/-- Resident cohorts that a request stops. -/
def stopping (s : State) (basin : Nat) : List Cohort := s.cohorts.filter fun c => c.resident && c.basin == basin && c.stop.isSome

/-- The basin for the head: the reserved one when it fits, else the lowest BASINID that fits (R347). -/
def findBasin (s : State) (r : Region) : Option Nat :=
  let order := match r.reserved with
    | some b => b :: List.range 64
    | none => List.range 64
  order.find? fun b => !kept s r b && headFits s s r b

/-! ## Reservation (R348) -/

/-- Resident gangs, granules and local bytes on a basin, in the order in which they decide. -/
def basinLoad (s : State) (b : Nat) : List Nat :=
  let cores := (List.range 4).map (4 * b + ·)
  let gs := cores.flatMap (residents s)
  [gs.length, gs.foldl (fun n g => n + g.alloc / 8) 0, cores.foldl (fun n c => n + bytesOn s c fun _ => true) 0, b]

/-- The least occupied basin with enough cores of the mask for the workgroups (log 39). -/
def reserveBasin (s : State) (r : Region) (d : Demand) : Option Nat :=
  let ok := (List.range 64).filter fun b => decide (d.wgs.length ≤ (basinCores s r.pa b).length)
  (sortBy (fun a b => lexLt (basinLoad s a) (basinLoad s b)) ok).head?

/-! ## Pre-emption for priority (R346) -/

/-- The machine with some cohorts taken away. -/
def without (s : State) (uids : List Nat) : State :=
  { s with cohorts := s.cohorts.map fun c => if uids.contains c.uid then { c with resident := false } else c }

/-- Cohorts of a basin that a head of priority p may remove: lowest priority first, then youngest first, as far as there are
save slots for them. -/
def victimsOf (s : State) (p basin : Nat) : List Cohort :=
  let l := s.cohorts.filter fun c => c.resident && c.basin == basin && decide (heldPrio s c.region < p)
  withSlots s (sortBy (fun a b => lexLt [heldPrio s a.region, b.age, b.uid] [heldPrio s b.region, a.age, a.uid]) l) []

/-- The shortest beginning of the list whose removal lets the head fit. -/
def fitPrefix (s : State) (r : Region) (basin : Nat) (l : List Cohort) : Option (List Cohort) :=
  ((List.range (l.length + 1)).map fun n => l.take n).find? fun t => !t.isEmpty && headFits s (without s (t.map (·.uid))) r basin

/-- Residency of a cohort on its cores (R359). -/
def residencyOn (s : State) (w : Workgroup) : Nat := coreCycle s w.core - w.placed

def elapsed (s : State) (c : Cohort) : Bool := c.wgs.all fun w => decide (Config.residency ≤ residencyOn s w)

/-- How a basin compares: the highest priority to be removed, the gangs to be removed, BASINID. -/
def victimCost (s : State) (b : Nat) (t : List Cohort) : List Nat :=
  [t.foldl (fun m c => max m (heldPrio s c.region)) 0, t.foldl (fun n c => n + (gangsOf s c.uid).length) 0, b]

/-- The basin on which the placer makes room for the head of a region, and the cohorts that it pre-empts there (R346). -/
def preemptPlan (s : State) (r : Region) : Option (Nat × List Cohort) :=
  let plans := (List.range 64).filterMap fun b =>
    if (basinCores s r.pa b).isEmpty || kept s r b then none
    else (fitPrefix s r b (victimsOf s (heldPrio s r.pa) b)).map fun t => (b, t)
  match (sortBy (fun x y => lexLt (victimCost s x.1 x.2) (victimCost s y.1 y.2)) plans).head? with
  | some (b, t) => if t.all (elapsed s) then some (b, t) else none
  | none => none

/-! ## Deficit round robin (R345) -/

def setDeficit (s : State) (pa n : Nat) : State := modRegion s pa fun r => { r with deficit := n }

/-- The region may place its head now. -/
def mayPlace (s : State) (pa : Nat) : Bool :=
  match region? s pa with
  | none => false
  | some r => match headOf r with
    | none => false
    | some w => (findBasin s r).isSome && decide ((headDemand s w).gangs ≤ r.deficit)

def heldGangq (s : State) (pa : Nat) : Nat := ((holder s pa .gangq).map (·.gangq)).getD 0

/-- A turn begins: the counter of a region with a head rises by its GANGQ as held. -/
def beginTurn (s : State) (p pa : Nat) : State :=
  let s := { s with turns := setK p pa s.turns }
  match (region? s pa).bind headOf with
  | none => s
  | some _ => modRegion s pa fun r => { r with deficit := r.deficit + heldGangq s pa }

/-- Turns pass until a region of the priority places; the regions in the order of their turns, the first one's having begun. -/
def serve (p : Nat) : Nat → State → List Nat → Option (State × Nat)
  | 0, _, _ => none
  | _ + 1, _, [] => none
  | n + 1, s, pa :: rest =>
    if mayPlace s pa then some (s, pa)
    else match rest ++ [pa] with
      | [] => none
      | next :: l => serve p n (beginTurn s p next) (next :: l)

/-- The leaf regions of a priority, the one whose turn it is first. -/
def turnOrder (s : State) (p : Nat) : List Nat :=
  let l := (s.regions.filter fun r => isLeafRegion s r.pa && heldPrio s r.pa == p).map (·.pa)
  match getK p s.turns with
  | none => l
  | some t => l.dropWhile (· != t) ++ l.takeWhile (· != t)

/-- The region that places next, after the turns that pass before it (R345). -/
def nextRegion (s : State) : Option (State × Nat) :=
  let fits := s.regions.filter fun r => (findBasin s r).isSome
  if fits.isEmpty then none
  else
    let p := fits.foldl (fun m r => max m (heldPrio s r.pa)) 0
    let order := turnOrder s p
    let s := match getK p s.turns, order with
      | some t, f :: _ => if t = f then s else beginTurn s p f
      | none, f :: _ => beginTurn s p f
      | _, [] => s
    serve p (8 * (order.length + 1)) s order

/-- The head of the region is placed on the basin; its counter falls by the head's gangs. -/
def placeHead (s : State) (pa basin : Nat) : State :=
  match region? s pa with
  | none => s
  | some r => match headOf r with
    | none => s
    | some w =>
      let n := (headDemand s w).gangs
      let rest := r.queue.drop 1
      let (t, q) := match w with
        | .saved u => match cohort? s u with
          | none => (s, rest)
          | some c => match restore s c basin with
            | some t => (t, rest)
            | none => (s, r.queue)
        | .fresh u k => match grid? s u, fitCores s s pa (headDemand s w) basin with
          | some g, some cores => (placeFresh s g k basin cores, if k + 1 < gridCohorts g then .fresh u (k + 1) :: rest else rest)
          | _, _ => (s, r.queue)
      if q = r.queue then t
      else modRegion t pa fun r => { r with queue := q, reserved := none, clearing := none, deficit := if q.isEmpty then 0 else r.deficit - n }

/-! ## COHORT_PLACEMENT -/

/-- The head fits some basin, be it one that is kept from it. -/
def fitsSome (s : State) (r : Region) : Bool := (List.range 64).any fun b => headFits s s r b

/-- Regions whose heads fit no basin, highest priority first. -/
def stuckHeads (s : State) : List Region :=
  sortBy (fun a b => decide (heldPrio s b.pa < heldPrio s a.pa))
    (s.regions.filter fun r => (headOf r).isSome && !fitsSome s r)

/-- The cohorts that a basin is still to save will make the head fit there. -/
def roomComes (s : State) (r : Region) : Bool :=
  (List.range 64).any fun b =>
    !(stopping s b).isEmpty && !kept s r b && headFits s (without s ((stopping s b).map (·.uid))) r b

/-- A reservation that is due (R348). -/
def dueReservation (s : State) : Option (Nat × Nat) :=
  (stuckHeads s).findSome? fun r =>
    if r.reserved.isSome then none
    else (headOf r).bind fun w => (reserveBasin s r (headDemand s w)).map fun b => (r.pa, b)

/-- The pre-emptions for a head that comes before every head that fits (R345, R346), with its region and the basin; those requested
already are none. -/
def duePreemption (s : State) : Option (Nat × Nat × List Cohort) :=
  let p := (s.regions.filter fun r => (findBasin s r).isSome).foldl (fun m r => max m (heldPrio s r.pa + 1)) 0
  ((stuckHeads s).filter fun r => decide (p ≤ heldPrio s r.pa) && !roomComes s r).findSome? fun r =>
    (preemptPlan s r).bind fun q =>
      let l := q.2.filter fun c => c.stop.isNone
      if l.isEmpty then none else some (r.pa, q.1, l)

/-- COHORT_PLACEMENT (R344 to R348): one act of the placer: a reservation, a request to pre-empt, or a placement. -/
def execCohortPlacement (s : State) : Out :=
  match dueReservation s with
  | some (pa, b) => .next (modRegion s pa fun r => { r with reserved := some b, reservedAt := s.now })
  | none => match duePreemption s with
    | some (pa, b, cs) =>
      .next (cs.foldl (fun s c => requestStop s c .requeue) (modRegion s pa fun r => { r with clearing := some b }))
    | none => match nextRegion s with
      | none => .next s
      | some (s, pa) => match (region? s pa).bind (findBasin s) with
        | none => .next s
        | some b => .next (placeHead s pa b)

/-! ## COHORT_RESTORE (R359, R373) -/

/-- The hottest core of a basin. -/
def basinTemp (s : State) (b : Nat) : Nat := maxL ((List.range 4).map fun q => (coreOf s (4 * b + q)).temp)

/-- The hot threshold of a core (R359). -/
def hotAt (s : State) (core : Nat) : Nat := (coreOf s core).hot.getD s.dev.hotThreshold

/-- Basins whose cores are all below the threshold, coolest first (R359). -/
def coolBasins (s : State) : List Nat :=
  sortBy (fun a b => lexLt [basinTemp s a, a] [basinTemp s b, b])
    ((List.range 64).filter fun b => (List.range 4).all fun q => decide ((coreOf s (4 * b + q)).temp < hotAt s (4 * b + q)))

/-- The coolest basin for a migrating cohort: one that is open to it and where it fits (R348, R359). -/
def migrationBasin (s : State) (c : Cohort) : Option Nat :=
  (coolBasins s).find? fun b => !((region? s c.region).any fun r => kept s r b) && (restore s c b).isSome

/-- A migrating cohort for which no cool basin is left re-enters its queue, so that it is restored at last (R117; log 86). -/
def backToQueue (s : State) (c : Cohort) : State :=
  modRegion (modCohort s c.uid fun c => { c with stop := none }) c.region fun r => { r with queue := requeue s r.queue c.uid }

/-- COHORT_RESTORE: a migrating cohort on the coolest basin that fits it, or the saved head that the placer places next; then its
refills, one at a time. -/
def execCohortRestore (cohort basin : Nat) (s : State) : Out :=
  match cohort? s cohort with
  | none => .next s
  | some c =>
    if c.resident then .next (if c.stop.isNone then refillNext s c else s)
    else if ((region? s c.region).map (·.suspended)).getD false then .next s
    else if c.stop = some .migrate then
      match migrationBasin s c with
      | some b => .next (if b = basin then (restore s c b).getD s else s)
      | none => .next (backToQueue s c)
    else match nextRegion s with
      | none => .next s
      | some (t, pa) => match region? t pa with
        | none => .next s
        | some r => .next (if headOf r = some (.saved cohort) ∧ findBasin t r = some basin then placeHead t pa basin else s)

/-! ## THERMAL_MIGRATION (R359) -/

/-- CYCLE of the cohort's first core. -/
def cohortCycle (s : State) (c : Cohort) : Nat := ((c.wgs.head?).map fun w => coreCycle s w.core).getD 0

/-- The cohort is to be checked: a core that it occupies is hot, its residency has passed on every core, and the time of the
next check has come. -/
def thermalDue (s : State) (c : Cohort) : Bool :=
  c.resident && c.stop.isNone
    && (c.wgs.any fun w => decide (hotAt s w.core < (coreOf s w.core).temp) && decide (Config.residency < residencyOn s w))
    && elapsed s c && c.recheck.all fun t => decide (t ≤ cohortCycle s c)

/-- A cooler basin has room for the cohort. -/
def coolerRoom (s : State) (c : Cohort) : Bool :=
  (coolBasins s).any fun b => !((region? s c.region).any fun r => kept s r b)
    && (fitCores s s c.region (cohortDemand s c) b).isSome

/-- THERMAL_MIGRATION (R359, R386): the cohort is pre-empted, or stays and is checked again after 65,536 cycles. -/
def execThermalMigration (cohort : Nat) (s : State) : Out :=
  match cohort? s cohort with
  | none => .next s
  | some c =>
    .next (if !thermalDue s c then s
      else if coolerRoom s c && removable s c then requestStop s c .migrate
      else modCohort s cohort fun x => { x with recheck := some (cohortCycle s c + 65536) })

/-! ## GROWTH_STALL (R358) -/

/-- Granules that a cohort holds in a partition of a core. -/
def cohortGranules (s : State) (uid core part : Nat) : Nat :=
  ((residents s core).filter fun g => g.cohort == uid && partOf g == part).foldl (fun n g => n + g.alloc / 8) 0

/-- The first waiting grower whose request would fit if some other cohort's granules were freed, and the growers before it. -/
def stalledGrower (s : State) (core : Nat) : Option (Gang × List Nat) :=
  let q := (coreOf s core).growers
  (List.range q.length).findSome? fun k => match q[k]? with
    | none => none
    | some (uid, n) => match gang? s uid with
      | none => none
      | some g =>
        if (cohortsOn s core).any fun c => c.uid != g.cohort
            && decide (n / 8 - g.alloc / 8 ≤ freeGranules s core (partOf g) + cohortGranules s c.uid core (partOf g))
        then some (g, (q.take k).map (·.1)) else none

/-- GROWTH_STALL (R358): the youngest cohort of a stalled core that holds no earlier grower is pre-empted. -/
def execGrowthStall (core : Nat) (s : State) : Out :=
  if (residents s core).any canIssue then .next s
  else match stalledGrower s core with
    | none => .next s
    | some (g, before) =>
      let ok := (cohortsOn s core).filter fun c =>
        c.uid != g.cohort && removable s c && !before.any fun u => ((gang? s u).map (·.cohort)).getD 0 == c.uid
      match sortBy (fun a b => lexLt [b.age, b.uid] [a.age, a.uid]) ok with
      | [] => .next s
      | c :: _ => .next (requestStop s c .requeue)

/-- REGS_GROW_GRANT (R269, R358): the first waiting request of a partition is granted when it fits. -/
def execRegsGrowGrant (core part : Nat) (s : State) : Out :=
  match growersOf s core part with
  | [] => .next s
  | (uid, n) :: _ => match gang? s uid with
    | none => .next s
    | some g => match g.sched.wait with
      | .grow _ split =>
        if n / 8 - g.alloc / 8 ≤ freeGranules s core part then
          let s := modCore s core fun c => { c with growers := c.growers.filter fun q => q.1 != uid }
          .next (modGang s uid fun g => completeWait s g split (grow n))
        else .next s
      | _ => .next s

/-! ## COHORT_RETIRE (R229, R235) -/

/-- Every gang has ended and every command that the cohort issued is complete. -/
def cohortDone (s : State) (c : Cohort) : Bool :=
  (gangsOf s c.uid).isEmpty && cohortQuiet s c.uid && !(s.copies.any fun x => x.cohort == c.uid)
    && !s.cores.any fun k => k.2.raster.queue.any fun q => q.cohort == c.uid

/-- The outputs and the floor of a fragment gang reach its fragment (R324, R327). -/
def keepOutputs (s : State) (gr : Grid) (c : Cohort) : State :=
  match gr.raster with
  | none => s
  | some (core, _, _) =>
    let gs := s.gangs.filter fun g => g.cohort == c.uid
    let out := gs.flatMap (·.outputs)
    let floor := maxL (gs.map (·.floor))
    modCore s core fun k =>
      { k with raster := { k.raster with
          frags := k.raster.frags.map fun f => if f.grid = some gr.uid ∧ f.out = none then { f with out := some out, floor } else f } }

/-- The cohort leaves: its local memory, names, objects and scoreboard entries are free, those of a workgroup with the whole cohort
(log 98). -/
def removeCohort (s : State) (c : Cohort) : State :=
  let s := giveSlot (freeResources s c (s.gangs.filter fun g => g.cohort == c.uid)) c
  { s with cohorts := s.cohorts.filter fun x => x.uid != c.uid, gangs := s.gangs.filter fun g => g.cohort != c.uid,
           now := s.now + 1 }

/-- The grid counts its retired cohorts and leaves with the last. -/
def retireCount (s : State) (gr : Grid) : State :=
  if gr.retired + 1 < gridCohorts gr then modGrid s gr.uid fun g => { g with retired := g.retired + 1 }
  else { s with grids := s.grids.filter fun g => g.uid != gr.uid }

/-- COHORT_RETIRE: with the grid's last cohort the device adds 1 to DONE (R235); it waits while that write must. -/
def execCohortRetire (cohort : Nat) (s : State) : Out :=
  match cohort? s cohort with
  | none => .next s
  | some c =>
    if !c.resident || !cohortDone s c then .next s
    else match grid? s c.grid with
      | none => .next (removeCohort s c)
      | some gr =>
        let leave (s : State) : State := retireCount (removeCohort (keepOutputs s gr c) c) gr
        if gr.retired + 1 < gridCohorts gr ∨ gr.doneVa = 0 then .next (leave s)
        else match completionAdd s (.grid gr.uid) gr.ctx gr.region gr.doneVa gr.stamp gr.doneFail with
          | .done t => .next (leave t)
          | .wait s => .next s
          | .own => .next (requestHandover s gr.ctx gr.doneVa fun r => { r with grids := (gr.uid :: r.grids).eraseDups })
          | .fault t => .next (leave (unitRecord s gr.ctx gr.launcher c.number t))

end Sys2Proof.Machine
end

