-- ==== Sys2Proof/Machine/Admit.lean ====
section
/-! DEFINITION. The lease scheduler of a core (R349 to R357), the meters of a reach and a core (R61, R159), favour (R77), and
the span and path limits that act between instructions (R62, R150). -/

namespace Sys2Proof.Machine

/-! ## Admission (R354 to R356) -/

/-- A gang that takes part in the scheduling of its core: its cohort is resident and no request stops it (R371). -/
def scheduled (s : State) (core : Nat) : List Gang :=
  (residents s core).filter fun g => (((cohortOf s g).map (·.stop)).getD none).isNone

/-- Parked and ready (R354). -/
def parkedReady (g : Gang) : Bool := canIssue g && !g.sched.active

def activeOn (s : State) (core : Nat) : List Gang := (residents s core).filter fun g => g.sched.active

def leaseSum (gs : List Gang) : Nat := gs.foldl (fun n g => n + appliedLease g.lease) 0

def oversize (g : Gang) : Bool := decide (Config.leasable < appliedLease g.lease)

/-- Protected now (R355). -/
def protected' (s : State) (g : Gang) : Bool :=
  match g.sched.protUntil with
  | none => false
  | some t => decide (coreCycle s g.core < t)

/-- A gang beside others: their leases and its own fit, an oversize gang only alone. -/
def fitsBeside (g : Gang) (others : List Gang) : Bool :=
  if oversize g then others.isEmpty else decide (leaseSum others + appliedLease g.lease ≤ Config.leasable)

def parkGang (s : State) (uid : Nat) : State :=
  modGang s uid fun g => { g with sched := { g.sched with active := false, readySince := coreCycle s g.core } }

def parkAll (s : State) (gs : List Gang) : State := gs.foldl (fun s g => parkGang s g.uid) s

def letRun (s : State) (uid : Nat) (protUntil : Option Nat) : State :=
  modGang s uid fun g => { g with sched := { g.sched with active := true, aged := none, protUntil } }

/-- Active gangs that may be parked for room, youngest first. -/
def parkable (s : State) (core : Nat) (but : Nat) : List Gang :=
  sortBy (fun a b => older s b a) ((activeOn s core).filter fun g => !protected' s g && g.uid != but)

/-- The youngest unprotected active gangs to park so that a gang fits; none when protected ones stand in the way. -/
def roomFor (s : State) (g : Gang) : Option (List Gang) :=
  let l := parkable s g.core g.uid
  let act := activeOn s g.core
  ((List.range (l.length + 1)).map fun n => l.take n).find? fun t => fitsBeside g (act.filter fun h => !t.any fun x => x.uid == h.uid)

/-- The oldest aged gang, by the time it aged, then by age (R356). -/
def nextAged (s : State) (core : Nat) : Option Gang :=
  (sortBy (fun a b => lexLt (a.sched.aged.getD 0 :: gangAge s a) (b.sched.aged.getD 0 :: gangAge s b))
    ((scheduled s core).filter fun g => parkedReady g && g.sched.aged.isSome)).head?

/-- Step 1 of R355: aged gangs, each protected for 4,096 cycles. -/
def admitAged (core : Nat) : Nat → State → State
  | 0, s => s
  | n + 1, s => match nextAged s core with
    | none => s
    | some g => match roomFor s g with
      | none => s
      | some l => admitAged core n (letRun (parkAll s l) g.uid (some (coreCycle s core + 4096)))

/-- Park the first gangs of a list until the active leases fit. -/
def parkUntil (core : Nat) : List Gang → State → State
  | [], s => s
  | g :: r, s => if leaseSum (activeOn s core) ≤ Config.leasable then s else parkUntil core r (parkGang s g.uid)

/-- Step 2 of R355 for the gangs whose lease has changed, oldest first. -/
def parkOver (core : Nat) (changed : List Gang) (s : State) : State :=
  changed.foldl (fun s g => if ((gang? s g.uid).map (·.sched.active)).getD false then parkUntil core (parkable s core g.uid) s else s) s

/-- Step 3 of R355: parked ready gangs, oldest first. -/
def admitReady (core : Nat) (s : State) : State :=
  (sortBy (older s) ((scheduled s core).filter parkedReady)).foldl (fun s g =>
    if fitsBeside g (activeOn s core) then letRun s g.uid none else s) s

/-- Changed leases take effect, as a part of step 2 (R357). -/
def applyLease (g : Gang) : Gang :=
  { g with lease := { g.lease with apDecl := g.lease.decl, apMode := g.lease.mode, changed := false } }

def applyLeases (changed : List Gang) (s : State) : State := changed.foldl (fun s g => modGang s g.uid applyLease) s

/-- The three steps of a decision. -/
def decideAdmission (core : Nat) (s : State) : State :=
  let changed := sortBy (older s) ((residents s core).filter fun g => g.lease.changed)
  admitReady core (parkOver core changed (applyLeases changed (admitAged core (s.gangs.length + 1) s)))

/-- What a decision may change of a gang. -/
def admitKey (g : Gang) : Bool × Bool := (g.sched.active, g.lease.changed)

/-- A decision is due: one made now would change something, which is so only after one of the events of R355. -/
def admitDue (s : State) (core : Nat) : Bool := (decideAdmission core s).gangs.map admitKey != s.gangs.map admitKey

/-- ADMISSION_DECISION (R355). -/
def execAdmissionDecision (core : Nat) (s : State) : Out := .next (decideAdmission core s)

/-- The gang has been parked and ready for more than 65,536 cycles (R356). -/
def agingDue (s : State) (g : Gang) : Bool :=
  cohortResident s g && parkedReady g && g.sched.aged.isNone && decide (65536 < coreCycle s g.core - g.sched.readySince)

/-- GANG_AGING (R356): the gang aged in the cycle after its 65,536th. -/
def execGangAging (uid : Nat) (s : State) : Out :=
  match gang? s uid with
  | none => .next s
  | some g =>
    .next (if agingDue s g then modGang s uid fun g => { g with sched := { g.sched with aged := some (g.sched.readySince + 65537) } }
      else s)

/-- The protection of the gang has ended (R355). -/
def protectionOver (s : State) (g : Gang) : Bool := g.sched.protUntil.isSome && !protected' s g

/-- PROTECTION_END (R355). -/
def execProtectionEnd (uid : Nat) (s : State) : Out :=
  match gang? s uid with
  | none => .next s
  | some g =>
    .next (if protectionOver s g then modGang s uid fun g => { g with sched := { g.sched with protUntil := none } } else s)

/-! ## Measurement (R351, R353) -/

/-- The new measured lease from D, V and the applied lease. -/
def measured (meas d v lines : Nat) : Nat :=
  let m := if 0 < d then ceilTo 16 ((5 * d + 3) / 4) else meas
  let m := if lines < 8 * v then ceilTo 16 ((5 * max m meas + 3) / 4) else m
  min (max m 16) 2048

/-- The gang has issued the instructions of its window (R351). -/
def windowOver (g : Gang) : Bool := decide (4096 ≤ g.lease.winCount)

/-- LEASE_MEASUREMENT_WINDOW (R351): the window of 4,096 instructions ends. -/
def execLeaseMeasurementWindow (uid : Nat) (s : State) : Out :=
  match gang? s uid with
  | none => .next s
  | some g =>
    let l := g.lease
    if !windowOver g then .next s
    else
      let m := measured l.meas l.winLines.length l.lost (appliedLease l)
      .next (modGang s uid fun g =>
        { g with lease := { l with meas := m, lost := 0, winCount := 0, winLines := [], changed := l.changed || m != l.meas } })

/-- The core's window of 4,096 cycles has ended (R353). -/
def lostOver (s : State) (core : Nat) : Bool := decide ((coreOf s core).lostStart + 4096 ≤ coreCycle s core)

/-- LOST_LOCALITY_WINDOW (R353): the core's window of 4,096 cycles ends; windows in which the core did nothing pass with it. -/
def execLostLocalityWindow (core : Nat) (s : State) : Out :=
  let c := coreOf s core
  if !lostOver s core then .next s
  else
    let act := activeOn s core
    let s := match (if 256 < c.lostCount && decide (2 ≤ act.length) then (parkable s core 0).head? else none) with
      | some g => parkGang s g.uid
      | none => s
    .next (modCore s core fun c =>
      { c with lostCount := 0, lostStart := c.lostStart + 4096 * ((coreCycle s core - c.lostStart) / 4096) })

/-! ## Meters (R61, R159) -/

/-- The balances of a reach at the start of a period. -/
def refresh (reach : Nat) (r : Region) : Region :=
  { r with balance := (List.range 24).map fun k =>
      let b := r.balance.getD k 0
      if k % 4 = reach then (if 0 < b then 0 else b) + (r.budget.getD (k / 4) 0 : Nat) else b }

/-- The period of the reach has ended (R61). -/
def periodOver (s : State) (reach : Nat) : Bool := decide (s.periodStart.getD reach 0 + Config.period ≤ s.clock)

/-- The balances of a reach and the start of its period. -/
def beginPeriod (s : State) (reach : Nat) : State :=
  { s with regions := s.regions.map (refresh reach),
           periodStart := s.periodStart.set reach (s.periodStart.getD reach 0 + Config.period) }

/-- METERING_PERIOD (R61, R360): a period of the reach begins, and the requests that waited for it issue in their order. -/
def execMeteringPeriod (reach : Nat) (s : State) : Out :=
  if 4 ≤ reach ∨ periodOver s reach = false then .next s else .next (releaseWaiting (beginPeriod s reach) reach)

/-- The credit period of the core has ended (R159). -/
def creditOver (s : State) (core : Nat) : Bool := decide ((coreOf s core).creditStart + Config.period ≤ coreCycle s core)

/-- Periods of the core's credit that have ended since the one that was counted began. -/
def creditPeriods (s : State) (core : Nat) : Nat := (coreCycle s core - (coreOf s core).creditStart) / Config.period

/-- CLOCK_CREDIT_PERIOD (R159): what was saved in the period is the credit of the next; after a period in which nothing issued
there is none. -/
def execClockCreditPeriod (core : Nat) (s : State) : Out :=
  let n := creditPeriods s core
  if !creditOver s core then .next s
  else .next (modCore s core fun c =>
    { c with credit := if n = 1 then c.gated else 0, gated := 0, creditStart := c.creditStart + Config.period * n })

/-! ## Spans and paths (R62, R68, R69, R77, R150) -/

/-- The gang stands at a span start: it has issued nothing in its span. -/
def atSpanStart (g : Gang) : Bool := g.span.count == 0 && !g.ended

/-- FAVOUR_GRANT (R77): the oldest request of a gang at a span start is granted while no span is favoured. -/
def execFavourGrant (s : State) : Out :=
  if s.favoured.isSome then .next s
  else match s.favourQueue.find? fun u => ((gang? s u).map fun g => atSpanStart g && cohortResident s g).getD false with
    | none => .next s
    | some u => .next { s with favoured := some u, favourQueue := s.favourQueue.filter (· != u) }

/-- The span has issued 65,536 instructions (R62, code 3). -/
def atLimit (g : Gang) : Bool := decide (Config.spanLimit ≤ g.span.count)

/-- SPAN_INSTRUCTION_LIMIT (R62, R78): the span ends after its 65,536th instruction; a transaction restarts with status 2. -/
def execSpanInstructionLimit (uid : Nat) (s : State) : Out :=
  match gang? s uid with
  | none => .next s
  | some g =>
    if !atLimit g || g.ended then .next s
    else if g.span.tx.isSome then .next (endTx s uid 2 3)
    else match commitSpan s uid 3 with
      | .done t => .next t
      | .failed t => .next t
      | .wait => .next s

/-- Reaches that a span's writes concern. -/
def spanReaches (g : Gang) : List Nat :=
  ((verLines g.span ++ g.span.pins.map fun p => lineOf p.slot).map fun l => reachOf (lineBase l)).eraseDups

/-- A commit that is due outside an instruction, and its code: that of a gang which a freeze holds (R375), or after the
65,536th instruction (R62). -/
def commitDue (g : Gang) : Option Nat :=
  if g.ended || g.span.tx.isSome || !g.span.begun then none
  else if g.sched.heldBy.isSome then some 6
  else if atLimit g then some 3 else none

def commitOf (two : Bool) (uid : Nat) (s : State) : State :=
  match gang? s uid with
  | none => s
  | some g => match commitDue g with
    | none => s
    | some code =>
      if decide (2 ≤ (spanReaches g).length) != two then s
      else match commitSpan s uid code with
        | .done t => t
        | .failed t => t
        | .wait => s

/-- SPAN_COMMIT (R68): a commit that is due between instructions; every other commit is part of the step that ends its
span, through the same `commitSpan`. -/
def execSpanCommit (uid : Nat) (s : State) : Out := .next (commitOf false uid s)

/-- TWO_PHASE_COMMIT (R69): the same for a span whose writes lie in more than one reach. -/
def execTwoPhaseCommit (uid : Nat) (s : State) : Out := .next (commitOf true uid s)

/-- The slice has 64 backward branches to make way for (R150). -/
def rotationDue (sl : Slice) : Bool := decide (64 ≤ sl.back) && !sl.ended && !sl.held

/-- The due path of a slice yields (R150). -/
def rotateSlice (g : Gang) (slice : Nat) : Gang :=
  if ((g.slices[slice]?).map rotationDue).getD false then settle { g with slices := g.slices.modify slice rotate } else g

/-- Every due path of a gang yields. -/
def rotateDue (g : Gang) : Gang :=
  if g.slices.any rotationDue then (List.range g.slices.length).foldl rotateSlice g else g

/-- PATH_ROTATION (R150); after each instruction the issue does the same through `rotateDue`. -/
def execPathRotation (uid slice : Nat) (s : State) : Out := .next (modGang s uid fun g => rotateSlice g slice)

end Sys2Proof.Machine
end

