-- ==== Sys2Proof/Machine/Atom.lean ====
section
/-! DEFINITION. Atomics, majors 0x2B and 0x2E (R262, R263). -/

namespace Sys2Proof.Machine

/-- The new value of a location of w bits, or none when no write is due (R262). For CAS, `c` is the comparand and `n` the
new value. -/
def atomNew {w : Nat} (op : AtomOp) (old c n : BitVec w) : Option (BitVec w) :=
  match op with
  | .add => some (old + c)
  | .xchg => some c
  | .cas => if old = c then some n else none
  | .and => some (old &&& c)
  | .or => some (old ||| c)
  | .xor => some (old ^^^ c)
  | .min => some (minS old c)
  | .max => some (maxS old c)
  | .minu => some (minU old c)
  | .maxu => some (maxU old c)

/-- New bytes from old bytes, with the operands of register c in a lane (R262). -/
def atomBytes (x : AtomArgs) (g : Gang) (i : Nat) (old : List Byte) : Option (List Byte) :=
  let c := x.c.toNat
  if x.dbl then
    (atomNew x.op (BitVec.ofNat 64 (natOfBytes old)) (pairOf g c i) (pairOf g (c + 2) i)).map fun v => bytesOf 8 v.toNat
  else
    (atomNew x.op (BitVec.ofNat 32 (natOfBytes old)) (getReg g c i) (getReg g (c + 1) i)).map fun v => bytesOf 4 v.toNat

def atomAcquires (x : AtomArgs) : Bool := x.ord == .acq || x.ord == .acqRel
def atomReleases (x : AtomArgs) : Bool := x.ord == .rel || x.ord == .acqRel

/-- The registers that an atomic reads. -/
def atomReads (x : AtomArgs) (isLocal : Bool) : List Nat :=
  let k := match x.op, x.dbl with
    | .cas, true => 4 | .cas, false => 2 | _, true => 2 | _, false => 1
  (if isLocal then [2 * x.base.toNat] else [2 * x.base.toNat, 2 * x.base.toNat + 1])
    ++ (if x.off = 0#7 then [] else [x.off.toNat]) ++ (List.range k).map (x.c.toNat + ·)

/-- The stamp that an atomic's write stores: the floor with a release, the release floor when relaxed (R70, R92). With acquire
alone it stores that of the last fence with release semantics, after which every write is a release (R91). -/
def atomStamp (x : AtomArgs) (g : Gang) : Nat :=
  if atomReleases x then g.floor else if x.ord = .relaxed then g.relFloor else g.fenceFloor

/-- The release stamp of a location after an atomic's write, `old` standing there before: a read-modify-write keeps what it
follows, so that an acquire of its value still synchronises with the earlier release (R70, R91; log 83). -/
def rmwStamp (x : AtomArgs) (g : Gang) (old : Nat) : Nat := max old (atomStamp x g)

/-- The release stamps of n bytes after an atomic's write of them. -/
def rmwStamps (x : AtomArgs) (g : Gang) (pa n : Nat) (l : List (Nat × Nat)) : List (Nat × Nat) :=
  (List.range n).foldl (fun t i => putK 0 (pa + i) (rmwStamp x g (readK 0 (pa + i) t)) t) l

/-- Outcome of the lanes so far: state, old values, the largest stamp found, and whether a write was made. -/
structure AtomAcc where
  s : State
  olds : List (Nat × List Byte)
  stamp : Nat
  wrote : Bool

/-- One lane of an atomic at its home slice; the issuing core's caches lose the line whether or not a write is due (R41). -/
def atomLane (uid : Nat) (x : AtomArgs) (g : Gang) (a : AtomAcc) (o : Nat × DWord × Xlat) : AtomAcc :=
  let n := atomSize x
  let s := cleanUp (setAD a.s o.2.2 true) g.core [lineOf o.2.2.pa]
  let st := max a.stamp (stampAt s o.2.2.pa n)
  let old := (homeBytes s o.2.2 n).1
  match atomBytes x g o.1 old with
  | none => ⟨s, a.olds ++ [(o.1, old)], st, a.wrote⟩
  | some bs =>
    let s := { s with relStamp := rmwStamps x g o.2.2.pa n s.relStamp }
    let s := homeWrite s (some g.core) (some uid) o.2.2 bs (readK 0 o.2.2.pa s.relStamp) (gangSrc g)
    ⟨s, a.olds ++ [(o.1, old)], st, true⟩

/-- Old values into d after all lanes (R263). -/
def putOlds (s : State) (uid : Nat) (d : Reg) (olds : List (Nat × List Byte)) : State :=
  modGang s uid fun g => olds.foldl (fun g o => loadInto g d false o.2 o.1) g

/-- The ordering effects of an atomic on the gang (R91, R92, R263): a CAS that writes nothing releases nothing. -/
def atomOrder (s : State) (uid : Nat) (x : AtomArgs) (a : AtomAcc) : State :=
  let s := if atomReleases x && a.wrote then releaseEvent s uid else s
  if atomAcquires x then acquireEvent s uid x.scope a.stamp
  else if x.ord == .relaxed then raisePending s uid a.stamp else s

def execAtom (x : AtomArgs) (s : State) : Out :=
  boundary 0 false s fun s g it =>
    let n := atomSize x
    let mask := execMask g it
    let base := globalBase g it mask x.base none
    let rs := failPoisoned s true (checkLanes s g .store n (laneVas g mask base x.off n))
    match laneOwn rs with
    | some va => awaitHandover s it (ctxOf s g) va
    | none =>
      let oks := laneOks rs
      if favourBlocks s (some it.gang) (coveredBytes n oks) [] then stay s it
      else withLines s g it (oks.map (·.2.2)) fun s =>
        let a := oks.foldl (atomLane it.gang x g) ⟨s, [], 0, false⟩
        let s' := putOlds a.s it.gang x.d a.olds
        let s' := if a.wrote then storeLines s' (regionOf s g) (coveredLines oks) else s'
        let s' := if oks.isEmpty then s' else atomOrder s' it.gang x a
        finishLanes s (freshSpan s' it.gang) it.gang [] 0x30 (laneFails rs) base 0 (atomReads x false) (dataRegs x.d n)

/-! ## ATOML -/

def localStamp (s : State) (cohort : Nat) (a : LocalAddr) (n : Nat) : Nat :=
  match (cohort? s cohort).bind fun c => workgroup? c a.wg with
  | none => 0
  | some w => maxL ((List.range n).map fun i => readK 0 (a.off + i) w.stamps)

def setLocalStamp (s : State) (x : AtomArgs) (g : Gang) (a : LocalAddr) (n : Nat) : State :=
  modWg s g.cohort a.wg fun w => { w with stamps := rmwStamps x g a.off n w.stamps }

def atomlLane (x : AtomArgs) (g : Gang) (acc : AtomAcc × List (Nat × DWord)) (o : Nat × LocalAddr) : AtomAcc × List (Nat × DWord) :=
  let a := acc.1
  let n := atomSize x
  if localPoisoned a.s g.cohort o.2.wg o.2.off n then (a, acc.2 ++ [(o.1, o.2.word)])
  else
    let st := max a.stamp (localStamp a.s g.cohort o.2 n)
    let old := localBytes a.s g.cohort o.2.wg o.2.off n
    match atomBytes x g o.1 old with
    | none => (⟨a.s, a.olds ++ [(o.1, old)], st, a.wrote⟩, acc.2)
    | some bs =>
      let s := setLocalStamp (localWrite a.s g.cohort o.2.wg o.2.off bs) x g o.2 n
      (⟨s, a.olds ++ [(o.1, old)], st, true⟩, acc.2)

def execAtoml (x : AtomArgs) (s : State) : Out :=
  boundary 0 false s fun s g it =>
    let n := atomSize x
    let mask := execMask g it
    let base := localBase g it mask x.base none
    let rs := localLanes s g mask base x.off n
    let oks := laneOks rs
    match scoreWait s g.cohort (localRanges n oks) with
    | none => stay s it
    | some s1 =>
      let (a, dead) := oks.foldl (atomlLane x g) (⟨s1, [], 0, false⟩, [])
      let s' := putOlds a.s it.gang x.d a.olds
      let s' := if oks.isEmpty then s' else atomOrder s' it.gang x a
      finishLanes s (freshSpan s' it.gang) it.gang dead 0x32 (laneFails rs) base 0 (atomReads x true) (dataRegs x.d n)

end Sys2Proof.Machine
end

