-- ==== Sys2Proof/Machine/Surf.lean ====
section
/-! DEFINITION. SURF.LD, SURF.ST, SURF.STC and SURF.MV, major 0x30 (R103, R104, R133 to R136, R140, R315 to R317). -/

namespace Sys2Proof.Machine

/-- What a gang's open span sees, its reads charged to the gang's region on the request of the split that issues. -/
def viewOf (s : State) (g : Gang) : View :=
  ⟨ctxOf s g, regionOf s g, s.iss.map fun it => .gang it.gang it.split, g.span.pins, g.span.moves⟩

/-- The view of the issuing gang as the state stands. -/
def viewNow (s : State) (uid : Nat) : View :=
  match gang? s uid with
  | some g => viewOf s g
  | none => View.committed 0 0

def modSpan (s : State) (uid : Nat) (f : Span → Span) : State := modGang s uid fun g => { g with span := f g.span }

/-! ## Touched samples (R103) -/

/-- The leaves of the pages that hold these samples, by page (R72). -/
def touchLeaves (v : View) (s : State) (ls : List (Sample × DWord)) : List (Nat × DWord) :=
  (ls.map (·.2)).eraseDups.filterMap fun va => match checkAccess s v.ctx v.region (.surf 1 false) va with
    | .ok x => some (x.pa / 4096, x.pte)
    | _ => none

/-- The span touches samples, as written or as read, taken from a decoded block of this fill point or from home. -/
def touch (v : View) (s : State) (uid : Nat) (ls : List (Sample × DWord)) (wr : Bool) (fill : Option Nat) : State :=
  let leaves := touchLeaves v s ls
  modSpan s uid fun sp => { sp with touched := sp.touched ++ ls.map fun l => (⟨l.1, wr, fill⟩ : Touch),
                                    leaves := leaves.foldl (fun t p => setK p.1 p.2 t) sp.leaves }

/-- The stored form of these blocks is read: slots and motion entries enter the read signature (R65), and every line counts
for a hand-over of its page, the descriptors' included (R84). -/
def touchForm (v : View) (s : State) (uid : Nat) (su : Surface) (bs : List (Nat × Nat × Nat)) : State :=
  let f := bs.foldl (fun f b => f.append (blockForm v s su b.1 b.2.1 b.2.2)) (⟨[], []⟩ : BlockForm)
  let desc := descLines v s su
  modSpan s uid fun sp => { sp with surfReads := (f.mainLines ++ sp.surfReads).eraseDups,
                                    formReads := (f.all ++ desc ++ sp.formReads).eraseDups }

/-- A sample by the surface that holds it: its identity and the virtual address of its slot. -/
def sampleAndVa (v : View) (s : State) (d : SurfDesc) (c x y : Nat) : Sample × DWord :=
  (sampleLoc v s d c x y, slotVA d c (x / 4) (y / 4))

/-- In-extent samples of a block. -/
def blockSamples (v : View) (s : State) (d : SurfDesc) (c bx by' : Nat) : List (Sample × DWord) :=
  ((List.range 16).filter (inExtent d bx by')).map fun m => sampleAndVa v s d c (4 * bx + m % 4) (4 * by' + m / 4)

/-- Blocks of a patch inside the extent, in every channel. -/
def patchBlocks (d : SurfDesc) (px py : Nat) : List (Nat × Nat × Nat) :=
  (List.range d.chans).flatMap fun c => (List.range 4).filterMap fun k =>
    let bx := 2 * px + k % 2
    let by' := 2 * py + k / 2
    if 4 * bx < d.width && 4 * by' < d.height then some (c, bx, by') else none

/-! ## Pinning (R59, R136) -/

def pinned (sp : Span) (d : SurfDesc) (c bx by' : Nat) : Bool :=
  sp.pins.any fun p => p.surf.d.va == d.va && p.chan == c && p.bx == bx && p.by' == by'

/-- One page of a surface's stored form as it translates now, and whether it may be written; a poisoned page fails (R140). -/
def pinPage (v : View) (kind : Nat) (write : Bool) (s : State) (va : DWord) : Acc PinPage :=
  match checkAccess s v.ctx v.region (.surf kind write) va with
  | .ok x => if x.poison then .bad s cPOISON (subInfo 0x30) va else .ok s ⟨kind, write || pteW x.pte, va, x.pa⟩
  | .own _ => .own s va
  | .fail c sub level => .bad s c (checkInfo c sub level) va

/-- The pages of a spill arena (R125). -/
def arenaPages (d : SurfDesc) : List DWord :=
  let size := 128 + 128 * bitmapLines d + 32 * d.spillCount
  (List.range ((size + 4095) / 4096 + 1)).filterMap fun k =>
    let off := if k = 0 then 0 else 4096 * k - d.spillBase.toNat % 4096
    if off < size then some (d.spillBase + BitVec.ofNat 64 off) else none

/-- The header and bitmap lines of a spill arena. -/
def arenaLines (d : SurfDesc) : List DWord := (List.range (1 + bitmapLines d)).map fun k => d.spillBase + BitVec.ofNat 64 (128 * k)

/-- What re-encoding of a block may write translates and may be written: the slot, the arena, and the motion entry of the
patch, which only a motion write writes (R136). The arena's lines that the commit reads are not poisoned (R140). -/
def pinPages (v : View) (s : State) (d : SurfDesc) (c bx by' : Nat) : Acc (List PinPage) :=
  let slot := slotVA d c bx by'
  (accList (pinPage v 1 true) s [slot, slot + BitVec.ofNat 64 (d.slotBits / 8 - 1)]).bind fun s a =>
    (accList (pinPage v 3 true) s (arenaPages d)).bind fun s b => (accList (vplain (.surf 3 true) v) s (arenaLines d)).bind fun s _ =>
      (accList (pinPage v 2 false) s (if d.anchor then [] else [motionVA d (bx / 2) (by' / 2)])).map fun m => a ++ b ++ m

/-- One spill entry reserved by an atomic update of the arena header (R136, step 2). -/
def reserveEntry (v : View) (s : State) (d : SurfDesc) (slot : DWord) : Acc Nat :=
  (vcheck (.surf 3 true) v s d.spillBase).bind fun s x =>
    let (used, reserved) := headerRead s x.pa
    if used + reserved < d.spillCount then .ok (addReserved s x.pa 1) x.pa
    else .bad s cSURFRATE (subInfo 1) slot

/-- The first write of a span to a block pins it (R136): the block and its prediction decode before (R140). -/
def pinBlock (s : State) (uid : Nat) (su : Surface) (c bx by' : Nat) : Acc Unit :=
  match gang? s uid with
  | none => .ok s ()
  | some g =>
    let v := viewOf s g
    if pinned g.span su.d c bx by' then .ok s ()
    else
      (blockAt v s su c bx by').bind fun s _ => (predsAt v s su c bx by').bind fun s _ =>
        (vcheck (.surf 1 true) v s (slotVA su.d c bx by')).bind fun s x =>
          (pinPages v s su.d c bx by').bind fun s pages =>
            (reserveEntry v s su.d (slotVA su.d c bx by')).bind fun s arena =>
              let s := touchForm v s uid su [(c, bx, by')]
              let s := modSpan s uid fun sp => { sp with pins := sp.pins ++ [⟨su, c, bx, by', x.pa, arena, pages, []⟩] }
              .ok (modCore s g.core fun k => { k with dbc := k.dbc.filter fun e => e.slot != x.pa }) ()

/-- A sample written in its pinned block. -/
def putSample (s : State) (uid : Nat) (d : SurfDesc) (c x y : Nat) (val : Nat) : State :=
  modSpan s uid fun sp =>
    let put (p : Pin) : Pin :=
      if p.surf.d.va = d.va ∧ p.chan = c ∧ p.bx = x / 4 ∧ p.by' = y / 4 then
        { p with writes := setK (y % 4 * 4 + x % 4) val p.writes }
      else p
    { sp with pins := sp.pins.map put }

/-! ## SURF.LD (R316) -/

/-- The span's own writes bear on the decode of a block: it is pinned, its patch's motion entry is written, or a reference has
pinned blocks. -/
def ownBearing (v : View) (su : Surface) (c bx by' : Nat) : Bool :=
  (v.pins.any fun p => p.surf.d.va == su.d.refA && su.a.isSome || p.surf.d.va == su.d.refB && su.b.isSome
      || p.surf.d.va == su.d.va && p.chan == c && p.bx == bx && p.by' == by')
    || v.moves.any fun m => m.surf.d.va == su.d.va && m.px == bx / 2 && m.py == by' / 2

/-- Samples of a block for a load, with the fill point of the decoded-block entry that served it (R59): a current one that `fit`
admits. Only a slot whose leaf has CL = 00 is cached (R39). -/
def loadBlock (fit : DbcEntry → Bool) (s : State) (g : Gang) (su : Surface) (c bx by' : Nat) : Acc (List Int × Option Nat) :=
  let v := viewOf s g
  (vplain (.surf 1 false) v s (slotVA su.d c bx by')).bind fun s x =>
    let s := setAD s x false
    let key := pteKey x.pte
    if pteCL x.pte ≠ 0 ∨ ownBearing v su c bx by' then (blockAt v s su c bx by').map fun l => (l, none)
    else match (dbcHit (coreOf s g.core) x.pa su.d.va.toNat key g.acq).filter fit with
      | some e => .ok (noteSeen s g.uid e.lines e.fill) (e.samples.map Int.ofNat, some e.fill)
      | none =>
        (blockAt v s su c bx by').bind fun s l =>
          .ok (dbcFill s g.core ⟨x.pa, su.d.va.toNat, key, s.now, l.map Int.toNat, entryLines v s su c bx by'⟩) (l, none)

/-- Samples that a load touches: its own and those that its prediction weights (R103). -/
def loadTouches (v : View) (s : State) (su : Surface) (c x y : Nat) : List (Sample × DWord) :=
  sampleAndVa v s su.d c x y :: (predLocs v s su x y).map fun r => sampleAndVa v s r.1 c r.2.1 r.2.2

/-! ## One lane (R316, R317) -/

/-- The four forms. -/
inductive SurfOp where
  | ld | st | stc | mv
deriving DecidableEq, Repr

/-- A lane's operands: coordinates, selector, data. -/
structure SurfLane where
  x : Nat
  y : Nat
  sel : Word
  data : Word
deriving DecidableEq, Repr

def surfLane (g : Gang) (d b : Reg) (i : Nat) : SurfLane :=
  let xy := getReg g b.toNat i
  ⟨fld xy 0 16, fld xy 16 16, getReg g (b.toNat + 1) i, getReg g d.toNat i⟩

def SurfLane.chan (l : SurfLane) : Nat := fld l.sel 0 2
def SurfLane.coef (l : SurfLane) : Nat := fld l.sel 4 4

/-- A selector with a reserved bit, or a channel that the surface has not (R317). -/
def selectorBad (op : SurfOp) (d : SurfDesc) (l : SurfLane) : Bool :=
  fld l.sel 8 24 != 0 || fld l.sel 2 2 != 0 || (op != .stc && l.coef != 0) || (op == .mv && l.chan != 0)
    || decide (d.chans ≤ l.chan)

/-- Pixel write (R133). -/
def pixelWrite (s : State) (uid : Nat) (su : Surface) (l : SurfLane) : Acc Unit :=
  (pinBlock s uid su l.chan (l.x / 4) (l.y / 4)).bind fun s _ =>
    let s := putSample s uid su.d l.chan l.x l.y (min l.data.toNat (2 ^ su.d.bits - 1))
    .ok (touch (viewNow s uid) s uid [sampleAndVa (viewNow s uid) s su.d l.chan l.x l.y] true none) ()

/-- The samples of a block inside the extent, rewritten. -/
def putBlock (s : State) (uid : Nat) (d : SurfDesc) (c bx by' : Nat) (p : List Int) : State :=
  ((List.range 16).filter (inExtent d bx by')).foldl
    (fun s m => putSample s uid d c (4 * bx + m % 4) (4 * by' + m / 4) (p.getD m 0).toNat) s

/-- Coefficient write (R134). -/
def coefWrite (s : State) (uid : Nat) (su : Surface) (l : SurfLane) : Acc Unit :=
  let bx := l.x / 4
  let by' := l.y / 4
  (pinBlock s uid su l.chan bx by').bind fun s _ =>
    let v := viewNow s uid
    (blockAt v s su l.chan bx by').bind fun s p =>
      (predsAt v s su l.chan bx by').bind fun s pred =>
        let r := (List.range 16).map fun m => if inExtent su.d bx by' m then p.getD m 0 - pred.getD m 0 else 0
        let t := invT ((fwdT r).set l.coef l.data.toInt)
        let q := (List.range 16).map fun m => clampSample su.d (pred.getD m 0 + t.getD m 0)
        let s := putBlock s uid su.d l.chan bx by' q
        .ok (touch v s uid (blockSamples v s su.d l.chan bx by') true none) ()

/-- The samples of a block under a new motion entry (R135). -/
def moveBlock (s : State) (uid : Nat) (su : Surface) (e : Word) (b : Nat × Nat × Nat) : Acc (List Int) :=
  let (c, bx, by') := b
  let v := viewNow s uid
  (blockAt v s su c bx by').bind fun s p =>
    (predsAt v s su c bx by').bind fun s old =>
      (accList (fun s m =>
        if inExtent su.d bx by' m then predUnder v s su e c (4 * bx + m % 4) (4 * by' + m / 4) else .ok s 0) s (List.range 16)).map
        fun new => (List.range 16).map fun m => clampSample su.d (new.getD m 0 + (p.getD m 0 - old.getD m 0))

/-- Motion write (R135). On an anchor surface, which has no motion field, the entry's address is counted from MVBASE = 0 (log 90). -/
def motionWrite (s : State) (uid : Nat) (su : Surface) (l : SurfLane) : Acc Unit :=
  let px := l.x / 8
  let py := l.y / 8
  let va := motionVA su.d px py
  let blocks := patchBlocks su.d px py
  if motionBad su l.data then .bad s cPERM (subInfo 0x18) va
  else (vcheck (.surf 2 true) (viewNow s uid) s va).bind fun s x =>
    (accList (fun s (b : Nat × Nat × Nat) => pinBlock s uid su b.1 b.2.1 b.2.2) s blocks).bind fun s _ =>
      (accList (fun s b => moveBlock s uid su l.data b) s blocks).bind fun s ps =>
        let v := viewNow s uid
        let s := (blocks.zip ps).foldl (fun s q => putBlock s uid su.d q.1.1 q.1.2.1 q.1.2.2 q.2) s
        let s := modSpan s uid fun sp =>
          { sp with moves := ⟨su, px, py, x.pa, l.data⟩ :: sp.moves.filter fun m => !(m.surf.d.va == su.d.va && m.px == px && m.py == py) }
        .ok (touch v s uid (blocks.flatMap fun b => blockSamples v s su.d b.1 b.2.1 b.2.2) true none) ()

/-- One lane's target: the value of a load; a lane outside the extent reads 0 or writes nothing. -/
def surfTarget (op : SurfOp) (s : State) (uid : Nat) (su : Surface) (l : SurfLane) : Acc Word :=
  if selectorBad op su.d l then .bad s cPERM (subInfo 0x1B) su.d.va
  else if su.d.width ≤ l.x || su.d.height ≤ l.y then .ok s 0
  else match op with
    | .ld => match gang? s uid with
      | none => .ok s 0
      | some g =>
        (loadBlock (fun _ => true) s g su l.chan (l.x / 4) (l.y / 4)).bind fun s r =>
          let v := viewOf s g
          let s := touchForm v s uid su [(l.chan, l.x / 4, l.y / 4)]
          .ok (touch v s uid (loadTouches v s su l.chan l.x l.y) false r.2)
            (BitVec.ofNat 32 (r.1.getD (l.y % 4 * 4 + l.x % 4) 0).toNat)
    | .st => (pixelWrite s uid su l).map fun _ => 0
    | .stc => (coefWrite s uid su l).map fun _ => 0
    | .mv => (motionWrite s uid su l).map fun _ => 0

/-! ## The instruction -/

/-- Every lane in ascending order, each on what the lanes before it left; the failing ones leave nothing but the requests that
they made. A page that belongs to another fails once its hand-over has failed (R35). The state, and what each lane met; or the
state in which the instruction waits. -/
def surfLanes (op : SurfOp) (g : Gang) (su : Surface) : State → List (Nat × SurfLane) →
    Except State (State × List (Nat × LaneRes Word))
  | s, [] => .ok (s, [])
  | s, (i, l) :: r =>
    let rest (t : State) (x : LaneRes Word) : Except State (State × List (Nat × LaneRes Word)) :=
      match surfLanes op g su t r with
      | .ok q => .ok (q.1, (i, x) :: q.2)
      | .error t => .error t
    match surfTarget op s g.uid su l with
    | .wait t => .error t
    | .ok t v => rest t (.ok v)
    | .bad t c info a => rest (keepAsks s t) (.fail c info a)
    | .own t a => rest (keepAsks s t) (ownRes s (ctxOf s g) g.ownerFail a)

/-- The samples that a lane touches, for locate mode (R73, R74). -/
def laneTouches (op : SurfOp) (v : View) (s : State) (su : Surface) (l : SurfLane) : List (Sample × DWord) :=
  if su.d.width ≤ l.x || su.d.height ≤ l.y then []
  else match op with
    | .ld => loadTouches v s su l.chan l.x l.y
    | .st => [sampleAndVa v s su.d l.chan l.x l.y]
    | .stc => blockSamples v s su.d l.chan (l.x / 4) (l.y / 4)
    | .mv => (patchBlocks su.d (l.x / 8) (l.y / 8)).flatMap fun b => blockSamples v s su.d b.1 b.2.1 b.2.2

def sampleTargets (sp : Span) (p : Sample) : List Target := sp.targets.filter fun t => t.loc == .sample p

/-- RACE at the first surface instruction that touches a target sample (R73, R74). Of several targets that the lowest lane touches,
the first in the order of `laneTouches` is reported (log 88). -/
def surfRace (op : SurfOp) (g : Gang) (v : View) (s : State) (su : Surface) (ls : List (Nat × SurfLane)) : Option Trap :=
  if !g.span.locate then none
  else
    let hits := ls.filterMap fun q =>
      ((laneTouches op v s su q.2).find? fun p => !(sampleTargets g.span p.1).isEmpty).map fun p => (q.1, p)
    match hits with
    | [] => none
    | (_, p, va) :: _ => (reported (sampleTargets g.span p)).map fun t =>
        { cause := cRACE, info := subInfo t.sub, addr := some va, lanes := some (maskOf (hits.map (·.1))), race := some (t.csn, t.src) }

/-- Blocks that the lanes would pin anew. -/
def newPins (op : SurfOp) (sp : Span) (su : Surface) (ls : List (Nat × SurfLane)) : List (Nat × Nat × Nat) :=
  ((ls.filter fun q => q.2.x < su.d.width && q.2.y < su.d.height).flatMap fun q =>
    match op with
    | .ld => []
    | .mv => patchBlocks su.d (q.2.x / 8) (q.2.y / 8)
    | _ => [(q.2.chan, q.2.x / 4, q.2.y / 4)]).eraseDups.filter fun b => !pinned sp su.d b.1 b.2.1 b.2.2

/-- Every decoded-block entry is pinned (R59, R62). -/
def pinsFull (s : State) (g : Gang) (n : Nat) : Bool := n != 0 && decide (Config.dbcBlocks < pinnedOn s g.core + n)

/-- A descriptor that fails, fails in every active lane. -/
def descTrap (c : BitVec 6) (info : Word) (a : DWord) (m : LaneMask) : Trap := { cause := c, info, addr := some a, lanes := some m }

/-- The lanes of a surface instruction whose descriptor was read. -/
def surfPerform (op : SurfOp) (s0 s : State) (g : Gang) (it : Issue) (d b : Reg) (su : Surface) : Out :=
  let m := execMask g it
  let ls := (lanesOf m).map fun i => (i, surfLane g d b i)
  let new := newPins op g.span su ls
  match surfRace op g (viewOf s g) s su ls with
  | some t => raise s t
  | none =>
    if pinsFull s g new.length then
      (if spanEmpty g.span && g.span.tx.isNone then stay (keepAsks s0 s) it else endBefore 4 s)
    else match surfLanes op g su s ls with
      | .error t => stay (keepAsks s0 t) it
      | .ok (s', rs) =>
        match laneOwn rs, laneFails rs with
        | some va, _ => awaitHandover (keepAsks s0 s') it (ctxOf s g) va
        | none, some f => raise (keepAsks s0 s') f.trap
        | none, none =>
          if op = .ld then .next (modGang s' it.gang fun g => (laneOks rs).foldl (fun g r => putReg g d.toNat r.1 r.2) g)
          else .next s'

/-- The surface as the span works on it: of one that it has written, as its first write to it read the descriptors (R121). -/
def spanSurface (sp : Span) (su : Surface) : Surface :=
  ((sp.pins.find? fun p => p.surf.d.va == su.d.va).map (·.surf)).getD su

/-- A surface instruction: the descriptor, then the lanes (R317). -/
def surfInstr (op : SurfOp) (d a b : Reg) (s : State) : Out :=
  withGang s fun g it =>
    let m := execMask g it
    match readSurface (viewOf s g) s (uniformPair g m a.toNat) with
    | .wait t => stay (keepAsks s t) it
    | .bad t c info x => raise (keepAsks s t) (descTrap c info x m)
    | .own t x => match failedHand s (ctxOf s g) g.ownerFail x with
      | some sub => raise (keepAsks s t) (descTrap cOWNER (subInfo sub) x m)
      | none => awaitHandover (keepAsks s t) it (ctxOf s g) x
    | .ok s' su => surfPerform op s s' g it d b (spanSurface g.span su)

def execSurfLd (d a b : Reg) (s : State) : Out := surfInstr .ld d a b s
def execSurfSt (d a b : Reg) (s : State) : Out := surfInstr .st d a b s
def execSurfStc (d a b : Reg) (s : State) : Out := surfInstr .stc d a b s
def execSurfMv (d a b : Reg) (s : State) : Out := surfInstr .mv d a b s

end Sys2Proof.Machine
end

