-- ==== Sys2Proof/Machine/Raster.lean ====
section
/-! DEFINITION. The raster pipeline: RAST.KICK, major 0x31 (R321, R322), binning and coverage (R323), fragment gangs (R324,
R325), blending (R326), and the write-back of tiles (R327, R328). -/

namespace Sys2Proof.Machine

/-! ## RAST.KICK (R321, R322) -/

/-- The 64 bytes of a raster command. -/
structure RasterDesc where
  vtx : DWord
  nprim : Nat
  rctl : Word
  target : DWord
  kernel : DWord
  entry : Word
  sx0 : Nat
  sy0 : Nat
  sx1 : Nat
  sy1 : Nat
  done : DWord
  reservedZero : Bool
deriving DecidableEq, Repr

def parseRaster (bs : List Byte) : RasterDesc :=
  { vtx := dwordAt bs 0, nprim := natAt bs 8 4, rctl := wordAt bs 12, target := dwordAt bs 16, kernel := dwordAt bs 24,
    entry := wordAt bs 32, sx0 := natAt bs 36 2, sy0 := natAt bs 38 2, sx1 := natAt bs 40 2, sy1 := natAt bs 42 2,
    done := dwordAt bs 48, reservedZero := zeroAt bs 44 4 && zeroAt bs 56 8 }

/-- Status 1: a malformed command. -/
def rasterMalformed (d : RasterDesc) : Bool :=
  !d.reservedZero || fld d.rctl 12 20 != 0 || fld d.rctl 0 3 != 0 || fld d.rctl 6 2 == 3 || fld d.rctl 4 2 == 3
    || d.nprim == 0 || decide (65535 < d.nprim) || d.vtx.toNat % 16 != 0 || d.kernel.toNat % 4096 != 0 || d.done.toNat % 8 != 0
    || decide (d.sx1 ≤ d.sx0) || decide (d.sy1 ≤ d.sy0)

def rasterCmd (s : State) (g : Gang) (d : RasterDesc) (su : Surface) : RasterCmd :=
  { gang := g.uid, gangid := g.gangid, cohort := g.cohort, ctx := ctxOf s g, region := regionOf s g, core := g.core, floor := g.floor,
    vtx := d.vtx, nprim := d.nprim, granules := fld d.rctl 8 4 + 1, blend := fld d.rctl 6 2, coarse := 2 ^ fld d.rctl 4 2,
    cull := d.rctl.getLsbD 3, surf := su, kernel := d.kernel, entry := d.entry, sx0 := d.sx0, sy0 := d.sy0, sx1 := d.sx1,
    sy1 := d.sy1, doneVa := d.done, stamp := 0, wrote := false, tris := [], binned := false, tiles := [] }

/-- Step 3: the status, the command queued when it is 0. -/
def kickRaster (s : State) (uid : Nat) (m : LaneMask) (dst : Reg) (d : RasterDesc) (su : Surface) : Out :=
  match gang? s uid with
  | none => .next s
  | some g =>
    let st := if rasterMalformed d then 1 else if 4 ≤ (coreOf s g.core).raster.queue.length then 2 else 0
    let s := if st = 0 then
        modCore s g.core fun c => { c with raster := { c.raster with queue := c.raster.queue ++ [rasterCmd s g d su] } }
      else s
    doneBoundary (releaseEvent (modGang s uid fun g => putAll g m dst (BitVec.ofNat 32 st)) uid) uid

/-- Step 2: the command and its target, as ordering-boundary reads. -/
def readRaster (v : View) (s : State) (va : DWord) : Acc (RasterDesc × Surface) :=
  (vbytes .load v s va 64).bind fun s bs =>
    let d := parseRaster bs
    (readSurface v s d.target).map fun su => (d, su)

/-- A trap of RAST.KICK: its operand is uniform. -/
def kickTrap (s : State) (c : BitVec 6) (i : Word) (a : DWord) : Out :=
  raise s { cause := c, info := i, addr := some a, lanes := none }

def execRastKick (d a : Reg) (s : State) : Out :=
  boundary 2 false s fun s g it =>
    let m := execMask g it
    let va := uniformPair g m a.toNat
    let v := { View.committed (ctxOf s g) (regionOf s g) with who := some (.gang it.gang it.split) }
    if va.toNat % 64 ≠ 0 then kickTrap s cMISALIGN (subInfo 1) va
    else match readRaster v s va with
      | .wait t => stay (keepAsks s t) it
      | .bad t c i x => kickTrap (keepAsks s t) c i x
      | .own t x => match failedHand s v.ctx g.ownerFail x with
        | some sub => kickTrap (keepAsks s t) cOWNER (subInfo sub) x
        | none => awaitHandover (keepAsks s t) it v.ctx x
      | .ok s r => kickRaster s it.gang m d r.1 r.2

/-! ## The unit's own faults (R328) -/

def modRaster (s : State) (core : Nat) (f : Raster → Raster) : State := modCore s core fun c => { c with raster := f c.raster }

def rasterHead (s : State) (core : Nat) : Option RasterCmd := (coreOf s core).raster.queue.head?

def modCmd (s : State) (core : Nat) (f : RasterCmd → RasterCmd) : State :=
  modRaster s core fun r => { r with queue := r.queue.modify 0 f }

/-- The command leaves the unit. -/
def endRaster (s : State) (core : Nat) : State :=
  doneAsking (modRaster s core fun r =>
    { r with queue := r.queue.drop 1, phase := .idle, tile := 0, tileMem := [], touched := [], frags := [], loaded := false,
             ownerFail := [] }) (.unit core)

/-- A fault of the unit ends the command and goes to the kicking gang, or, when that has ended, to the fault domain of its
region; a cohort with a command in a unit does not retire (R229). -/
def rasterFault (s : State) (cmd : RasterCmd) (t : Trap) : State := queueAsync (endRaster s cmd.core) cmd.gang t

/-- A hand-over that the unit needs: a failed one is its fault, else it waits (R35). -/
def rasterOwn (s : State) (cmd : RasterCmd) (va : DWord) : State :=
  match failedHand s cmd.ctx (coreOf s cmd.core).raster.ownerFail va with
  | some sub => rasterFault s cmd { cause := cOWNER, info := subInfo sub, addr := some va, lanes := none }
  | none => requestHandover s cmd.ctx va fun r => { r with units := (cmd.core :: r.units).eraseDups }

/-- Go on with a value of the unit's reads, or end, or wait with the requests that issued. -/
def withAcc {α : Type} (s0 : State) (cmd : RasterCmd) (x : Acc α) (k : State → α → State) : State :=
  match x with
  | .ok s v => k s v
  | .bad s c i a => rasterFault (keepAsks s0 s) cmd { cause := c, info := i, addr := some a, lanes := none }
  | .own s a => rasterOwn (keepAsks s0 s) cmd a
  | .wait s => keepAsks s0 s

/-! ## Vertices, area and coverage (R323) -/

abbrev Tri := Nat × List Int × List Word × Bool

/-- X := RN(x × 256); none for a NaN or an |x| of 2^15 or more. -/
def fixCoord (w : Word) : Option Int :=
  match fdec fp32 w.toNat with
  | .fin neg m e =>
    if (if 0 ≤ e then m * 2 ^ e.toNat else m / 2 ^ (-e).toNat) < 2 ^ 15 then
      let r := (toIntegral .rn neg m (e + 8)).1
      some (if neg then -(r : Int) else r)
    else none
  | _ => none

/-- e(A, B, P). -/
def edge (ax ay bx by' px py : Int) : Int := (bx - ax) * (py - ay) - (by' - ay) * (px - ax)

def Tri.at (t : Tri) (k : Nat) : Int := t.2.1.getD k 0

/-- E0, E1 and E2 at a point, negated where the triangle is (R323, step 2). -/
def edges (t : Tri) (px py : Int) : List Int :=
  let e (a b : Nat) : Int := edge (t.at (2 * a)) (t.at (2 * a + 1)) (t.at (2 * b)) (t.at (2 * b + 1)) px py
  let l := [e 1 2, e 2 0, e 0 1]
  if t.2.2.2 then l.map (- ·) else l

def area (t : Tri) : Int := (edges t 0 0).foldl (· + ·) 0

/-- The edge of Ei is a tie edge (R323, step 3). DEDUCED: negation turns the run of the edge round, so that two triangles on
opposite sides of an edge cover a centre on it once (log 45). -/
def tieEdge (t : Tri) (i : Nat) : Bool :=
  let a := (i + 1) % 3
  let b := (i + 2) % 3
  let run (x y : Int) : Int := if t.2.2.2 then x - y else y - x
  let dx := run (t.at (2 * a)) (t.at (2 * b))
  let dy := run (t.at (2 * a + 1)) (t.at (2 * b + 1))
  decide (0 < dy) || (dy == 0 && decide (dx < 0))

/-- Pixel (x, y) is covered. -/
def covered (t : Tri) (x y : Nat) : Bool :=
  let es := edges t (256 * x + 128) (256 * y + 128)
  (List.range 3).all fun i => decide (0 < es.getD i 0) || (es.getD i 0 == 0 && tieEdge t i)

/-- Scissor, intersected with the extent (R321). -/
def drawn (c : RasterCmd) (x y : Nat) : Bool :=
  decide (c.sx0 ≤ x) && decide (x < c.sx1) && decide (c.sy0 ≤ y) && decide (y < c.sy1) && decide (x < c.surf.d.width)
    && decide (y < c.surf.d.height)

/-- A triangle from its three vertices, when it is not discarded. -/
def mkTri (cull : Bool) (p : Nat) (bs : List Byte) : Option Tri :=
  let xy := (List.range 3).flatMap fun v => [wordAt bs (16 * v), wordAt bs (16 * v + 4)]
  let attrs := (List.range 3).flatMap fun v => [wordAt bs (16 * v + 8), wordAt bs (16 * v + 12)]
  if xy.any fun w => (fixCoord w).isNone then none
  else
    let t : Tri := (p, xy.map fun w => (fixCoord w).getD 0, attrs, false)
    let ar := area t
    if ar = 0 ∨ (ar < 0 ∧ cull = true) then none else some (t.1, t.2.1, t.2.2.1, decide (ar < 0))

def tilesAcross (c : RasterCmd) : Nat := (c.surf.d.width + 31) / 32
def tilesDown (c : RasterCmd) : Nat := (c.surf.d.height + 31) / 32

/-- Covered and drawn pixels of a triangle in a block. -/
def blockPixels (c : RasterCmd) (t : Tri) (bx by' : Nat) : List (Nat × Nat) :=
  ((List.range 16).map fun m => (4 * bx + m % 4, 4 * by' + m / 4)).filter fun p => drawn c p.1 p.2 && covered t p.1 p.2

/-- Blocks of a tile. -/
def tileBlocks (c : RasterCmd) (tile : Nat) : List (Nat × Nat) :=
  (List.range 64).map fun k => (8 * (tile % tilesAcross c) + k % 8, 8 * (tile / tilesAcross c) + k / 8)

/-- The (triangle, block) pairs of a tile with a covered pixel, in ascending triangle index (R324). -/
def tileFrags (c : RasterCmd) (tile : Nat) : List Fragment :=
  c.tris.flatMap fun t => (tileBlocks c tile).filterMap fun b =>
    let px := blockPixels c t b.1 b.2
    if px.isEmpty then none
    else some { tri := t.1, block := b.2 * 65536 + b.1, pixels := px, grid := none, out := none, floor := 0, blended := false }

/-- The next tile begins, or the command is done. -/
def nextTile (s : State) (core : Nat) : State :=
  match rasterHead s core with
  | none => s
  | some c => match c.tiles with
    | [] => modRaster s core fun r => { r with phase := .done, frags := [], tileMem := [], touched := [], loaded := false }
    | t :: rest =>
      let s := modCmd s core fun c => { c with tiles := rest }
      modRaster s core fun r =>
        { r with phase := .shading, tile := t, frags := tileFrags c t, tileMem := [], touched := [], loaded := false }

/-- The vertices of one triangle, as untracked reads. -/
def readTri (v : View) (c : RasterCmd) (s : State) (p : Nat) : Acc (Option Tri) :=
  (vbytes .load v s (c.vtx + BitVec.ofNat 64 (48 * p)) 48).map (mkTri c.cull p)

def unitView (c : RasterCmd) : View := { View.committed c.ctx c.region with who := some (.unit c.core) }

/-- RASTER_BINNING (R323). -/
def execRasterBinning (core : Nat) (s : State) : Out :=
  match rasterHead s core with
  | none => .next s
  | some c =>
    if c.binned then .next s
    else .next (withAcc s c (accList (readTri (unitView c) c) s (List.range c.nprim)) fun s ts =>
      let c := { c with tris := ts.filterMap id, binned := true }
      let tiles := (List.range (tilesAcross c * tilesDown c)).filter fun t => !(tileFrags c t).isEmpty
      nextTile (modCmd (doneAsking s (.unit core)) core fun _ => { c with tiles }) core)

/-! ## Fragment gangs (R324, R325) -/

/-- The lane of a pixel's group, of width k. -/
def groupOf (k x y : Nat) : Nat := x % 4 / k + 4 / k * (y % 4 / k)

/-- RN(Σ Ei × a[Vi] / ar), with the attributes as they are; an attribute that is not finite follows the sum's own rules
(log 40). -/
def interpolate (es : List Int) (ar : Int) (as : List FVal) : Word :=
  let fv (x : Int) : FVal := .fin (decide (x < 0)) x.natAbs 0
  if as.all fun a => !a.isNan && !a.isInf then
    let (m, e) := sumFin ((es.zip as).filterMap fun q => prodOf [fv q.1, q.2])
    BitVec.ofNat 32 (fdiv fp32 .rn (.fin (decide (m < 0)) m.natAbs e) (fv ar)).1
  else BitVec.ofNat 32 (sumProd fp32 .rn false ((es.zip as).map fun q => [fv q.1, q.2])).1

/-- The registers v0 to v3 of lane q of a fragment gang. -/
def fragRegs (c : RasterCmd) (t : Tri) (bx by' q : Nat) : List (Nat × Word) :=
  let k := c.coarse
  let px := 4 * bx + k * (q % (4 / k))
  let py := 4 * by' + k * (q / (4 / k))
  let es := edges t (256 * px + 128 * k) (256 * py + 128 * k)
  let attr (j : Nat) : Word :=
    interpolate es (area t) ((List.range 3).map fun v => fdec fp32 (t.2.2.1.getD (2 * v + j) 0).toNat)
  [(q, BitVec.ofNat 32 (py * 65536 + px)), (32 + q, attr 0), (64 + q, attr 1), (96 + q, BitVec.ofNat 32 t.1)]

/-- The grid of a fragment's one-workgroup cohort. -/
def fragGrid (s : State) (c : RasterCmd) (f : Fragment) (t : Tri) : Grid :=
  let qs := (f.pixels.map fun p => groupOf c.coarse p.1 p.2).eraseDups
  { uid := s.nextUid, ctx := c.ctx, region := c.region, codeBase := c.kernel, entry := c.entry, wgs := 1,
    prot := heldProt s c.region, pol := heldPol s c.region, lmode := .measured, lease := 0, granules := c.granules,
    localBytes := 0, dims := (1, 1, 1), wgdim := (16, 1, 1), args := 0, doneVa := 0, device := false, launcher := c.region,
    launchFloor := c.floor, doneFail := none, placed := 0, retired := 0, stamp := 0, raster := some (c.core, f.block, f.tri),
    masks := maskOf qs,
    laneRegs := (qs.flatMap fun q => fragRegs c t (f.block % 65536) (f.block / 65536) q).foldl
      (fun l r => putK 0#32 r.1 r.2 l) [] }

/-- FRAGMENT_GANG_LAUNCH (R324): the next fragment of the tile is queued in the kicking gang's region. -/
def execFragmentGangLaunch (core : Nat) (s : State) : Out :=
  match rasterHead s core, (coreOf s core).raster.phase with
  | some c, .shading =>
    let fs := (coreOf s core).raster.frags
    match (List.range fs.length).find? fun i => ((fs[i]?).map fun f => f.grid.isNone).getD false with
    | none => .next s
    | some i => match fs[i]? with
      | none => .next s
      | some f => match c.tris.find? fun t => t.1 == f.tri with
        | none => .next s
        | some t =>
          let gr := fragGrid s c f t
          let s := queueGrid s gr
          .next (modRaster s core fun r => { r with frags := r.frags.modify i fun f => { f with grid := some gr.uid } })
  | _, _ => .next s

/-! ## Blending (R326) -/

/-- The outputs and the floor of a fragment whose gang has ended. -/
def fragEnd (s : State) (f : Fragment) : Option (List (Nat × Nat × Word) × Nat) :=
  match f.out with
  | some o => some (o, f.floor)
  | none => match s.gangs.find? fun g => f.grid.isSome && ((cohortOf s g).map (·.grid)) == f.grid with
    | some g => if g.ended then some (g.outputs, g.floor) else none
    | none => none

def tileKey (c x y : Nat) : Nat := c * 1024 + y % 32 * 32 + x % 32

/-- The tile's blocks as committed state decodes: read-in (R327). -/
def readIn (s : State) (c : RasterCmd) (tile : Nat) : Acc (List (Nat × Nat)) :=
  let d := c.surf.d
  let bs := ((tileBlocks c tile).filter fun b => decide (4 * b.1 < d.width) && decide (4 * b.2 < d.height)).flatMap fun b =>
    (List.range d.chans).map fun ch => (ch, b.1, b.2)
  (accList (fun s (b : Nat × Nat × Nat) =>
    (blockAt (unitView c) s c.surf b.1 b.2.1 b.2.2).map fun p =>
      (List.range 16).map fun m => (tileKey b.1 (4 * b.2.1 + m % 4) (4 * b.2.2 + m / 4), (p.getD m 0).toNat)) s bs).map List.flatten

/-- The new sample. -/
def blendSample (mode bits old : Nat) (o : Word) : Nat :=
  let top := 2 ^ bits - 1
  match mode with
  | 0 => min o.toNat top
  | 1 => min (old + o.toNat) top
  | _ => max old (min o.toNat top)

/-- One fragment into tile memory: the samples and the pixels blended. -/
def blendFrag (c : RasterCmd) (f : Fragment) (out : List (Nat × Nat × Word)) (r : Raster) : Raster :=
  f.pixels.foldl (fun r p =>
    let q := groupOf c.coarse p.1 p.2
    let os := out.filter fun o => o.1 == q && decide (o.2.1 < c.surf.d.chans)
    if os.isEmpty then r
    else
      { r with touched := ((p.2 * 65536 + p.1) :: r.touched).eraseDups,
               tileMem := os.foldl (fun m o =>
                 let k := tileKey o.2.1 p.1 p.2
                 setK k (blendSample c.blend c.surf.d.bits (readK 0 k m) o.2.2) m) r.tileMem }) r

/-- The first fragment whose turn it is: its gang has ended, and every lower triangle of its block has blended (R326). -/
def blendNext (s : State) (fs : List Fragment) : Option (Nat × Fragment × List (Nat × Nat × Word) × Nat) :=
  (List.range fs.length).findSome? fun i => match fs[i]? with
    | none => none
    | some f =>
      if f.blended || fs.any fun h => h.block == f.block && decide (h.tri < f.tri) && !h.blended then none
      else (fragEnd s f).map fun o => (i, f, o.1, o.2)

/-- FRAGMENT_BLEND (R326, R327): read-in before the tile's first blend. -/
def execFragmentBlend (core : Nat) (s : State) : Out :=
  match rasterHead s core with
  | none => .next s
  | some c =>
    let r := (coreOf s core).raster
    match blendNext s r.frags with
    | none => .next s
    | some (i, f, out, floor) =>
      if !r.loaded then
        .next (withAcc s c (readIn s c r.tile) fun s m => modRaster (doneAsking s (.unit core)) core fun r =>
          { r with tileMem := m.foldl (fun l p => setK p.1 p.2 l) [], loaded := true })
      else
        let s := modCmd s core fun c => { c with stamp := max c.stamp floor, wrote := true }
        .next (modRaster s core fun r =>
          let r := blendFrag c f out r
          { r with frags := r.frags.modify i fun f => { f with blended := true, out := some out } })

/-! ## Write-back (R327) -/

/-- Blocks with a blended pixel, in every channel. -/
def dirtyBlocks (c : RasterCmd) (touched : List Nat) : List (Nat × Nat × Nat) :=
  ((touched.map fun p => (p % 65536 / 4, p / 65536 / 4)).eraseDups).flatMap fun b =>
    (List.range c.surf.d.chans).map fun ch => (ch, b.1, b.2)

/-- The pin of one block, its spill entry reserved; its writes are the blended pixels. -/
def tilePin (c : RasterCmd) (r : Raster) (s : State) (b : Nat × Nat × Nat) : Acc Pin :=
  let (ch, bx, by') := b
  let d := c.surf.d
  let v := unitView c
  (blockAt v s c.surf ch bx by').bind fun s _ => (predsAt v s c.surf ch bx by').bind fun s _ =>
    (vcheck (.surf 1 true) v s (slotVA d ch bx by')).bind fun s x =>
      (pinPages v s d ch bx by').bind fun s pages =>
        (reserveEntry v s d (slotVA d ch bx by')).map fun arena =>
          let ms := (List.range 16).filter fun m => r.touched.contains ((4 * by' + m / 4) * 65536 + 4 * bx + m % 4)
          ⟨c.surf, ch, bx, by', x.pa, arena, pages,
            ms.map fun m => (m, readK 0 (tileKey ch (4 * bx + m % 4) (4 * by' + m / 4)) r.tileMem)⟩

/-- Reserve for every block; of a failure nothing is kept (R327). -/
def tilePins (c : RasterCmd) (r : Raster) : State → List (Nat × Nat × Nat) → List Pin → Acc (List Pin)
  | s, [], done => .ok s done
  | s, b :: bs, done => (tilePin c r s b).bind fun s p => tilePins c r s bs (done ++ [p])

/-- The blended pixels in one engine span; none while the favoured span would be a victim (R77). -/
def writeTile (s : State) (c : RasterCmd) (pins : List Pin) : Option (State × Nat) :=
  let samples := pins.flatMap fun p => p.writes.map fun w => (⟨p.slot, w.1⟩ : Sample)
  let (s, form) := reencode s c.ctx c.region pins []
  engineCommit s c.region c.floor c.core [] samples form (BitVec.ofNat 32 (c.core * 256 + c.gangid)) fun _ s => s

/-- The tile is ready: every fragment has been launched and has blended. -/
def tileEnded (r : Raster) : Bool := r.frags.all (·.blended)

/-- The write-back of the tile. -/
def writeBack (s : State) (core : Nat) (c : RasterCmd) : State :=
  let r := (coreOf s core).raster
  if r.touched.isEmpty then nextTile s core
  else withAcc s c (tilePins c r s (dirtyBlocks c r.touched) []) fun t pins =>
    match writeTile t c pins with
    | none => keepAsks s t
    | some (t, csn) =>
      nextTile (modCmd (doneAsking t (.unit core)) core fun c => { c with stamp := max c.stamp (csnClock csn), wrote := true }) core

/-- RASTER_DONE_ADD (R327): the add at DONE, and the command leaves the unit. -/
def finishRaster (s : State) (core : Nat) (c : RasterCmd) : State :=
  if c.doneVa = 0 then endRaster s core
  else
    let sub := failedHand s c.ctx (coreOf s core).raster.ownerFail c.doneVa
    match completionAdd s (.unit core) c.ctx c.region c.doneVa (if c.wrote then c.stamp else c.floor) sub with
    | .done t => endRaster t core
    | .wait s => s
    | .own => requestHandover s c.ctx c.doneVa fun r => { r with units := (core :: r.units).eraseDups }
    | .fault t => match gang? s c.gang with
      | some g => toDomain (endRaster s core) g t none
      | none => endRaster s core

/-- TILE_WRITE_BACK (R327). -/
def execTileWriteBack (core : Nat) (s : State) : Out :=
  match rasterHead s core with
  | none => .next s
  | some c => match (coreOf s core).raster.phase with
    | .idle => .next s
    | .done => .next (finishRaster s core c)
    | .shading => .next (if tileEnded (coreOf s core).raster then writeBack s core c else s)

end Sys2Proof.Machine
end

