-- ==== Sys2Proof/Machine/Tex.lean ====
section
/-! DEFINITION. TEX, major 0x31 (R178, R179, R318 to R320). -/

namespace Sys2Proof.Machine

/-! ## The descriptor (R318) -/

/-- A texture descriptor; `surf` for SRC = 1. -/
structure TexDesc where
  va : DWord
  base : DWord
  levels : Nat
  addrU : Nat
  addrV : Nat
  filt : Nat
  src : Bool
  nch : Nat
  tfmt : Nat
  w : Nat
  h : Nat
  loff : List Nat
  surf : Option Surface
deriving DecidableEq, Repr

def parseTex (va : DWord) (bs : List Byte) : TexDesc :=
  let t := wordAt bs 8
  let e := wordAt bs 12
  { va, base := dwordAt bs 0, levels := fld t 20 4, addrU := fld t 18 2, addrV := fld t 16 2, filt := fld t 14 2,
    src := t.getLsbD 13, nch := fld t 11 2, tfmt := fld t 8 3, w := fld e 0 16 + 1, h := fld e 16 16 + 1,
    loff := (List.range 12).map fun l => natAt bs (16 + 4 * l) 4, surf := none }

/-- Malformed on its own fields. -/
def texMalformed (d : TexDesc) (bs : List Byte) : Bool :=
  let t := wordAt bs 8
  fld t 24 8 != 0 || fld t 0 8 != 0 || decide (11 < d.levels) || d.filt == 3 || decide (3 < d.tfmt)
    || (d.src && (d.tfmt != 0 || d.levels != 0))
    || decide (Nat.log2 (max d.w d.h) < d.levels)
    || (List.range 12).any fun l => decide (d.levels < l) && d.loff.getD l 0 != 0

def surfFits (d : TexDesc) (su : Surface) : Bool :=
  su.d.chans == d.nch + 1 && su.d.width == d.w && su.d.height == d.h

def texBad (s : State) (va : DWord) : Acc TexDesc := .bad s cPERM (subInfo 0x1C) va

/-- The descriptor at an address, with the surface that it names. -/
def readTex (v : View) (s : State) (va : DWord) : Acc TexDesc :=
  if va.toNat % 64 ≠ 0 then .bad s cMISALIGN (subInfo 1) va
  else (vbytes .load v s va 64).bind fun s bs =>
    let d := parseTex va bs
    if texMalformed d bs then texBad s va
    else if !d.src then .ok s d
    else (readSurface v s d.base).bind fun s su =>
      if surfFits d su then .ok s { d with surf := some su } else texBad s va

/-- Bytes of one component (R318). -/
def texSize (d : TexDesc) : Nat := match d.tfmt with
  | 0 => 1 | 3 => 4 | _ => 2

def levelW (d : TexDesc) (l : Nat) : Nat := max 1 (d.w / 2 ^ l)
def levelH (d : TexDesc) (l : Nat) : Nat := max 1 (d.h / 2 ^ l)

/-- The address of component 0 of a texel. -/
def texelVa (d : TexDesc) (l i j : Nat) : DWord :=
  let n := (d.nch + 1) * texSize d
  let pitch := (levelW d l * n + 15) / 16 * 16
  d.base + BitVec.ofNat 64 (128 * d.loff.getD l 0 + j * pitch + i * n)

/-- The value of a component, and D of R178. -/
def texVal (d : TexDesc) (bits : Nat) : FVal :=
  if d.src then .fin false bits 0
  else match d.tfmt with
    | 2 => fdec fp16 bits
    | 3 => fdec fp32 bits
    | _ => .fin false bits 0

def texD (d : TexDesc) : Nat :=
  match d.surf with
  | some su => 2 ^ su.d.bits - 1
  | none => match d.tfmt with
    | 0 => 255 | 1 => 65535 | _ => 1

/-! ## Levels, coordinates and weights (R178, R179, R319) -/

/-- RN(x × n − h/2, scaled by 256), saturated to 32 bits; NaN gives 0. -/
def texCoord (x : Word) (n : Nat) (half : Bool) : Int :=
  match fdec fp32 x.toNat with
  | .nan _ => 0
  | .inf neg => if neg then -2 ^ 31 else 2 ^ 31 - 1
  | .fin neg m e =>
    -- 256·(x·n − 1/2) = 256·n·x − 128, exactly
    let (v, q) := sumFin [.fin neg (m * n) (e + 8), .fin true (if half then 128 else 0) 0]
    let (k, _) := roundAt .rn (decide (v < 0)) v.natAbs q 0 false
    clampI (-2 ^ 31) (2 ^ 31 - 1) (if v < 0 then -(k : Int) else k)

/-- The level and g: L clamped to 0 to LEVELS (R319), g rounded to 256ths, which advances the level of a trilinear texture
alone (R179). -/
def texLevel (d : TexDesc) (lod : Word) : Nat × Nat :=
  match fdec fp32 lod.toNat with
  | .nan _ => (0, 0)
  | .inf neg => if neg then (0, 0) else (d.levels, 0)
  | .fin neg m e =>
    if neg || m = 0 then (0, 0)
    else
      let n := if 0 ≤ e then m * 2 ^ e.toNat else m / 2 ^ (-e).toNat
      if d.levels ≤ n then (d.levels, 0)
      else
        let g := if 0 ≤ e then 0 else (roundAt .rn false (m % 2 ^ (-e).toNat) (e + 8) 0 false).1
        if g = 256 ∧ d.filt = 2 then (n + 1, 0) else (n, g)

/-- An axis index through its mode; none is a border texel. -/
def axisMode (mode : Nat) (n : Nat) (i : Int) : Option Nat :=
  match mode with
  | 0 => some (clampI 0 ((n : Int) - 1) i).toNat
  | 1 => some (i.emod n).toNat
  | 2 => let m := (i.emod (2 * n)).toNat; some (if m < n then m else 2 * n - 1 - m)
  | _ => if 0 ≤ i ∧ i < n then some i.toNat else none

/-- Indices along an axis with their weights. -/
def axisTaps (nearest : Bool) (x : Word) (n mode : Nat) : List (Option Nat × Nat) :=
  if nearest then [(axisMode mode n (texCoord x n false / 256), 256)]
  else
    let s := texCoord x n true
    let f := (s.emod 256).toNat
    [(axisMode mode n (s.fdiv 256), 256 - f), (axisMode mode n (s.fdiv 256 + 1), f)]

/-- A texel that takes part: level, indices (none at a border) and weight. -/
structure TexRef where
  level : Nat
  ij : Option (Nat × Nat)
  w : Nat
deriving DecidableEq, Repr

/-- The texels of one level with nonzero weight, their weights scaled by k. -/
def levelTaps (d : TexDesc) (u v : Word) (l k : Nat) : List TexRef :=
  let us := axisTaps (d.filt == 0) u (levelW d l) d.addrU
  let vs := axisTaps (d.filt == 0) v (levelH d l) d.addrV
  (vs.flatMap fun b => us.map fun a =>
    (⟨l, a.1.bind fun i => b.1.map fun j => (i, j), k * a.2 * b.2⟩ : TexRef)).filter fun t => t.w != 0

/-- All texels of a lane. -/
def texTaps (d : TexDesc) (u v lod : Word) : List TexRef :=
  let (l, g) := texLevel d lod
  if d.filt = 2 then levelTaps d u v l (256 - g) ++ levelTaps d u v (l + 1) g else levelTaps d u v l 1

/-- What the weights sum to. -/
def texScale (d : TexDesc) : Nat := if d.filt = 2 then 256 * 65536 else 65536

/-- One rounding of an exact sum over a denominator (R178, R179); an exact zero is +0 (log 95). -/
def texRound (terms : List (Nat × FVal)) (den : Nat) : Word :=
  let vs := terms.map fun t => match t.2 with
    | .fin n m e => FVal.fin n (t.1 * m) e
    | v => v
  let pinf := vs.any fun v => v.isInf && !v.neg?
  let ninf := vs.any fun v => v.isInf && v.neg?
  BitVec.ofNat 32 <|
    if vs.any (·.isNan) || (pinf && ninf) then fp32.nan
    else if pinf then fp32.infBits
    else if ninf then signed fp32 true fp32.infBits
    else
      let (v, e) := sumFin vs
      if v = 0 then 0
      else (fdiv fp32 .rn (.fin (decide (v < 0)) v.natAbs e) (.fin false den 0)).1

/-! ## Reading texels (R320) -/

/-- The components of a texel, and the address of its first piece that arrived poisoned. -/
abbrev Texel := List Nat × Option DWord

/-- A texel in linear memory; each piece of a line is an untracked read (R320). -/
def linearTexel (s : State) (g : Gang) (d : TexDesc) (t : TexRef) : Acc Texel :=
  match t.ij with
  | none => .ok s ((List.range (d.nch + 1)).map fun _ => 0, none)
  | some (i, j) =>
    let n := (d.nch + 1) * texSize d
    (accList (fun s (p : DWord × Nat) =>
      match laneCheck s g .load 1 p.1 with
      | .fail c info a => .bad s c info a
      | .own a => .own s a
      | .ok x => match askUntracked s ((s.iss.map fun it => Asker.gang it.gang it.split).getD (.gang g.uid 0)) g [x] with
        | (s, false) => .wait s
        | (s, true) =>
          let (s, bs, bad) := cachedRead (setAD s x false) g.uid x p.2 false
          .ok s (bs, if bad then some p.1 else none)) s (linesOf (texelVa d t.level i j) n)).map
      fun rs =>
        let bs := rs.flatMap (·.1)
        ((List.range (d.nch + 1)).map fun c => natAt bs (texSize d * c) (texSize d), rs.findSome? (·.2))

/-- Samples of a texel of a coded surface, from committed state or a decoded block that is current for untracked reads (R93). -/
def codedTexel (s : State) (g : Gang) (su : Surface) (t : TexRef) : Acc Texel :=
  match t.ij with
  | none => .ok s ((List.range su.d.chans).map fun _ => 0, none)
  | some (i, j) =>
    let g := { g with acq := untrackedAcq s g, span := { g.span with pins := [], moves := [] } }
    (accList (fun s c =>
      (loadBlock (fun e => e.lines.all fun l => decide (seenAt ((gang? s g.uid).getD g) l ≤ e.fill)) s g su c (i / 4) (j / 4)).map fun r =>
        (r.1.getD (j % 4 * 4 + i % 4) 0).toNat) s (List.range su.d.chans)).map fun l => (l, none)

def readTexel (s : State) (g : Gang) (d : TexDesc) (t : TexRef) : Acc Texel :=
  match d.surf with
  | some su => codedTexel s g su t
  | none => linearTexel s g d t

/-- The four result words of a lane, or the address of its first texel that arrived poisoned (R376). -/
def texLane (s : State) (g : Gang) (d : TexDesc) (u v lod : Word) : Acc (Except DWord (List Word)) :=
  let taps := texTaps d u v lod
  (accList (fun s t => readTexel s g d t) s taps).map fun rs =>
    match rs.findSome? (·.2) with
    | some a => .error a
    | none => .ok ((List.range 4).map fun c =>
      if d.nch < c then (if c = 3 then 0x3F800000#32 else 0#32)
      else texRound ((taps.zip rs).map fun q => (q.1.w, texVal d (q.2.1.getD c 0))) (texScale d * texD d))

/-- Every lane: the state and what each met, or the state in which the instruction waits. -/
def texLanes (g : Gang) (d : TexDesc) (coord : Nat → Word × Word × Word) :
    State → List Nat → Except State (State × List (Nat × LaneRes (Except DWord (List Word))))
  | s, [] => .ok (s, [])
  | s, i :: r =>
    let (u, v, lod) := coord i
    let rest (t : State) (x : LaneRes (Except DWord (List Word))) :=
      match texLanes g d coord t r with
      | .ok q => .ok (q.1, (i, x) :: q.2)
      | .error t => .error t
    match texLane s g d u v lod with
    | .wait t => .error t
    | .ok t x => rest t (.ok x)
    | .bad t c info a => rest t (.fail c info a)
    | .own t a => rest t (ownRes s (ctxOf s g) g.ownerFail a)

def texPerform (s0 s : State) (g : Gang) (it : Issue) (d b : Reg) (t : TexDesc) : Out :=
  let coord (i : Nat) : Word × Word × Word :=
    (getReg g b.toNat i, getReg g (b.toNat + 1) i, getReg g (b.toNat + 2) i)
  match texLanes g t coord s (lanesOf (execMask g it)) with
  | .error t => stay (keepAsks s0 t) it
  | .ok (s', rs) =>
    match laneOwn rs, laneFails rs with
    | some va, _ => awaitHandover (keepAsks s0 s') it (ctxOf s g) va
    | none, some f => raise (keepAsks s0 s') f.trap
    | none, none =>
      let oks := laneOks rs
      let s' := modGang s' it.gang fun g => oks.foldl (fun g r => match r.2 with
        | .error _ => g
        | .ok ws => ((List.range 4).zip ws).foldl (fun g q => putReg g (d.toNat + q.1) r.1 q.2) g) g
      let dead := oks.filterMap fun r => match r.2 with
        | .error a => some (r.1, a)
        | .ok _ => none
      finishLanes s0 s' it.gang dead 0x30 none 0 0 [] []

def execTex (d a b : Reg) (s : State) : Out :=
  withGang s fun g it =>
    let m := execMask g it
    match readTex { viewOf s g with pins := [], moves := [] } s (uniformPair g m a.toNat) with
    | .wait t => stay (keepAsks s t) it
    | .bad t c info x => raise (keepAsks s t) (descTrap c info x m)
    | .own t x => match failedHand s (ctxOf s g) g.ownerFail x with
      | some sub => raise (keepAsks s t) (descTrap cOWNER (subInfo sub) x m)
      | none => awaitHandover (keepAsks s t) it (ctxOf s g) x
    | .ok s' t => texPerform s s' g it d b t

end Sys2Proof.Machine
end

