-- ==== Sys2Proof/Machine/Verify.lean ====
section
/-! DEFINITION. Verification of a bank image (R338). -/

namespace Sys2Proof.Machine

def opUsesS1 (opc : Nat) : Bool := decide (2 ≤ opc) && decide (opc ≤ 0x1A)
def opUsesS2 (opc : Nat) : Bool := decide (2 ≤ opc) && decide (opc ≤ 0x15)
def opUsesS3 (opc : Nat) : Bool := opc == 0x0C || opc == 0x0D || opc == 0x15
def opIsFloat (opc : Nat) : Bool := decide (0x13 ≤ opc) && decide (opc ≤ 0x17)
def opHasDst (opc : Nat) : Bool := decide (2 ≤ opc) && decide (opc ≤ 0x19)

/-- The source codes that an operation uses. -/
def usedSources (w : DWord) : List Nat :=
  (if opUsesS1 (uOpc w) then [uS1 w] else []) ++ (if opUsesS2 (uOpc w) then [uS2 w] else [])
    ++ (if opUsesS3 (uOpc w) then [uS3 w] else [])

/-- A reserved or unused field is nonzero (code 0x02). -/
def reservedSet (w : DWord) : Bool :=
  let opc := uOpc w
  let imm : Word := uImm w
  fld w 32 8 != 0 || (!opHasDst opc && uDst w != 0) || (!opUsesS1 opc && uS1 w != 0) || (!opUsesS2 opc && uS2 w != 0)
    || (!opUsesS3 opc && uS3 w != 0) || (!opIsFloat opc && fld w 40 2 != 0)
    || (if opc = 0x1A then fld imm 5 3 != 0 || fld imm 14 18 != 0
        else opc != 0x18 && !(usedSources w).contains 11 && imm != 0)

/-- A reserved source or destination code (code 0x04). -/
def badCode (w : DWord) : Bool := (usedSources w).any (fun c => decide (12 ≤ c)) || (opHasDst (uOpc w) && decide (10 ≤ uDst w))

/-- A malformed LOOP at slot j of a spring whose END stands at slot e (code 0x06). -/
def badLoop (im : Image) (s e j : Nat) (w : DWord) : Bool :=
  uN w == 0 || decide (16 < uN w) || decide (uE w ≤ j) || decide (e ≤ uE w)
    || ((List.range (uE w - j)).any fun k => uOpc (slotWord im s (j + 1 + k)) == 0x1A || uOpc (slotWord im s (j + 1 + k)) == 1)

/-- The checks of slot j up to END, and the cycles that it adds; `skip` is one past the last slot of the loop body that it
lies in. -/
def verifySlots (im : Image) (s e : Nat) : Nat → Nat → Nat → Nat → Option (Nat × Nat)
  | 0, _, _, _ => none
  | n + 1, j, skip, sum =>
    let w := slotWord im s j
    let cost := if j < skip then 0 else if uOpc w = 0x1A then 1 + uN w * (uE w - j) else 1
    if uOpc w = 0 ∨ 0x1B ≤ uOpc w then some (0x03, j)
    else if reservedSet w then some (0x02, j)
    else if badCode w then some (0x04, j)
    else if uOpc w == 0x1A && badLoop im s e j w then some (0x06, j)
    else if 256 < sum + cost then some (0x07, j)
    else verifySlots im s e n (j + 1) (if uOpc w = 0x1A then uE w + 1 else skip) (sum + cost)

/-- The first failure of one spring: code and slot. -/
def verifySpring (im : Image) (s : Nat) : Option (Nat × Nat) :=
  let slots := (List.range 64).map (slotWord im s)
  if slots.all (· == 0#64) then
    if (List.range 16).any fun k => tableWord im s k != 0#32 then some (0x02, 0) else none
  else
    let e := (slots.takeWhile fun w => uOpc w != 1).length
    match verifySlots im s e (min 64 (e + 1)) 0 0 0 with
    | some r => some r
    | none =>
      if e = 64 then some (0x05, 63)
      else ((List.range 64).find? fun j => decide (e < j) && slotWord im s j != 0#64).map fun j => (0x05, j)

/-- The first failure of an image: code, spring, slot. -/
def verifyImage (im : Image) : Option (Nat × Nat × Nat) :=
  (List.range 64).findSome? fun s => (verifySpring im s).map fun r => (r.1, s, r.2)

end Sys2Proof.Machine
end

