-- ==== Sys2Proof/Machine/Firmware.lean ====
section
/-! DEFINITION. The firmware: the command frame (R381 to R384), and the commands (R28, R38, R144, R236, R338, R339,
R383 to R390). -/

namespace Sys2Proof.Machine

/-! ## Host memory over the host port -/

/-- n bytes of host memory at h can be reached. -/
def hostReach (s : State) (h n : Nat) : Bool := linkUp s 0 && decide (hostPA h + n ≤ 2 ^ 51)

/-- A read of host memory; none when it fails on the link, a poisoned piece included. -/
def hostRead (s : State) (h : DWord) (n : Nat) : Option (List Byte) :=
  let a := hostPA h.toNat
  if !hostReach s h.toNat n || (List.range (n / 128 + 2)).any fun k =>
      s.linePoison.contains (lineOf a + k) && decide (lineBase (lineOf a + k) < a + n)
  then none else some (rawBytes s a n)

/-- A write of host memory; none when it fails on the link. -/
def hostWrite (s : State) (h : DWord) (bs : List Byte) : Option State :=
  if hostReach s h.toNat bs.length then some (rawWrite s (hostPA h.toNat) bs) else none

/-! ## Completion (R382) -/

def ringSize (d : Device) : Nat := 2 ^ (d.logN.toNat + 4)

/-- A completion entry: TAG, STATUS with PHASE, DETAIL. -/
def completionBytes (tag : BitVec 16) (status : Nat) (phase : Bool) (detail : DWord) : List Byte :=
  bytesOf 2 tag.toNat ++ bytesOf 2 (status + if phase then 2 ^ 15 else 0) ++ bytesOf 4 0 ++ bytesOf 8 detail.toNat

/-- The command is complete: its entry in the completion ring; the submission entry is served. -/
def complete (s : State) (tag : BitVec 16) (status : Nat) (detail : DWord) : State :=
  let d := s.dev
  let n := ringSize d
  let s := (hostWrite s (d.cqBase + BitVec.ofNat 64 (16 * d.cqIndex)) (completionBytes tag status d.cqPhase detail)).getD s
  { s with dev := { s.dev with cqIndex := (d.cqIndex + 1) % n, cqPhase := if d.cqIndex + 1 < n then d.cqPhase else !d.cqPhase,
                               current := none, serving := none },
           now := s.now + 1 }

/-- What a command's own part comes to: a status with DETAIL, or the command goes on later. -/
inductive CmdRes where
  | done (s : State) (status : Nat) (detail : DWord)
  | wait (s : State)

/-- The frame of a command (R383): BOOT, the layout of its fields, its CTX, then its own checks. It does not begin while
another command is being served (R382). -/
def command (h : CmdHead) (bootOk layout inContext : Bool) (s : State) (body : State → CmdRes) : Out :=
  if s.dev.current.isSome then .next s
  else if !bootOk then .next (complete s h.tag 5 0)
  else if !layout then .next (complete s h.tag 1 0)
  else if inContext && (context? s h.ctx.toNat).isNone then .next (complete s h.tag 2 0)
  else match body s with
    | .done t status detail => .next (complete t h.tag status detail)
    | .wait t => .next t

/-- BOOT = 10, which every command but DEVICE.INIT and ATTEST needs. -/
def booted (s : State) : Bool := s.dev.boot == 2#2

def aligned (a : DWord) (n : Nat) : Bool := a.toNat % n == 0

/-- A command that acts on the device as a whole: CTX is 0 (R384). -/
def deviceCommand (h : CmdHead) (layout : Bool) (s : State) (body : State → CmdRes) : Out :=
  command h (booted s) (h.ctx == 0 && layout) false s body

def contextCommand (h : CmdHead) (layout : Bool) (s : State) (body : State → CmdRes) : Out :=
  command h (booted s) layout true s body

/-! ## DEVICE.INIT (R389) -/

/-- The connection of a bus at a position of a spare group: data connections, then the group's two spares. -/
def posConn (group p : Nat) : Nat := if p < 64 then 64 * group + p else 1024 + 2 * group + (p - 64)

/-- The walking-ones test finds that a connection fails: driven, it or another reads wrongly; or it reads wrongly while another is
driven. -/
def connFails (s : State) (reach bus conn : Nat) : Bool :=
  s.dev.busFaults.any fun f => f.1 == reach && f.2.1 == bus && (f.2.2.1 == conn || f.2.2.2 == conn)

/-- Distinct failed positions of a spare group, ascending. -/
def groupFaults (s : State) (reach bus group : Nat) : List Nat :=
  (List.range 66).filter fun p => connFails s reach bus (posConn group p)

/-- The repair register of a group: its first two faults. -/
def repairWord (l : List Nat) : BitVec 16 :=
  let half (n : Nat) : Nat := match l[n]? with
    | some p => 2 ^ 7 + p
    | none => 0
  BitVec.ofNat 16 (half 1 * 256 + half 0)

def busKey (reach bus group : Nat) : Nat := (reach * 64 + bus) * 16 + group

/-- The positions that a repair register leaves good, ascending. -/
def goodPositions (w : BitVec 16) : List Nat :=
  (List.range 66).filter fun p => !(w.getLsbD 7 && fld w 0 7 == p) && !(w.getLsbD 15 && fld w 8 7 == p)

/-- The position on which data bit j of a group travels: the j-th good one. -/
def carrier (w : BitVec 16) (j : Nat) : Nat := (goodPositions w).getD j 0

/-- A connection of a bus carries a data bit of its group, as the repair registers stand. -/
def carries (repair : List (Nat × BitVec 16)) (reach bus conn : Nat) : Bool :=
  (List.range 16).any fun g =>
    (List.range 64).any fun j => posConn g (carrier (readK 0#16 (busKey reach bus g) repair) j) == conn

/-- A third fault in a group retires the bus. -/
def busRetires (s : State) (reach bus : Nat) : Bool := (List.range 16).any fun g => decide (3 ≤ (groupFaults s reach bus g).length)

def retiredMask (s : State) (reach : Nat) : BitVec 64 :=
  (List.range 64).foldl (fun m b => if busRetires s reach b then m ||| (1#64 <<< b) else m) 0#64

def onesOf {w : Nat} (x : BitVec w) : Nat := ((List.range w).filter fun i => x.getLsbD i).length

/-- GiBs that are present: the highest is lost with each retired bus, all with more than 8. -/
def populatedMask (retired : Nat) : BitVec 64 := if 8 < retired then 0#64 else BitVec.ofNat 64 (2 ^ (64 - retired) - 1)

/-- The reserved range of a reach: its highest populated GiB (log 13). -/
def reservedRange (reach retired : Nat) : Nat × Nat := if 8 < retired then (0, 0) else (reach * 2 ^ 38 + (63 - retired) * 2 ^ 30, 2 ^ 30)

def repairTable (s : State) : List (Nat × BitVec 16) :=
  (List.range 4).flatMap fun r => (List.range 64).flatMap fun b => (List.range 16).filterMap fun g =>
    let w := repairWord (groupFaults s r b g)
    if w = 0#16 then none else some (busKey r b g, w)

/-- After repair a bus in service fails again: between connections that carry data (log 99). -/
def failsAgain (s : State) (repair : List (Nat × BitVec 16)) (masks : List (BitVec 64)) : Bool :=
  s.dev.badBuses.any fun f => decide (f.1 < 4) && decide (f.2.1 < 64) && !(masks.getD f.1 0).getLsbD f.2.1
    && carries repair f.1 f.2.1 f.2.2.1 && carries repair f.1 f.2.1 f.2.2.2

/-- The buses of a reach over which its lines are spread (R56). -/
def busesLeft (retired : BitVec 64) : List Nat := (List.range 64).filter fun b => !retired.getLsbD b

/-- The bus over which a line of a reach travels (R56): one of those in the map, by a spread that no rule states. -/
def busOf (s : State) (line : Nat) : Nat :=
  let l := s.dev.busMap.getD (reachOf (lineBase line)) []
  l.getD (Config.busSpread line l.length % l.length) 0

/-- The 32 bytes of a reach in the capacity map (R390). -/
def capacityBytes (d : Device) (reach : Nat) : List Byte :=
  let res := d.reserved.getD reach (0, 0)
  bytesOf 8 (d.populated.getD reach 0).toNat ++ bytesOf 8 (d.busRetired.getD reach 0).toNat ++ bytesOf 8 res.1 ++ bytesOf 8 res.2

def capacityMapBytes (d : Device) : List Byte := (List.range 4).flatMap (capacityBytes d)

/-- The digest of R387: the first two items, and the last two once DEVICE.INIT has completed. -/
def romDigest : BitVec 512 := Config.sha512 (Config.romImage ++ Config.fuses)
def initDigest (d : Device) : BitVec 512 :=
  Config.sha512 (Config.romImage ++ Config.fuses
    ++ ((List.range 4096).flatMap fun k => bytesOf 2 (readK 0#16 k d.repair).toNat) ++ capacityMapBytes d)

/-- Bring-up: repair registers, retired buses, the bus map, the capacity map and BOOT. -/
def initDevice (s : State) : State :=
  let masks := (List.range 4).map (retiredMask s)
  let counts := masks.map onesOf
  let failed := counts.any (fun n => decide (8 < n)) || failsAgain s (repairTable s) masks
  let d := { s.dev with repair := repairTable s, busRetired := masks, populated := counts.map populatedMask,
                        busMap := masks.map busesLeft,
                        reserved := (List.range 4).map fun r => reservedRange r (counts.getD r 0),
                        boot := if failed then 3#2 else 2#2 }
  { s with dev := { d with digest := initDigest d } }

def execDeviceInit (h : CmdHead) (s : State) : Out :=
  command h true (h.ctx == 0) false s fun s =>
    let t := initDevice s
    .done t (if t.dev.boot = 2#2 then 0 else 3) (BitVec.ofNat 64 (t.dev.busRetired.foldl (fun n m => n + onesOf m) 0))

/-! ## CONTEXT.CREATE (R384, R386) -/

def saveSlotBytes : Nat := 6 * 2 ^ 20

def execContextCreate (h : CmdHead) (root saveBase saveSize poolBase : DWord) (poolPages : Word) (s : State) : Out :=
  let layout := aligned root (2 ^ 20) && populated s root.toNat && aligned saveBase 4096 && saveSize != 0
    && aligned saveSize saveSlotBytes && aligned poolBase 4096
  deviceCommand h layout s fun s =>
    let n := s.contexts.length + 1
    let c : Context :=
      { num := n, root := root.toNat, saveBase := saveBase.toNat, saveSlots := saveSize.toNat / saveSlotBytes, used := [],
        pool := (List.range poolPages.toNat).map fun k => poolBase.toNat + 4096 * k }
    .done { s with contexts := s.contexts ++ [c] } 0 (BitVec.ofNat 64 n)

/-! ## REGION.CREATE (R143, R144, R146) -/

/-- A region from the bytes of its RCB. -/
def parseRcb (ctx pa : Nat) (bs : List Byte) : Region :=
  let ctl := wordAt bs 12
  let q := dwordAt bs 16
  { pa, ctx, parent := natAt bs 0 8, ovr := wordAt bs 8, fdom := ctl.extractLsb' 11 4, key := ctl.extractLsb' 5 6,
    prot := ctl.getLsbD 4, pol := ctl.getLsbD 3, prio := ctl.extractLsb' 0 3, lmq := fld q 16 10, regq := fld q 7 9,
    gangq := fld q 0 7, coreMask := BitVec.ofNat 256 (natAt bs 24 32),
    budget := (List.range 6).map fun k => natAt bs (56 + 4 * k) 4, trapBase := dwordAt bs 80, spring := natAt bs 88 8,
    queue := [], deficit := 0, reserved := none, suspended := false, balance := [] }

/-- Reserved fields and fields outside their ranges (R6, R143). -/
def rcbReserved (bs : List Byte) : Bool :=
  fld (wordAt bs 8) 17 15 != 0 || fld (wordAt bs 12) 15 17 != 0 || fld (dwordAt bs 16) 26 38 != 0 || !zeroAt bs 96 32
    || decide (512 < fld (dwordAt bs 16) 16 10) || decide (64 < fld (dwordAt bs 16) 7 9) || decide (64 < fld (dwordAt bs 16) 0 7)

/-- An overriding field exceeds the parent's, as held (R144). -/
def exceeds (s : State) (r : Region) : Bool :=
  let p := r.parent
  let ov (f : Field) : Bool := r.ovr.getLsbD f.bit
  let held (f : Field) (g : Region → Nat) : Nat := ((holder s p f).map g).getD 0
  (ov .prio && decide (heldPrio s p < r.prio.toNat)) || (ov .gangq && decide (heldGangq s p < r.gangq))
    || (ov .regq && decide (heldRegq s p < r.regq)) || (ov .lmq && decide (held .lmq (·.lmq) < r.lmq))
    || (ov .coreMask && (r.coreMask &&& ~~~heldMask s p) != 0#256)
    || (List.range 6).any fun k =>
        let b := held (.budget k) fun x => x.budget.getD k 0
        ov (.budget k) && b != 0 && (r.budget.getD k 0 == 0 || decide (b < r.budget.getD k 0))

/-- The RCB is malformed (R144, R146, R339). -/
def rcbBad (s : State) (r : Region) (bs : List Byte) : Bool :=
  rcbReserved bs
    || (s.regions.any fun q => decide (q.pa < r.pa + 128) && decide (r.pa < q.pa + 128))
    || (r.spring != 0 && !s.sealed.contains (r.spring, r.ctx))
    || (r.parent != 0 && match region? s r.parent with
        | none => true
        | some p => p.ctx != r.ctx || exceeds s r || s.grids.any fun g => g.region == p.pa)

def execRegionCreate (h : CmdHead) (image rcb : DWord) (s : State) : Out :=
  contextCommand h (aligned image 8 && aligned rcb 128 && populated s rcb.toNat) s fun s =>
    match hostRead s image 128 with
    | none => .done s 4 0
    | some bs =>
      let r := parseRcb h.ctx.toNat rcb.toNat bs
      if rcbBad s r bs then .done s 3 0
      else
        let r := { r with suspended := ((region? s r.parent).map (·.suspended)).getD false,
                          balance := (List.range 24).map fun k => ((r.budget.getD (k / 4) 0 : Nat) : Int) }
        if holdsWalk s ((List.range 128).map (rcb.toNat + ·)) then .wait s
        else .done (breakPins { rawWrite s rcb.toNat bs with regions := s.regions ++ [r] }) 0 0

/-! ## LAUNCH (R236) -/

/-- The descriptor through the context's page tables; none where the firmware cannot read it. -/
def readLaunch (s : State) (ctx : Nat) (va : DWord) : Option LaunchDesc :=
  match checkAccess s ctx 0 { Need.load with compareKey := false } va with
  | .ok x =>
    if x.poison || s.linePoison.contains (lineOf x.pa) then none
    else some (parseLaunch (readBytes s (pteKey x.pte) x.pa 64))
  | _ => none

def execLaunch (h : CmdHead) (desc : DWord) (s : State) : Out :=
  contextCommand h (aligned desc 64) s fun s =>
    match readLaunch s h.ctx.toNat desc with
    | none => .done s 3 5
    | some d =>
      let (t, st) := tryLaunch s h.ctx.toNat none d.region 0 d
      .done t (if st = 0 then 0 else 3) (BitVec.ofNat 64 st)

/-! ## PREEMPT and RESUME (R383, R386) -/

/-- A region of the context. -/
def regionIn (s : State) (ctx : Nat) (pa : DWord) : Option Region := (region? s pa.toNat).filter fun r => r.ctx == ctx

def setSuspended (s : State) (pa : Nat) (v : Bool) : State :=
  (regionsUnder s pa).foldl (fun s r => modRegion s r fun r => { r with suspended := v }) s

/-- The cohorts that a PREEMPT waits for are saved, or have ended. -/
def preemptDone (s : State) (p : PendingCmd) : Bool := p.cohorts.all fun u => ((cohort? s u).map fun c => !c.resident).getD true

/-- Completion of a PREEMPT: the cohorts saved. -/
def finishPreempt (s : State) (p : PendingCmd) : State :=
  let saved := p.cohorts.filter fun u => ((cohort? s u).map fun c => !c.resident).getD false
  complete s p.tag (if p.lacked then 3 else 0) (BitVec.ofNat 64 saved.length)

def execPreempt (h : CmdHead) (rcb : DWord) (s : State) : Out :=
  contextCommand h true s fun s =>
    match regionIn s h.ctx.toNat rcb with
    | none => .done s 3 0
    | some r =>
      let here := s.cohorts.filter fun c => c.resident && (regionsUnder s r.pa).contains c.region
      let s := here.foldl (fun s c => requestStop s c .requeue) (setSuspended s r.pa true)
      let stopped := here.filter fun c => (((cohort? s c.uid).map (·.stop)).getD none).isSome
      let p : PendingCmd := ⟨h.tag, stopped.map (·.uid), decide (stopped.length < here.length)⟩
      if stopped.isEmpty then .done s (if p.lacked then 3 else 0) 0
      else .wait { s with dev := { s.dev with current := some p } }

def execResume (h : CmdHead) (rcb : DWord) (s : State) : Out :=
  contextCommand h true s fun s =>
    match regionIn s h.ctx.toNat rcb with
    | none => .done s 3 0
    | some r => .done (setSuspended s r.pa false) 0 0

/-! ## PAGE.MIGRATE (R38) -/

/-- The owner that a leaf names: 0 device, 1 host, 2 + p peer p. -/
def ownerOf (s : State) (e : DWord) : Nat := if pteOwn e then 1 + ownerPort s (pteFrame e) else 0

/-- A hand-over to the device as the links stand. -/
def bringHome (s : State) (ctx : Nat) (va : DWord) (e : DWord) : Hand :=
  handOver s ctx va (if linkUp s (ownerPort s (pteFrame e)) then .ok else .failed)

/-- The frame in a peer's window to which a page of n pieces moves. -/
def peerPlace (s : State) (p n : Nat) : State × Nat :=
  let (k, s) := nextFresh s
  (s, 2 ^ 51 + p * 2 ^ 48 + 4096 * n * (Config.peerFrame k % (2 ^ 36 / n)))

/-- The page of va, whose entries are `es`, goes to the host, in place, or to a peer's window (R36). -/
def sendAway (s : State) (ctx : Nat) (va : DWord) (es : List Nat) (owner : Nat) : State :=
  if owner = 1 then giveAway s ctx va es none 0
  else
    let (s, f) := peerPlace s (owner - 2) es.length
    giveAway s ctx va es (some f) (owner - 1)

/-- A page of the host or a peer comes to the device, and goes on to its new owner (R35, R36); it waits for engine accesses
translated through its entries (R23), and for an access of the owner to whom it was just given. -/
def fetchHome (s : State) (ctx : Nat) (va : DWord) (es : List Nat) (e : DWord) (owner : Nat) : CmdRes :=
  if holdsWalk s (entryBytes es) || awaitsParty s es .partner then .wait s
  else match bringHome s ctx va e with
    | .failed sub => .done s 3 (BitVec.ofNat 64 sub)
    | .done t =>
      let t := { t with now := t.now + 1 }
      if owner = 0 then .done (breakPins (noteHanded t es .device)) 0 0 else .done (sendAway t ctx va es owner) 0 0

/-- A change of owner of the page that a level-3 leaf maps: with the new owner's link down nothing changes (log 48). -/
def migratePage (s : State) (ctx : Nat) (va : DWord) (entry : Nat) (e : DWord) (owner : Nat) : CmdRes :=
  if owner ≠ 0 ∧ linkUp s (owner - 1) = false then .done s 3 0x22
  else if pteOwn e then fetchHome s ctx va (leafEntries entry e) e owner
  else match awayReady s ctx va with
    | none => .wait s
    | some es => .done (sendAway s ctx va es owner) 0 0

def execPageMigrate (h : CmdHead) (va : DWord) (owner : Byte) (s : State) : Out :=
  contextCommand h (owner.toNat ≤ 7) s fun s =>
    match context? s h.ctx.toNat with
    | none => .done s 2 0
    | some c => if va.toNat / 2 ^ 56 ≠ 0 then .done s 3 0 else match walk s c.root va with
      | .fault _ _ => .done s 3 0
      | .leaf level entry e =>
        if ownerOf s e = owner.toNat then .done s 0 0
        else if level ≠ 3 then .done s 3 0
        else migratePage s h.ctx.toNat va entry e owner.toNat

/-! ## SPRING.BIND (R338, R339) -/

/-- The lowest place of the reach's reserved range, above the poison bitmap, that holds no sealed copy. -/
def sealPlace (s : State) (reach : Nat) : Option Nat :=
  let (base, size) := s.dev.reserved.getD reach (0, 0)
  (List.range ((size - 2 ^ 21) / 36864)).findSome? fun k =>
    let a := base + 2 ^ 21 + 36864 * k
    if s.sealed.any fun p => p.1 == a then none else some a

/-- DETAIL of a rejection. -/
def bindDetail (code spring slot : Nat) : DWord := BitVec.ofNat 64 (code * 2 ^ 16 + spring * 2 ^ 8 + slot)

def execSpringBind (h : CmdHead) (image : DWord) (s : State) : Out :=
  contextCommand h true s fun s =>
    let a := image.toNat
    if a % 4096 ≠ 0 ∨ ((List.range 9).all fun k => populated s (a + 4096 * k)) = false then .done s 3 (bindDetail 1 0 0)
    else match verifyImage (sealedImage s a) with
      | some (code, spring, slot) => .done s 3 (bindDetail code spring slot)
      | none => match sealPlace s (reachOf a) with
        | none => .done s 3 (bindDetail 1 0 0)
        | some p => .done { rawWrite s p (rawBytes s a 36864) with sealed := (p, h.ctx.toNat) :: s.sealed } 0 (BitVec.ofNat 64 p)

/-! ## KEY.LOAD (R29, R30, R388) -/

/-- Lines tagged with the slot are written back under the old key, each dirty one at the charge of the region whose line it is
(R60), and dropped. -/
def dropTagged (s : State) (slot : Nat) : State :=
  let dirty := s.llc.filter fun l => l.slot.toNat == slot && l.dirty
  let s := dirty.foldl (init := s) fun s l => charge s l.region .dram (reachOf (lineBase l.line)) 1
  { s with llc := s.llc.filter fun l => l.slot.toNat != slot }

def execKeyLoad (h : CmdHead) (slot : Byte) (keys : DWord) (s : State) : Out :=
  deviceCommand h (slot.toNat ≤ 63 && aligned keys 8) s fun s =>
    match hostRead s keys 64 with
    | none => .done s 4 0
    | some bs =>
      let pair := BitVec.ofNat 512 (natOfBytes bs)
      let t := dropTagged s slot.toNat
      .done { t with keys := if pair = 0 then delK slot.toNat t.keys else setK slot.toNat pair t.keys } 0 0

/-! ## ATTEST (R387) -/

def keyMask (s : State) : Nat := s.keys.foldl (fun m p => m + 2 ^ p.1) 0

/-- Bytes 0 to 143 of the report. -/
def reportBytes (s : State) (nonce : BitVec 256) : List Byte :=
  bytesOf 4 1 ++ bytesOf 4 0 ++ bytesOf 32 nonce.toNat ++ bytesOf 64 s.dev.digest.toNat ++ bytesOf 8 (keyMask s)
    ++ bytesOf 32 Config.publicKey.toNat

def execAttest (h : CmdHead) (buf : DWord) (nonce : BitVec 256) (s : State) : Out :=
  command h (s.dev.boot != 0#2) (h.ctx == 0 && aligned buf 8) false s fun s =>
    let r := reportBytes s nonce
    match hostWrite s buf (r ++ bytesOf 64 (Config.sign r).toNat) with
    | none => .done s 4 0
    | some t => .done t 0 0

/-! ## ERROR.QUERY (R385) -/

def recordBytes (r : ErrRec) : List Byte :=
  [r.kind, r.fdom, 0, 0] ++ bytesOf 4 r.ctx.toNat ++ bytesOf 8 r.cohort.toNat ++ bytesOf 2 r.gangid.toNat ++ bytesOf 2 r.wg.toNat
    ++ bytesOf 4 r.cause.toNat ++ bytesOf 4 r.info.toNat ++ bytesOf 4 r.lanes.toNat ++ bytesOf 8 r.pc.toNat
    ++ bytesOf 8 r.addr.toNat ++ bytesOf 8 r.count.toNat ++ bytesOf 8 0

/-- A device-wide record (R385). -/
def deviceRecord (kind : Byte) (addr count : Nat) : ErrRec :=
  { kind, fdom := 0, ctx := 0, cohort := 0, gangid := 0, wg := 0, cause := 0, info := 0, lanes := 0, pc := 0,
    addr := BitVec.ofNat 64 addr, count := BitVec.ofNat 64 count }

/-- The corrected soft errors since the last such record become one (R377, R385; log 41). -/
def noteCorrected (s : State) : State :=
  if s.corrected = 0 then s else keepRecord { s with corrected := 0 } (deviceRecord 4#8 0 s.corrected)

/-- Take up to n matching records, oldest first. -/
def takeRecords (p : ErrRec → Bool) : Nat → List ErrRec → List ErrRec × List ErrRec
  | _, [] => ([], [])
  | 0, l => ([], l)
  | n + 1, r :: rs =>
    if p r then let (a, b) := takeRecords p n rs; (r :: a, b)
    else let (a, b) := takeRecords p (n + 1) rs; (a, r :: b)

def execErrorQuery (h : CmdHead) (buf : DWord) (n : Word) (fdom : Byte) (s : State) : Out :=
  let layout := aligned buf 64 && n != 0 && decide (n.toNat ≤ 65536) && (fdom == 0xFF#8 || (h.ctx != 0 && decide (fdom.toNat ≤ 15)))
  command h (booted s) layout (h.ctx != 0) s fun s =>
    let s := if h.ctx = 0 then noteCorrected s else s
    let (taken, rest) := takeRecords (fun r => r.ctx == h.ctx && (h.ctx == 0 || fdom == 0xFF#8 || r.fdom == fdom)) n.toNat s.errors
    match hostWrite s buf (taken.flatMap recordBytes) with
    | none => .done s 4 0
    | some t => .done { t with errors := rest } 0 (BitVec.ofNat 64 taken.length)

/-! ## CAPACITY.MAP and POISON.CLEAR (R28, R390) -/

def execCapacityMap (h : CmdHead) (buf : DWord) (s : State) : Out :=
  deviceCommand h (aligned buf 8) s fun s =>
    match hostWrite s buf (capacityMapBytes s.dev) with
    | none => .done s 4 0
    | some t => .done t 0 0

/-- The page as the migration engine writes it, which no cache holds any more; spans that read or wrote it are victims (R28,
R71; log 42). -/
def clearPage (s : State) (page key : Nat) (bs : List Byte) : State :=
  let s := setPagePoison (writeBytes s key page bs) page false
  let lines := (List.range 32).map (lineOf page + ·)
  let s := forgetLines s lines
  let s := { s with linePoison := s.linePoison.filter fun l => !lines.contains l }
  let (k, s) := nextFresh s
  let stamp := maxL (s.weirClock ++ lines.map fun l => csnClock (readK 0 l s.wStamp))
  afterWrites s none ((List.range 4096).map (page + ·)) [] (boundaryCsn stamp page) ((Config.unstated k).extractLsb' 0 32)

def execPoisonClear (h : CmdHead) (page data : DWord) (key : Byte) (s : State) : Out :=
  deviceCommand h (aligned page 4096 && aligned data 8 && key.toNat ≤ 63) s fun s =>
    if !populated s page.toNat || (keyPair s key.toNat).isNone then .done s 3 0
    else
      let bytes := if data = 0 then some (List.replicate 4096 (0 : Byte)) else hostRead s data 4096
      match bytes with
      | none => .done s 4 0
      | some bs =>
        if favourBlocks s none ((List.range 4096).map (page.toNat + ·)) [] then .wait s
        else .done (clearPage s page.toNat key.toNat bs) 0 0

/-! ## Registers of the host (R381) and RESET (R387) -/

/-- SQTAIL_DOORBELL: a value at or beyond the ring size is ignored. Nothing comes over a host port that is down (R379). -/
def execSqtailDoorbell (v : Word) (s : State) : Out :=
  .next (if linkUp s 0 && decide (v.toNat < ringSize s.dev) then { s with dev := { s.dev with sqTail := v } } else s)

/-- The control word at 0x010: EN and LOGN. -/
def writeControl (d : Device) (v : Word) : Device :=
  let n : BitVec 4 := v.extractLsb' 0 4
  { d with qEn := v.getLsbD 8, logN := if d.qEn || decide (6 ≤ n.toNat) then d.logN else n }

/-- What a host read of the 32 bits at an offset of the register window gives (R381): offsets without a register read as 0. -/
def hostRegisterRead (s : State) (off : Nat) : Word :=
  let d := s.dev
  match off with
  | 0x000 => d.sqBase.extractLsb' 0 32
  | 0x004 => d.sqBase.extractLsb' 32 32
  | 0x008 => d.cqBase.extractLsb' 0 32
  | 0x00C => d.cqBase.extractLsb' 32 32
  | 0x010 => BitVec.ofNat 32 ((if d.qEn then 256 else 0) + d.logN.toNat)
  | 0x014 => d.sqTail
  | 0x018 => d.sqHead
  | 0x01C => BitVec.zeroExtend 32 d.boot
  | _ => 0

/-- HOST_REGISTER_WRITE: a write of one register of the window; other offsets and RO registers ignore it. Nothing
comes over a host port that is down (R379). -/
def execHostRegisterWrite (off : Nat) (v : DWord) (s : State) : Out :=
  let d := s.dev
  if linkUp s 0 = false then .next s
  else if off = 0 then .next { s with dev := if d.qEn then d else { d with sqBase := v } }
  else if off = 8 then .next { s with dev := if d.qEn then d else { d with cqBase := v } }
  else if off = 0x10 then .next { s with dev := writeControl d (v.extractLsb' 0 32) }
  else if off = 0x14 then execSqtailDoorbell (v.extractLsb' 0 32) s
  else .next s

/-- RESET: every register at its reset value, nothing resident, the ROM verified (R381, R387). Memory, the links and the
physical inputs stay as they are (log 43). -/
def execReset (s : State) : Out :=
  .next { State.reset with
    mem := s.mem, lineKey := s.lineKey, linePoison := s.linePoison, lent := s.lent, links := s.links,
    cores := s.cores.map fun c => (c.1, { Core.zero with temp := c.2.temp }),
    dev := { Device.reset with boot := 1, digest := romDigest, busFaults := s.dev.busFaults, badBuses := s.dev.badBuses },
    nextUid := s.nextUid, now := s.now, fresh := s.fresh, agenda := s.agenda }

end Sys2Proof.Machine
end

