-- ==== Sys2Proof/Machine/HostLink.lean ====
section
/-! DEFINITION. The links and what comes over them: link training and flit retry (R379), snoops (R380), the hand-over of
pages in both directions (R35, R36, R84), and the partners' own accesses to exposed device memory (R34). -/

namespace Sys2Proof.Machine

/-! ## Links (R379, R380) -/

/-- What R379 lets a port come up with: 64 or 32 GT/s, x16 or x8, 256-byte flits. -/
def trains (port rate width mode : Nat) : Bool :=
  decide (port ≤ 6) && (rate == 64 || rate == 32) && (width == 16 || width == 8) && mode == 256

/-- LINK_TRAINING: the port trains, or leaves the link down. -/
def execLinkTraining (port : Nat) (up : Bool) (rate width mode : Nat) (s : State) : Out :=
  if 6 < port then .next s
  else .next { s with links := setK port ⟨up && trains port rate width mode, rate, width⟩ s.links }

/-- FLIT_RETRY: the retried flit is the flit, bit for bit. -/
def execFlitRetry (port flit : Nat) (s : State) : Out :=
  match port, flit with
  | _, _ => .next s

/-- PARTNER_SNOOP: it finds no device state that must be written back (R380). -/
def execPartnerSnoop (pa : Nat) (s : State) : Out :=
  match pa with
  | _ => .next s

/-! ## Hand-over to the device (R35) -/

def handReq? (s : State) (ctx page : Nat) : Option HandReq := s.handReqs.find? fun r => r.ctx == ctx && r.page == page

def dropReq (s : State) (ctx page : Nat) : State :=
  doneAsking { s with handReqs := s.handReqs.filter fun r => !(r.ctx == ctx && r.page == page) } (.move ctx page)

/-- The accesses that wait raise OWNER: gangs and raster units at their next access to the page, completion writes at
theirs, copy commands at once. -/
def failHandover (s : State) (r : HandReq) (sub : Nat) : State :=
  let s := r.waiters.foldl (fun s u => modGang s u fun g => { g with ownerFail := setK r.page sub g.ownerFail }) s
  let s := r.grids.foldl (fun s u => modGrid s u fun g => { g with doneFail := some sub }) s
  let s := r.units.foldl (fun s c => modRaster s c fun k => { k with ownerFail := setK r.page sub k.ownerFail }) s
  r.cmds.foldl (fun s u => match copy? s u.1 with
    | none => s
    | some c => failCommand s c sub u.2.toNat) s

/-- The region that a hand-over's link bytes are charged to: that of its first requester (R60). -/
def handRegion (s : State) (r : HandReq) : Nat :=
  match r.waiters.reverse.head?, r.cmds.reverse.head?, r.grids.reverse.head?, r.units.reverse.head? with
  | some u, _, _, _ => ((gang? s u).map (regionOf s)).getD 0
  | _, some c, _, _ => ((copy? s c.1).map (·.region)).getD 0
  | _, _, some g, _ => ((grid? s g).map (·.region)).getD 0
  | _, _, _, some c => ((rasterHead s c).map (·.region)).getD 0
  | _, _, _, _ => 0

/-- What the link does as it stands: a port that is down completes nothing (R13, R379). -/
def linkNow (s : State) (frame : Nat) (link : LinkResult) : LinkResult := if linkUp s (ownerPort s frame) then link else .failed

/-- Requests for these 64-byte pieces over a link, each of which issues or waits (R60, R61). -/
def askLink (s : State) (who : Asker) (region : Nat) (a : Activity) : List Nat → State × Bool
  | [] => (s, true)
  | p :: ps =>
    let (s, ok) := ask s who region a 0 p 1
    let (s, rest) := askLink s who region a ps
    (s, ok && rest)

/-- The migration engine's reads of a page over the link, each 64-byte piece a request of its own (R60); whether all have issued
(R61). With no frame for the page, or no link, nothing is read. -/
def askMove (s : State) (ctx page region : Nat) (e : DWord) (entries : List Nat) (link : LinkResult) : State × Bool :=
  let room := ((context? s ctx).bind fun c => poolFrame c.pool entries.length).isSome
  if isDram (pteFrame e) || link == .failed || !room then (s, true)
  else askLink s (.move ctx page) region (linkOf (pteFrame e)) ((List.range (64 * entries.length)).map (pteFrame e / 64 + ·))

/-- OWNERSHIP_HANDOVER (R35): a hand-over that some access has asked for. Its write of the leaf waits for engine accesses
that were translated through it (R23), and for an access of the partner to whom the page was just given (R36). -/
def execOwnershipHandover (ctx : Nat) (va : DWord) (link : LinkResult) (s : State) : Out :=
  match handReq? s ctx (pageKey s ctx va) with
  | none => .next s
  | some r =>
    match leafAt s ctx va with
    | none => .next (dropReq s ctx r.page)
    | some (entry, e) =>
      let es := leafEntries entry e
      let link := linkNow s (pteFrame e) link
      if !pteOwn e then .next (dropReq s ctx r.page)
      else if holdsWalk s (entryBytes es) || awaitsParty s es .partner then .next s
      else match askMove s ctx r.page (handRegion s r) e es link with
        | (t, false) => .next t
        | (s, true) => match handOver s ctx va link with
          | .failed sub => .next (dropReq (failHandover s r sub) ctx r.page)
          | .done t =>
            .next (breakPins { noteHanded (dropReq t ctx r.page) es .device with now := t.now + 1 })

/-! ## Hand-over from the device (R36, R84) -/

/-- A frame to which a page of n 4 KiB pieces may move: in a window whose port is up, aligned as the page. -/
def windowFrame (s : State) (n f : Nat) : Bool := (isHostWin f || isPeerWin f) && linkUp s (portOf f) && f % (4096 * n) == 0

/-- HANDOVER_FROM_DEVICE: it waits while `awayReady` says so. -/
def execHandoverFromDevice (ctx : Nat) (va : DWord) (moveTo : Option Nat) (s : State) : Out :=
  match awayReady s ctx va with
  | none => .next s
  | some es => if moveTo.all (windowFrame s es.length) then .next (giveAway s ctx va es moveTo 0) else .next s

/-! ## HOST_CXL_MEM_ACCESS (R23, R34, R36) -/

/-- Indices below n of the entries of a table that some listed byte lies in; an entry of unlisted bytes has V = 0. -/
def listedEntries (s : State) (table n : Nat) : List Nat :=
  (s.mem.filterMap fun c => if table ≤ c.1 ∧ c.1 < table + 8 * n then some ((c.1 - table) / 8) else none).eraseDups

/-- Virtual addresses, one for each leaf under a table, with its level and entry. -/
def leavesUnder (s : State) : Nat → Nat → Nat → Nat → List (DWord × Nat × Nat × DWord)
  | 0, _, _, _ => []
  | fuel + 1, level, table, base =>
    (listedEntries s table (if level = 0 then 2 ^ 17 else 512)).flatMap fun i =>
      let entry := table + 8 * i
      let e := pteAt s entry
      let va := base + i * 2 ^ (39 - 9 * level)
      if !pteV e || malformed level e then []
      else if pteLeaf e then [(BitVec.ofNat 64 va, level, entry, e)]
      else leavesUnder s fuel (level + 1) (pteFrame e) va

/-- A leaf at a level maps this byte. -/
def leafMaps (level : Nat) (e : DWord) (b : Nat) : Bool :=
  pteFrame e / 2 ^ pageBits level (ptePS e) == b / 2 ^ pageBits level (ptePS e)

/-- The leaves, in any context, that map one of these bytes of DRAM: context, address, level and leaf. -/
def leavesOver (s : State) (bytes : List Nat) : List (Nat × DWord × Nat × DWord) :=
  s.contexts.flatMap fun c => (leavesUnder s 4 0 c.root 0).filterMap fun l =>
    if bytes.any (leafMaps l.2.1 l.2.2.2) then some (c.num, l.1, l.2.1, l.2.2.2) else none

/-- Those of them that the device owns: context, address and level. -/
def deviceLeaves (s : State) (bytes : List Nat) : List (Nat × DWord × Nat) :=
  ((leavesOver s bytes).filter fun l => !pteOwn l.2.2.2).map fun l => (l.1, l.2.1, l.2.2.1)

/-- The agent at a port may ask for these bytes: populated DRAM outside the firmware's ranges (R339), no page of another owner
(R34), and, by a peer, pages only (R379; log 44). -/
def mayReach (s : State) (port : Nat) (bytes : List Nat) : Bool :=
  let ls := leavesOver s bytes
  bytes.all (fun b => populated s b && !inReserved s b && (port == 0 || ls.any fun l => leafMaps l.2.2.1 l.2.2.2 b))
    && ls.all fun l => !pteOwn l.2.2.2 || ownerPort s (pteFrame l.2.2.2) == port

/-- The partner has performed an access at these bytes: a page that it was handed may be handed back (R36). -/
def partnerAccess (s : State) (bytes : List Nat) : State :=
  if s.handedOver.isEmpty then s
  else { s with handedOver := s.handedOver.filter fun h =>
    !(h.2 == .partner && bytes.any fun b => pteFrame (pteAt s h.1) / 4096 ≤ b / 4096
        && decide (b / 4096 < pteFrame (pteAt s h.1) / 4096 + if ptePS (pteAt s h.1) then 16 else 1)) }

/-- The pages of the device that a partner's access needs, handed away in turn; none while one of them must stay, or lies in
a leaf that names no owner but the device (R18, R36; log 44). -/
def handAllAway (s : State) (port : Nat) : List (Nat × DWord × Nat) → Option State
  | [] => some s
  | (ctx, va, level) :: r =>
    if level ≠ 3 then none
    else if ((leafAt s ctx va).map fun l => pteOwn l.2).getD true then handAllAway s port r
    else match awayReady s ctx va with
      | none => none
      | some es => handAllAway (giveAway s ctx va es none port) port r

/-- A partner's access to device DRAM over CXL.mem: port 0 is the host's. What it may not reach stays as it is (`mayReach`). A page
that the device owns is handed over to it first (R36); a write to a page-table line waits for engine accesses translated through it
and breaks the pins that no longer hold (R23, R136). A link that is down carries nothing (R379). -/
def execHostCxlMemAccess (agent : Byte) (pa : Nat) (wr : Option (List Byte)) (len : Nat) (s : State) : Out :=
  let bytes := (List.range ((wr.map (·.length)).getD len)).map (pa + ·)
  if !linkUp s agent.toNat || !mayReach s agent.toNat bytes || (wr.isSome && holdsWalk s bytes) then .next s
  else match handAllAway s agent.toNat (deviceLeaves s bytes) with
    | none => .next s
    | some s =>
      let s := partnerAccess s bytes
      match wr with
      | none => .next s
      | some bs => .next (breakPins (clearWhole { rawWrite s pa bs with now := s.now + 1 } bytes))

end Sys2Proof.Machine
end

