-- ==== Sys2Proof/Machine/Reliab.lean ====
section
/-! DEFINITION. Errors of the storage (R377) and the delivery of queued errors between instructions (R367). -/

namespace Sys2Proof.Machine

/-! ## UNCORRECTABLE_ERROR (R377) -/

/-- The page's bitmap bit, with the device-wide record of a bit that was not yet set (R28). -/
def markPage (s : State) (pa : Nat) : State :=
  if !populated s pa || pagePoisoned s pa then s
  else keepRecord (setPagePoison s pa true) (deviceRecord 3#8 (pa / 4096 * 4096) 1)

/-- The poison flag of the line, and the bit of its page (R28, R57, R377). -/
def poisonLine (s : State) (line : Nat) : State :=
  markPage { s with linePoison := (line :: s.linePoison).eraseDups } (lineBase line)

/-- The span that holds a version in the line is rolled back and restarts (R377); a transaction by R79. -/
def loseVersion (s : State) (uid line : Nat) : State :=
  match gang? s uid with
  | none => s
  | some g =>
    if !(verLines g.span).contains line then s
    else if g.span.tx.isSome then txRestart s uid 5 none else rollback s uid

/-- A poisoned local word, until it is written whole. -/
def poisonWord (s : State) (cohort wg off : Nat) : State :=
  modWg s cohort wg fun w => { w with poison := (off / 4 * 4 :: w.poison).eraseDups }

def poisonReg (s : State) (uid reg lane : Nat) : State :=
  modGang s uid fun g =>
    if reg < g.alloc ∧ lane < 32 then { g with regPoison := ((reg * 32 + lane) :: g.regPoison).eraseDups } else g

/-- UNCORRECTABLE_ERROR, by where the error lies. -/
def execUncorrectableError (loc : ErrLoc) (s : State) : Out :=
  match loc with
  | .l1Line core line => .next (modCore s core fun c => { c with l1 := dropLines c.l1 [line] })
  | .dbcBlock core slot => .next (modCore s core fun c => { c with dbc := c.dbc.filter fun e => e.slot != slot })
  | .llcCommitted line => .next (poisonLine s line)
  | .llcVersion g line => .next (loseVersion s g line)
  | .localWord cohort wg off => .next (poisonWord s cohort wg off)
  | .register g reg lane => .next (poisonReg s g reg lane)
  | .accCell core row col =>
    .next (modCore s core fun c => { c with accPoison := ((row % 256 * 256 + col % 256) :: c.accPoison).eraseDups })
  | .wbufColumn core panel slot =>
    .next (modCore s core fun c => { c with wbufPoison := ((panel * 256 + slot % 256) :: c.wbufPoison).eraseDups })

/-- CORRECTED_SOFT_ERROR: it is counted, and changes nothing else (R377). -/
def execCorrectedSoftError (count : Nat) (s : State) : Out := .next { s with corrected := s.corrected + count }

/-! ## ASYNC_ERROR_DELIVERY (R367) -/

/-- The split at which a wait of R367 stands. -/
def waitingSplit : Wait → Option Nat
  | .barrier _ _ split => some split
  | .accWin _ split => some split
  | .grow _ split => some split
  | _ => none

/-- The gang stands where a span has ended between instructions: by a limit, by a freeze or by a hand-over (R62). -/
def endedBetween (g : Gang) : Bool := !g.span.begun && g.span.tx.isNone && decide (3 ≤ g.span.lastEnd)

/-- The split whose issue boundary a delivery between instructions takes: that of a wait, or after a span end the one that
issues next. A gang that a freeze holds receives nothing (R375). -/
def deliverySplit (g : Gang) (issuing : Option Nat) : Option Nat :=
  if g.sched.heldBy.isSome then none
  else match g.sched.wait with
    | .none => if endedBetween g then issuing.orElse fun _ => (readySplits g).head? else none
    | w => waitingSplit w

/-- ASYNC_ERROR_DELIVERY: the oldest queued error at a delivery point that stands between instructions; deliveries at
boundary instructions and RTT are part of those steps, through the same `deliverQueued`. -/
def execAsyncErrorDelivery (uid : Nat) (s : State) : Out :=
  match gang? s uid with
  | none => .next s
  | some g => match (if cohortResident s g then deliverySplit g none else none) with
    | none => .next s
    | some split => .next ((deliverQueued s uid split).getD s)

end Sys2Proof.Machine
end

