-- ==== Sys2Proof/Machine/Dispatch.lean ====
section
/-! DEFINITION. The meaning of every constructor of `Instr`. -/

namespace Sys2Proof.Machine

def exec (i : Instr) (s : State) : Host.Outcome State Fault Refusal :=
  match i with
  | .reset => Sys2Proof.Machine.execReset s
  | .linkTraining port up rate width mode => Sys2Proof.Machine.execLinkTraining port up rate width mode s
  | .sqtailDoorbell v => Sys2Proof.Machine.execSqtailDoorbell v s
  | .hostRegisterWrite off v => Sys2Proof.Machine.execHostRegisterWrite off v s
  | .deviceInit h => Sys2Proof.Machine.execDeviceInit h s
  | .contextCreate h root saveBase saveSize poolBase poolPages => Sys2Proof.Machine.execContextCreate h root saveBase saveSize poolBase poolPages s
  | .regionCreate h image rcb => Sys2Proof.Machine.execRegionCreate h image rcb s
  | .launch h desc => Sys2Proof.Machine.execLaunch h desc s
  | .preempt h rcb => Sys2Proof.Machine.execPreempt h rcb s
  | .resume h rcb => Sys2Proof.Machine.execResume h rcb s
  | .pageMigrate h va owner => Sys2Proof.Machine.execPageMigrate h va owner s
  | .springBind h image => Sys2Proof.Machine.execSpringBind h image s
  | .keyLoad h slot keys => Sys2Proof.Machine.execKeyLoad h slot keys s
  | .attest h buf nonce => Sys2Proof.Machine.execAttest h buf nonce s
  | .errorQuery h buf n fdom => Sys2Proof.Machine.execErrorQuery h buf n fdom s
  | .capacityMap h buf => Sys2Proof.Machine.execCapacityMap h buf s
  | .poisonClear h page data key => Sys2Proof.Machine.execPoisonClear h page data key s
  | .ownershipHandover ctx va link => Sys2Proof.Machine.execOwnershipHandover ctx va link s
  | .handoverFromDevice ctx va moveTo => Sys2Proof.Machine.execHandoverFromDevice ctx va moveTo s
  | .spanCommit g => Sys2Proof.Machine.execSpanCommit g s
  | .twoPhaseCommit g => Sys2Proof.Machine.execTwoPhaseCommit g s
  | .favourGrant => Sys2Proof.Machine.execFavourGrant s
  | .spanInstructionLimit g => Sys2Proof.Machine.execSpanInstructionLimit g s
  | .pathRotation g slice => Sys2Proof.Machine.execPathRotation g slice s
  | .meteringPeriod reach => Sys2Proof.Machine.execMeteringPeriod reach s
  | .copyChunk cmd => Sys2Proof.Machine.execCopyChunk cmd s
  | .followOnOffer cmd => Sys2Proof.Machine.execFollowOnOffer cmd s
  | .matrixAccept core pos => Sys2Proof.Machine.execMatrixAccept core pos s
  | .matrixComplete core pos => Sys2Proof.Machine.execMatrixComplete core pos s
  | .scaleEntryArrival core entry => Sys2Proof.Machine.execScaleEntryArrival core entry s
  | .rasterBinning core => Sys2Proof.Machine.execRasterBinning core s
  | .fragmentGangLaunch core => Sys2Proof.Machine.execFragmentGangLaunch core s
  | .fragmentBlend core => Sys2Proof.Machine.execFragmentBlend core s
  | .tileWriteBack core => Sys2Proof.Machine.execTileWriteBack core s
  | .cohortRetire cohort => Sys2Proof.Machine.execCohortRetire cohort s
  | .cohortPlacement => Sys2Proof.Machine.execCohortPlacement s
  | .growthStall core => Sys2Proof.Machine.execGrowthStall core s
  | .thermalMigration cohort => Sys2Proof.Machine.execThermalMigration cohort s
  | .preemption cohort => Sys2Proof.Machine.execPreemption cohort s
  | .cohortRestore cohort basin => Sys2Proof.Machine.execCohortRestore cohort basin s
  | .admissionDecision core => Sys2Proof.Machine.execAdmissionDecision core s
  | .gangAging g => Sys2Proof.Machine.execGangAging g s
  | .protectionEnd g => Sys2Proof.Machine.execProtectionEnd g s
  | .leaseMeasurementWindow g => Sys2Proof.Machine.execLeaseMeasurementWindow g s
  | .lostLocalityWindow core => Sys2Proof.Machine.execLostLocalityWindow core s
  | .clockCreditPeriod core => Sys2Proof.Machine.execClockCreditPeriod core s
  | .accWinGrant core => Sys2Proof.Machine.execAccWinGrant core s
  | .regsGrowGrant core part => Sys2Proof.Machine.execRegsGrowGrant core part s
  | .asyncErrorDelivery g => Sys2Proof.Machine.execAsyncErrorDelivery g s
  | .uncorrectableError loc => Sys2Proof.Machine.execUncorrectableError loc s
  | .correctedSoftError count => Sys2Proof.Machine.execCorrectedSoftError count s
  | .nop => Sys2Proof.Machine.execNop s
  | .iadd d a b => Sys2Proof.Machine.execIadd d a b s
  | .isub d a b => Sys2Proof.Machine.execIsub d a b s
  | .imul d a b => Sys2Proof.Machine.execImul d a b s
  | .imulhi d a b => Sys2Proof.Machine.execImulhi d a b s
  | .imulhiu d a b => Sys2Proof.Machine.execImulhiu d a b s
  | .imin d a b => Sys2Proof.Machine.execImin d a b s
  | .imax d a b => Sys2Proof.Machine.execImax d a b s
  | .iminu d a b => Sys2Proof.Machine.execIminu d a b s
  | .imaxu d a b => Sys2Proof.Machine.execImaxu d a b s
  | .iabs d a => Sys2Proof.Machine.execIabs d a s
  | .iadds d a b => Sys2Proof.Machine.execIadds d a b s
  | .isubs d a b => Sys2Proof.Machine.execIsubs d a b s
  | .idivu d a b => Sys2Proof.Machine.execIdivu d a b s
  | .iremu d a b => Sys2Proof.Machine.execIremu d a b s
  | .imad d a b => Sys2Proof.Machine.execImad d a b s
  | .idiv d a b => Sys2Proof.Machine.execIdiv d a b s
  | .irem d a b => Sys2Proof.Machine.execIrem d a b s
  | .iaddsu d a b => Sys2Proof.Machine.execIaddsu d a b s
  | .isubsu d a b => Sys2Proof.Machine.execIsubsu d a b s
  | .and d a b => Sys2Proof.Machine.execAnd d a b s
  | .or d a b => Sys2Proof.Machine.execOr d a b s
  | .xor d a b => Sys2Proof.Machine.execXor d a b s
  | .andn d a b => Sys2Proof.Machine.execAndn d a b s
  | .not d a => Sys2Proof.Machine.execNot d a s
  | .shl d a b => Sys2Proof.Machine.execShl d a b s
  | .shr d a b => Sys2Proof.Machine.execShr d a b s
  | .sar d a b => Sys2Proof.Machine.execSar d a b s
  | .rol d a b => Sys2Proof.Machine.execRol d a b s
  | .popc d a => Sys2Proof.Machine.execPopc d a s
  | .clz d a => Sys2Proof.Machine.execClz d a s
  | .brev d a => Sys2Proof.Machine.execBrev d a s
  | .bfe d a b => Sys2Proof.Machine.execBfe d a b s
  | .bfes d a b => Sys2Proof.Machine.execBfes d a b s
  | .bfi d a b => Sys2Proof.Machine.execBfi d a b s
  | .iadd64 d a b => Sys2Proof.Machine.execIadd64 d a b s
  | .isub64 d a b => Sys2Proof.Machine.execIsub64 d a b s
  | .imul64 d a b => Sys2Proof.Machine.execImul64 d a b s
  | .shl64 d a b => Sys2Proof.Machine.execShl64 d a b s
  | .shr64 d a b => Sys2Proof.Machine.execShr64 d a b s
  | .sar64 d a b => Sys2Proof.Machine.execSar64 d a b s
  | .imin64 d a b => Sys2Proof.Machine.execImin64 d a b s
  | .imax64 d a b => Sys2Proof.Machine.execImax64 d a b s
  | .iminu64 d a b => Sys2Proof.Machine.execIminu64 d a b s
  | .imaxu64 d a b => Sys2Proof.Machine.execImaxu64 d a b s
  | .imulw d a b => Sys2Proof.Machine.execImulw d a b s
  | .imulwu d a b => Sys2Proof.Machine.execImulwu d a b s
  | .cmpeq d a b => Sys2Proof.Machine.execCmpeq d a b s
  | .cmpne d a b => Sys2Proof.Machine.execCmpne d a b s
  | .cmplt d a b => Sys2Proof.Machine.execCmplt d a b s
  | .cmple d a b => Sys2Proof.Machine.execCmple d a b s
  | .cmpltu d a b => Sys2Proof.Machine.execCmpltu d a b s
  | .cmpleu d a b => Sys2Proof.Machine.execCmpleu d a b s
  | .cmpeq64 d a b => Sys2Proof.Machine.execCmpeq64 d a b s
  | .cmplt64 d a b => Sys2Proof.Machine.execCmplt64 d a b s
  | .cmpltu64 d a b => Sys2Proof.Machine.execCmpltu64 d a b s
  | .cmple64 d a b => Sys2Proof.Machine.execCmple64 d a b s
  | .cmpleu64 d a b => Sys2Proof.Machine.execCmpleu64 d a b s
  | .fcmpeq d a b => Sys2Proof.Machine.execFcmpeq d a b s
  | .fcmpne d a b => Sys2Proof.Machine.execFcmpne d a b s
  | .fcmplt d a b => Sys2Proof.Machine.execFcmplt d a b s
  | .fcmple d a b => Sys2Proof.Machine.execFcmple d a b s
  | .fcmpun d a b => Sys2Proof.Machine.execFcmpun d a b s
  | .dcmpeq d a b => Sys2Proof.Machine.execDcmpeq d a b s
  | .dcmpne d a b => Sys2Proof.Machine.execDcmpne d a b s
  | .dcmplt d a b => Sys2Proof.Machine.execDcmplt d a b s
  | .dcmple d a b => Sys2Proof.Machine.execDcmple d a b s
  | .dcmpun d a b => Sys2Proof.Machine.execDcmpun d a b s
  | .mov d a => Sys2Proof.Machine.execMov d a s
  | .sel d a b => Sys2Proof.Machine.execSel d a b s
  | .rdind d a => Sys2Proof.Machine.execRdind d a s
  | .wrind a b => Sys2Proof.Machine.execWrind a b s
  | .mov64 d a => Sys2Proof.Machine.execMov64 d a s
  | .shflIdx d a b => Sys2Proof.Machine.execShflIdx d a b s
  | .shflUp d a b => Sys2Proof.Machine.execShflUp d a b s
  | .shflDown d a b => Sys2Proof.Machine.execShflDown d a b s
  | .shflXor d a b => Sys2Proof.Machine.execShflXor d a b s
  | .voteBallot d a => Sys2Proof.Machine.execVoteBallot d a s
  | .voteAny d a => Sys2Proof.Machine.execVoteAny d a s
  | .voteAll d a => Sys2Proof.Machine.execVoteAll d a s
  | .elect d => Sys2Proof.Machine.execElect d s
  | .redadd d a => Sys2Proof.Machine.execRedadd d a s
  | .redmin d a => Sys2Proof.Machine.execRedmin d a s
  | .redmax d a => Sys2Proof.Machine.execRedmax d a s
  | .redminu d a => Sys2Proof.Machine.execRedminu d a s
  | .redmaxu d a => Sys2Proof.Machine.execRedmaxu d a s
  | .redand d a => Sys2Proof.Machine.execRedand d a s
  | .redor d a => Sys2Proof.Machine.execRedor d a s
  | .redxor d a => Sys2Proof.Machine.execRedxor d a s
  | .scanadd d a => Sys2Proof.Machine.execScanadd d a s
  | .fredadd d a rnd => Sys2Proof.Machine.execFredadd d a rnd s
  | .fredmin d a rnd => Sys2Proof.Machine.execFredmin d a rnd s
  | .fredmax d a rnd => Sys2Proof.Machine.execFredmax d a rnd s
  | .iaddi d a imm => Sys2Proof.Machine.execIaddi d a imm s
  | .andi d a imm => Sys2Proof.Machine.execAndi d a imm s
  | .ori d a imm => Sys2Proof.Machine.execOri d a imm s
  | .xori d a imm => Sys2Proof.Machine.execXori d a imm s
  | .shli d a imm => Sys2Proof.Machine.execShli d a imm s
  | .cmpeqi d a imm => Sys2Proof.Machine.execCmpeqi d a imm s
  | .imuli d a imm => Sys2Proof.Machine.execImuli d a imm s
  | .movi d imm => Sys2Proof.Machine.execMovi d imm s
  | .movh d imm => Sys2Proof.Machine.execMovh d imm s
  | .movpc d imm => Sys2Proof.Machine.execMovpc d imm s
  | .fadd d a b => Sys2Proof.Machine.execFadd d a b s
  | .fsub d a b => Sys2Proof.Machine.execFsub d a b s
  | .fmul d a b => Sys2Proof.Machine.execFmul d a b s
  | .ffma d a b => Sys2Proof.Machine.execFfma d a b s
  | .fnma d a b => Sys2Proof.Machine.execFnma d a b s
  | .fdiv d a b => Sys2Proof.Machine.execFdiv d a b s
  | .fsqrt d a => Sys2Proof.Machine.execFsqrt d a s
  | .fmin d a b => Sys2Proof.Machine.execFmin d a b s
  | .fmax d a b => Sys2Proof.Machine.execFmax d a b s
  | .fabs d a => Sys2Proof.Machine.execFabs d a s
  | .fneg d a => Sys2Proof.Machine.execFneg d a s
  | .frnd d a => Sys2Proof.Machine.execFrnd d a s
  | .fclass d a => Sys2Proof.Machine.execFclass d a s
  | .fscale d a b => Sys2Proof.Machine.execFscale d a b s
  | .fcopysign d a b => Sys2Proof.Machine.execFcopysign d a b s
  | .fminnum d a b => Sys2Proof.Machine.execFminnum d a b s
  | .fmaxnum d a b => Sys2Proof.Machine.execFmaxnum d a b s
  | .dadd d a b => Sys2Proof.Machine.execDadd d a b s
  | .dsub d a b => Sys2Proof.Machine.execDsub d a b s
  | .dmul d a b => Sys2Proof.Machine.execDmul d a b s
  | .dfma d a b => Sys2Proof.Machine.execDfma d a b s
  | .dnma d a b => Sys2Proof.Machine.execDnma d a b s
  | .ddiv d a b => Sys2Proof.Machine.execDdiv d a b s
  | .dsqrt d a => Sys2Proof.Machine.execDsqrt d a s
  | .dmin d a b => Sys2Proof.Machine.execDmin d a b s
  | .dmax d a b => Sys2Proof.Machine.execDmax d a b s
  | .dabs d a => Sys2Proof.Machine.execDabs d a s
  | .dneg d a => Sys2Proof.Machine.execDneg d a s
  | .drnd d a => Sys2Proof.Machine.execDrnd d a s
  | .dclass d a => Sys2Proof.Machine.execDclass d a s
  | .dscale d a b => Sys2Proof.Machine.execDscale d a b s
  | .dcopysign d a b => Sys2Proof.Machine.execDcopysign d a b s
  | .dminnum d a b => Sys2Proof.Machine.execDminnum d a b s
  | .dmaxnum d a b => Sys2Proof.Machine.execDmaxnum d a b s
  | .hadd2 d a b => Sys2Proof.Machine.execHadd2 d a b s
  | .hsub2 d a b => Sys2Proof.Machine.execHsub2 d a b s
  | .hmul2 d a b => Sys2Proof.Machine.execHmul2 d a b s
  | .hfma2 d a b => Sys2Proof.Machine.execHfma2 d a b s
  | .hmin2 d a b => Sys2Proof.Machine.execHmin2 d a b s
  | .hmax2 d a b => Sys2Proof.Machine.execHmax2 d a b s
  | .badd2 d a b => Sys2Proof.Machine.execBadd2 d a b s
  | .bsub2 d a b => Sys2Proof.Machine.execBsub2 d a b s
  | .bmul2 d a b => Sys2Proof.Machine.execBmul2 d a b s
  | .bfma2 d a b => Sys2Proof.Machine.execBfma2 d a b s
  | .bmin2 d a b => Sys2Proof.Machine.execBmin2 d a b s
  | .bmax2 d a b => Sys2Proof.Machine.execBmax2 d a b s
  | .hdot2f d a b rnd => Sys2Proof.Machine.execHdot2f d a b rnd s
  | .bdot2f d a b rnd => Sys2Proof.Machine.execBdot2f d a b rnd s
  | .frcp d a => Sys2Proof.Machine.execFrcp d a s
  | .frsqrt d a => Sys2Proof.Machine.execFrsqrt d a s
  | .fexp2 d a => Sys2Proof.Machine.execFexp2 d a s
  | .flog2 d a => Sys2Proof.Machine.execFlog2 d a s
  | .fsinpi d a => Sys2Proof.Machine.execFsinpi d a s
  | .fcospi d a => Sys2Proof.Machine.execFcospi d a s
  | .frcpA d a => Sys2Proof.Machine.execFrcpA d a s
  | .frsqrtA d a => Sys2Proof.Machine.execFrsqrtA d a s
  | .fexp2A d a => Sys2Proof.Machine.execFexp2A d a s
  | .flog2A d a => Sys2Proof.Machine.execFlog2A d a s
  | .fsinA d a => Sys2Proof.Machine.execFsinA d a s
  | .fcosA d a => Sys2Proof.Machine.execFcosA d a s
  | .ftanhA d a => Sys2Proof.Machine.execFtanhA d a s
  | .f2d d a => Sys2Proof.Machine.execF2d d a s
  | .d2f d a => Sys2Proof.Machine.execD2f d a s
  | .f2h d a b => Sys2Proof.Machine.execF2h d a b s
  | .h2f d a => Sys2Proof.Machine.execH2f d a s
  | .f2bf d a b => Sys2Proof.Machine.execF2bf d a b s
  | .bf2f d a => Sys2Proof.Machine.execBf2f d a s
  | .f2e4 d a b => Sys2Proof.Machine.execF2e4 d a b s
  | .f2e5 d a b => Sys2Proof.Machine.execF2e5 d a b s
  | .e42f d a => Sys2Proof.Machine.execE42f d a s
  | .e52f d a => Sys2Proof.Machine.execE52f d a s
  | .f2i d a => Sys2Proof.Machine.execF2i d a s
  | .f2u d a => Sys2Proof.Machine.execF2u d a s
  | .i2f d a => Sys2Proof.Machine.execI2f d a s
  | .u2f d a => Sys2Proof.Machine.execU2f d a s
  | .d2i d a rnd => Sys2Proof.Machine.execD2i d a rnd s
  | .d2u d a rnd => Sys2Proof.Machine.execD2u d a rnd s
  | .i2d d a => Sys2Proof.Machine.execI2d d a s
  | .u2d d a => Sys2Proof.Machine.execU2d d a s
  | .f2l d a rnd => Sys2Proof.Machine.execF2l d a rnd s
  | .f2ul d a rnd => Sys2Proof.Machine.execF2ul d a rnd s
  | .l2f d a rnd => Sys2Proof.Machine.execL2f d a rnd s
  | .ul2f d a rnd => Sys2Proof.Machine.execUl2f d a rnd s
  | .d2l d a rnd => Sys2Proof.Machine.execD2l d a rnd s
  | .d2ul d a rnd => Sys2Proof.Machine.execD2ul d a rnd s
  | .l2d d a rnd => Sys2Proof.Machine.execL2d d a rnd s
  | .ul2d d a rnd => Sys2Proof.Machine.execUl2d d a rnd s
  | .fpExtendedRoundingForm maj op d a b rnd fl => Sys2Proof.Machine.execFpExtendedRoundingForm maj op d a b rnd fl s
  | .aaddf d a b => Sys2Proof.Machine.execAaddf d a b s
  | .aaddd d a b => Sys2Proof.Machine.execAaddd d a b s
  | .aaddh d a b => Sys2Proof.Machine.execAaddh d a b s
  | .aaddbf d a b => Sys2Proof.Machine.execAaddbf d a b s
  | .aaddq d a => Sys2Proof.Machine.execAaddq d a s
  | .ared d a => Sys2Proof.Machine.execAred d a s
  | .acvtf d a b => Sys2Proof.Machine.execAcvtf d a b s
  | .acvtd d a b => Sys2Proof.Machine.execAcvtd d a b s
  | .bra off => Sys2Proof.Machine.execBra off s
  | .brm r off => Sys2Proof.Machine.execBrm r off s
  | .call r off => Sys2Proof.Machine.execCall r off s
  | .join => Sys2Proof.Machine.execJoin s
  | .regang => Sys2Proof.Machine.execRegang s
  | .regangWg => Sys2Proof.Machine.execRegangWg s
  | .ret a => Sys2Proof.Machine.execRet a s
  | .jmpi a => Sys2Proof.Machine.execJmpi a s
  | .exit => Sys2Proof.Machine.execExit s
  | .yield => Sys2Proof.Machine.execYield s
  | .trap n => Sys2Proof.Machine.execTrap n s
  | .brk n => Sys2Proof.Machine.execBrk n s
  | .rtt => Sys2Proof.Machine.execRtt s
  | .sysrd d csr => Sys2Proof.Machine.execSysrd d csr s
  | .sysrdCyclelo d => Sys2Proof.Machine.execSysrdCyclelo d s
  | .syswr d csr => Sys2Proof.Machine.execSyswr d csr s
  | .syswrFpflags d => Sys2Proof.Machine.execSyswrFpflags d s
  | .syswrGangctl d => Sys2Proof.Machine.execSyswrGangctl d s
  | .fenceAcq scope => Sys2Proof.Machine.execFenceAcq scope s
  | .fenceRel scope => Sys2Proof.Machine.execFenceRel scope s
  | .fenceSc scope => Sys2Proof.Machine.execFenceSc scope s
  | .spanOpen d => Sys2Proof.Machine.execSpanOpen d s
  | .spanClose => Sys2Proof.Machine.execSpanClose s
  | .leaseSet d mode => Sys2Proof.Machine.execLeaseSet d mode s
  | .leaseGet d => Sys2Proof.Machine.execLeaseGet d s
  | .regsGrow d => Sys2Proof.Machine.execRegsGrow d s
  | .regsShrink d => Sys2Proof.Machine.execRegsShrink d s
  | .gridLaunch d sp => Sys2Proof.Machine.execGridLaunch d sp s
  | .ld m => Sys2Proof.Machine.execLd m s
  | .lds m => Sys2Proof.Machine.execLds m s
  | .st m => Sys2Proof.Machine.execSt m s
  | .stq m => Sys2Proof.Machine.execStq m s
  | .ldByp m => Sys2Proof.Machine.execLdByp m s
  | .ldAcq scope m => Sys2Proof.Machine.execLdAcq scope m s
  | .stRel scope m => Sys2Proof.Machine.execStRel scope m s
  | .atom x => Sys2Proof.Machine.execAtom x s
  | .ldl m => Sys2Proof.Machine.execLdl m s
  | .stl m => Sys2Proof.Machine.execStl m s
  | .atoml x => Sys2Proof.Machine.execAtoml x s
  | .prefL1 m => Sys2Proof.Machine.execPrefL1 m s
  | .prefLlc m => Sys2Proof.Machine.execPrefLlc m s
  | .surfLd d a b => Sys2Proof.Machine.execSurfLd d a b s
  | .surfSt d a b => Sys2Proof.Machine.execSurfSt d a b s
  | .surfStc d a b => Sys2Proof.Machine.execSurfStc d a b s
  | .surfMv d a b => Sys2Proof.Machine.execSurfMv d a b s
  | .tex d a b => Sys2Proof.Machine.execTex d a b s
  | .rastKick d a => Sys2Proof.Machine.execRastKick d a s
  | .fgrid d a b => Sys2Proof.Machine.execFgrid d a b s
  | .fgrid2d d a b => Sys2Proof.Machine.execFgrid2d d a b s
  | .unpack d a b => Sys2Proof.Machine.execUnpack d a b s
  | .pack d a b => Sys2Proof.Machine.execPack d a b s
  | .mma la func a b flags => Sys2Proof.Machine.execMma la func a b flags s
  | .mmaB la func a b flags => Sys2Proof.Machine.execMmaB la func a b flags s
  | .accWin la a => Sys2Proof.Machine.execAccWin la a s
  | .accZero la b => Sys2Proof.Machine.execAccZero la b s
  | .accLd la a b => Sys2Proof.Machine.execAccLd la a b s
  | .accSt la a b => Sys2Proof.Machine.execAccSt la a b s
  | .accTolm la a b => Sys2Proof.Machine.execAccTolm la a b s
  | .accFromlm la a b => Sys2Proof.Machine.execAccFromlm la a b s
  | .accCvt la fmt a b => Sys2Proof.Machine.execAccCvt la fmt a b s
  | .scacc la zp a b => Sys2Proof.Machine.execScacc la zp a b s
  | .tscaleBind la a b => Sys2Proof.Machine.execTscaleBind la a b s
  | .wbufLd la a b => Sys2Proof.Machine.execWbufLd la a b s
  | .wbufLdsp la a b => Sys2Proof.Machine.execWbufLdsp la a b s
  | .cpyKick a b => Sys2Proof.Machine.execCpyKick a b s
  | .cpyStat done b a => Sys2Proof.Machine.execCpyStat done b a s
  | .barInit bar b => Sys2Proof.Machine.execBarInit bar b s
  | .barExpect bar b => Sys2Proof.Machine.execBarExpect bar b s
  | .barArrive bar => Sys2Proof.Machine.execBarArrive bar s
  | .barWait bar => Sys2Proof.Machine.execBarWait bar s
  | .barTest b bar => Sys2Proof.Machine.execBarTest b bar s
  | .spring sp d a b => Sys2Proof.Machine.execSpring sp d a b s
  | .hostCxlMemAccess agent pa wr len => Sys2Proof.Machine.execHostCxlMemAccess agent pa wr len s
  | .partnerSnoop pa => Sys2Proof.Machine.execPartnerSnoop pa s
  | .flitRetry port flit => Sys2Proof.Machine.execFlitRetry port flit s

end Sys2Proof.Machine
end

