-- ==== Sys2Proof/Machine/Protect.lean ====
section
/-! DEFINITION. Protected launch mode: the comparison of lane pairs (R158) and what follows a mismatch (R378). -/

namespace Sys2Proof.Machine

/-- The lanes of the pairs of a mask in which f differs. -/
def pairDiff {α : Type} [DecidableEq α] (m : LaneMask) (f : Nat → α) : LaneMask :=
  maskOf ((List.range 16).flatMap fun k =>
    if m.getLsbD (2 * k) && m.getLsbD (2 * k + 1) && !decide (f (2 * k) = f (2 * k + 1)) then [2 * k, 2 * k + 1] else [])

/-- The leader's pair, when the leader's registers and their comparison copies differ. A replay takes no base from the
registers (R258). -/
def leaderDiff (g : Gang) (it : Issue) (m : LaneMask) (rs : List Nat) : LaneMask :=
  match leader m with
  | none => 0
  | some l => if it.replay.isSome then 0 else pairDiff (maskOf [l / 2 * 2, l / 2 * 2 + 1] &&& m) fun i => rs.map fun r => getReg g r i

/-- The addresses that two lanes form from one base compare by their offset terms; local ones modulo 2^32 (R190). -/
def addressTerm (isLocal : Bool) (g : Gang) (off : Reg) (n lane : Nat) : DWord :=
  let t := offsetTerm g off n lane
  if isLocal then (t.extractLsb' 0 32).zeroExtend 64 else t

/-- A store's addresses and data by their registers. -/
def storeDiff (g : Gang) (it : Issue) (m : LaneMask) (base lane : List Nat) : LaneMask :=
  leaderDiff g it m base ||| pairDiff m fun i => lane.map fun r => getReg g r i

/-- The mask that a compare forms over every lane: the one that it writes outside protected mode. -/
def rawMask (s : State) (uid : Nat) (m : LaneMask) (d : Reg) (i : Instr) : Option Word :=
  match exec i (modGang s uid fun g => { g with prot := false }) with
  | .next t => if ((t.iss.map (·.stopped)).getD true) then none
      else (gang? t uid).map fun g => getReg g d.toNat ((leader m).getD 0)
  | _ => none

def maskDiff (m : LaneMask) (v : Option Word) : LaneMask :=
  match v with
  | none => 0
  | some v => pairDiff m fun i => v.getLsbD i

/-- A store's addresses and the part of its data that reaches memory: below a word only the low bytes are compared. -/
def storeCompare (isLocal : Bool) (g : Gang) (it : Issue) (m : LaneMask) (mo : MemOp) (n : Nat) (base : List Nat) : LaneMask :=
  leaderDiff g it m base ||| pairDiff m fun i => (addressTerm isLocal g mo.off n i, storeBytes g mo.d n i)

/-- An atomic's addresses and operands. -/
def atomCompare (isLocal : Bool) (g : Gang) (it : Issue) (m : LaneMask) (x : AtomArgs) (u : Uses) : LaneMask :=
  leaderDiff g it m u.uni ||| pairDiff m fun i =>
    (addressTerm isLocal g x.off (atomSize x) i, (u.lane.drop (offRegs x.off).length).map fun r => getReg g r i)

/-- What R158 compares of an instruction: the subcause of R378, and the lanes of the pairs that mismatch. -/
def compareOf (s : State) (g : Gang) (it : Issue) (i : Instr) : Nat × LaneMask :=
  let m := execMask g it
  let u := usesOf s g i
  let mask (d : Reg) : Nat × LaneMask := (3, maskDiff m (rawMask s g.uid m d i))
  match i with
  | .st o | .stRel _ o => (1, storeCompare false g it m o (sizeBHWD o.sz) u.uni)
  | .stl o => (1, storeCompare true g it m o (sizeBHWD o.sz) u.uni)
  | .stq o => (1, storeCompare false g it m o 16 u.uni)
  | .atom x => (1, atomCompare false g it m x u)
  | .atoml x => (1, atomCompare true g it m x u)
  | .surfSt _ _ _ | .surfStc _ _ _ | .surfMv _ _ _ => (1, storeDiff g it m u.uni u.lane)
  | .cmpeq d _ _ | .cmpne d _ _ | .cmplt d _ _ | .cmple d _ _ | .cmpltu d _ _ | .cmpleu d _ _ => mask d
  | .cmpeq64 d _ _ | .cmplt64 d _ _ | .cmpltu64 d _ _ | .cmple64 d _ _ | .cmpleu64 d _ _ => mask d
  | .fcmpeq d _ _ | .fcmpne d _ _ | .fcmplt d _ _ | .fcmple d _ _ | .fcmpun d _ _ => mask d
  | .dcmpeq d _ _ | .dcmpne d _ _ | .dcmplt d _ _ | .dcmple d _ _ | .dcmpun d _ _ => mask d
  | .cmpeqi d _ _ => mask d
  | .voteBallot _ a | .voteAny _ a | .voteAll _ a => (3, pairDiff m fun l => getReg g a.toNat l != 0)
  | .brm r _ =>
    let l := (leader m).getD 0
    (3, pairDiff m fun k => (getReg g r.toNat (l / 2 * 2 + k % 2)).getLsbD (k / 2))
  | .mma _ _ _ _ _ | .mmaB _ _ _ _ _ | .accWin _ _ | .accZero _ _ | .accLd _ _ _ | .accSt _ _ _ | .accTolm _ _ _
  | .accFromlm _ _ _ | .accCvt _ _ _ _ | .scacc _ _ _ _ | .tscaleBind _ _ _ | .wbufLd _ _ _ | .wbufLdsp _ _ _ | .fgrid _ _ _
  | .fgrid2d _ _ _ | .cpyKick _ _ | .cpyStat _ _ _ | .barInit _ _ | .barExpect _ _ | .rastKick _ _ | .gridLaunch _ _ =>
    (2, leaderDiff g it m u.uni)
  | _ => (0, 0)

/-- A mismatch of the instruction that issues, in protected mode. -/
def mismatch (s : State) (g : Gang) (it : Issue) (i : Instr) : Option (Nat × LaneMask) :=
  if !g.prot then none
  else
    let c := compareOf s g it i
    if c.2 = 0#32 then none else some c

def bumpMismatch (s : State) (uid : Nat) : State := modGang s uid fun g => { g with mismatches := g.mismatches + 1 }

/-- The first mismatch of a span attempt: the span is rolled back (R85); at a boundary instruction, the span having ended,
only the instruction is issued again (R378). -/
def firstMismatch (s : State) (i : Instr) : Out :=
  withGang s fun g it =>
    match boundaryCode i with
    | some code => boundary code (i == .spanClose) s fun s _ it => stay (bumpMismatch s it.gang) it
    | none =>
      let s := if g.span.tx.isSome then txRestart s it.gang 5 none else rollback s it.gang
      .next (stopChain (bumpMismatch s it.gang))

/-- SHADOW is owed for these dead lanes, with those already owed at the same instruction (R378). -/
def oweShadow (g : Gang) (sub : Nat) (lanes : LaneMask) : Gang :=
  let before := match g.shadow with
    | some h => if h.2.2 == g.trap.nest then h.2.1 else 0
    | none => 0
  { g with shadow := some (sub, lanes ||| before, g.trap.nest) }

/-- The second mismatch: the pairs die, the instruction is performed in the others by `k`, and SHADOW follows it, whenever it
is performed. With no live pair left the gang ends and SHADOW goes to the fault domain. -/
def secondMismatch (s : State) (sub : Nat) (lanes : LaneMask) (k : State → Out) : Out :=
  withGang s fun _ it =>
    let s' := modGang (killLanes s it.gang lanes) it.gang fun g => oweShadow g sub lanes
    match endIfDead s' it.gang with
    | none => stay s it
    | some t => if ((gang? t it.gang).map (·.ended)).getD true then .next (stopChain t) else k t

/-- The comparison before an instruction is performed. -/
def compared (i : Instr) (s : State) (k : State → Out) : Out :=
  withGang s fun g it =>
    match mismatch s g it i with
    | none => k s
    | some (sub, lanes) => if g.mismatches = 0 then firstMismatch s i else secondMismatch s sub lanes k

end Sys2Proof.Machine
end

