-- ==== Sys2Proof/Machine/Issue.lean ====
section
/-! DEFINITION. The issue of one instruction or chain by a split of a gang (R151, R184 to R186, R203, R258, R366 to R368, R374,
R377, R378). -/

namespace Sys2Proof.Machine

/-- Go on from a next state. -/
def thenDo (o : Out) (k : State → Out) : Out :=
  match o with
  | .next s => k s
  | o => o

/-! ## Poisoned registers (R377) -/

def regPoisoned (g : Gang) (r lane : Nat) : Bool := g.regPoison.contains (r * 32 + lane)

/-- Registers that a lane of the instruction reads; RDIND reads the register that its index names (R218). -/
def laneReads (g : Gang) (u : Uses) (i : Instr) (lane : Nat) : List Nat :=
  match i with
  | .rdind _ a => (getReg g a.toNat lane).toNat :: u.lane
  | _ => u.lane.filter fun r => !(unread i).contains r

/-- A register of a lane that does not execute, live, from which a shuffle takes its value (R219): the lane and the register. -/
def shflFrom (g : Gang) (m : LaneMask) (i : Instr) (lane : Nat) : Option (Nat × Reg) :=
  let from' (src : Nat → Nat → Nat → Int) (a b : Reg) : Option (Nat × Reg) :=
    let l := shflLane g lane (shflSrc g src b lane)
    if !m.getLsbD l && (g.live &&& g.launchMask).getLsbD l then some (l, a) else none
  match i with
  | .shflIdx _ a b => from' srcIdx a b
  | .shflUp _ a b => from' srcUp a b
  | .shflDown _ a b => from' srcDown a b
  | .shflXor _ a b => from' srcXor a b
  | _ => none

/-- Lanes that die for uniform operands: each leader in turn that reads a poisoned register, its copy in protected mode
included (R158, R195). -/
def leaderDeaths (g : Gang) (uni : List Nat) : Nat → LaneMask → LaneMask
  | 0, _ => 0
  | n + 1, m =>
    match leader m with
    | none => 0
    | some l =>
      let bad := uni.any fun r => regPoisoned g r l || (g.prot && regPoisoned g r (l + 1))
      if bad then let d := pairsOf g (1#32 <<< l); d ||| leaderDeaths g uni n (m &&& ~~~d) else 0

/-- Lanes of the instruction that read a poisoned register. A replay takes its base from the record (R258). -/
def poisonReaders (g : Gang) (it : Issue) (u : Uses) (i : Instr) : LaneMask :=
  if g.regPoison.isEmpty then 0
  else
    let m := execMask g it
    let d := maskOf ((lanesOf m).filter fun l =>
      ((laneReads g u i l).any fun r => regPoisoned g r l) || (shflFrom g m i l).any fun q => regPoisoned g q.2.toNat q.1)
    d ||| leaderDeaths g (if it.replay.isSome then [] else u.uni) 32 (m &&& ~~~(pairsOf g d))

/-- The reading lanes consume poison; none while the commit of a gang that ends must wait. -/
def readPoison (s : State) (i : Instr) : Option State :=
  match s.iss with
  | none => some s
  | some it => match gang? s it.gang with
    | none => some s
    | some g =>
      let d := poisonReaders g it (usesOf s g i) i
      if d = 0#32 then some s else endIfDead (consumePoison s it.gang d 0x33 none) it.gang

/-! ## One member -/

/-- The gang still executes the instruction in some lane (R154). -/
def stillExecutes (s : State) : Bool :=
  match s.iss with
  | none => false
  | some it => match gang? s it.gang with
    | none => false
    | some g => !g.ended && execMask g it != 0#32

/-- An instruction without an executing lane has no effect (R154). -/
def performOne (i : Instr) (s : State) : Out := if stillExecutes s then exec i s else .next s

/-- A member of the chain: poisoned registers, the comparison of protected mode, and its effect. -/
def member (i : Instr) (s : State) : Out :=
  match readPoison s i with
  | none => withGang s fun _ it => stay s it
  | some t => if stillExecutes t then compared i t (performOne i) else .next t

/-- The rest of a chain is not performed. -/
def halted (s : State) : Bool := (s.iss.map fun it => it.waited || it.stopped).getD true

/-- The members in slot order. -/
def members (addr : DWord) (npc : DWord) : List Member → State → Out
  | [], s => .next s
  | m :: r, s =>
    if halted s then .next s
    else
      let next := match r with
        | n :: _ => addr + BitVec.ofNat 64 n.slot
        | [] => npc
      thenDo (member m.instr (setIss s fun it => { it with pc := addr + BitVec.ofNat 64 m.slot, rpc := next }))
        (members addr npc r)

/-! ## After the instruction -/

/-- Tile lookahead: one more instruction of the gang has issued (R186, R278). Offers made by it are not counted. -/
def countAhead (s : State) (uid before : Nat) : State :=
  if s.cores.all fun c => c.2.offers.isEmpty then s
  else { s with cores := s.cores.map fun c => (c.1, { c.2 with
    offers := c.2.offers.map fun o => if o.gang = uid ∧ o.uid < before then { o with la := o.la - 1 } else o }) }

/-- Ended paths, due rotations, divided splits, and slices whose wait is over (R148, R150 to R152). -/
def tidy (s : State) (uid : Nat) : State :=
  modGang s uid fun g => if g.ended then g else parkIfStuck (regangRelease (rotateDue (settle g)))

/-- Idle lanes of the issue: those outside the execute mask, and every lane of the core's gangs that are not active (R159;
log 35). -/
def gateCount (s : State) (core : Nat) (m : LaneMask) : State :=
  let still := (s.gangs.filter fun g => g.core == core && !g.ended && !g.sched.active).length
  modCore s core fun c => { c with gated := c.gated + (32 - (lanesOf m).length) + 32 * still }

/-- The issue order: the partition has issued from the split; every split of its gangs may be found ready again, and those that
gave up their slots wait for it no longer (R151, R230, R349). -/
def noteIssue (s : State) (g : Gang) (split : Nat) : State :=
  let s := modCore s g.core fun c => { c with lastIssued := setK (partOf g) g.uid c.lastIssued }
  { s with gangs := s.gangs.map fun h =>
      if h.core ≠ g.core ∨ partOf h ≠ partOf g then h
      else if h.uid = g.uid then
        { h with sched := { h.sched with lastSplit := split, stalled := [], yields := h.sched.yields.map fun y =>
            (y.1, y.2.1.filter (· != split), y.2.2) } }
      else { h with sched := { h.sched with stalled := [], yields := h.sched.yields.map fun y =>
            (y.1, y.2.1, y.2.2.filter (· != g.uid)) } } }

/-- The next instruction of the split was found to wait (R349). -/
def noteWait (s : State) (uid split : Nat) : State :=
  modGang s uid fun g => { g with sched := { g.sched with lastSplit := split, stalled := split :: g.sched.stalled } }

/-- The counts of an issued instruction: the measurement window (R351), lookahead, idle lanes, the issue order. What it asked
for has come, and with one split no failed hand-over is still to be reported. -/
def countIssue (s : State) (g : Gang) (it : Issue) (before : Nat) : State :=
  let s := gateCount (countAhead s g.uid before) g.core (execMask g it)
  let s := doneAsking (noteIssue s g it.split) (.gang g.uid it.split)
  modGang s g.uid fun h => { h with lease := { h.lease with winCount := h.lease.winCount + 1 },
                                    ownerFail := if (readySplits h).length ≤ 1 then [] else h.ownerFail }

/-- SHADOW or STEP after the instruction (R374, R378): `step` says that SSTEP was in force. A trap of the instruction itself
is delivered instead; a SHADOW owed then follows the instruction when it is performed. Where the trap's commit must wait, it
stays due. -/
def afterTraps (step : Bool) (s : State) : Out :=
  withGang s fun g it =>
    let here := !(splitSlices g it.split).isEmpty && g.sched.wait == .none && !g.ended
    let done := !it.stopped && !((splitSlices g it.split).any fun p => p.2.wait != .none)
    let s' := modGang s g.uid fun g => { g with stepDue := false }
    let wait := Host.Outcome.next (modGang s g.uid fun g => { g with stepDue := true })
    match g.shadow.filter fun h => h.2.2 == g.trap.nest && (done || g.stepDue) with
    | some (sub, lanes, _) =>
      if here then
        raiseAfter wait (modGang s' g.uid fun g => { g with shadow := none }) (shadowTrap sub lanes)
      else .next s
    | none =>
      if here && ((step && done) || g.stepDue) then
        raiseAfter wait s' { cause := cSTEP, info := 0, addr := none, lanes := none }
      else .next s

/-- Undo the counts of an instruction alone that waits: its span's count, unless it stands outside spans, and the age of a
pending fault; a span that it alone has begun has not begun. -/
def uncount (counted begun : Bool) (g : Gang) : Gang :=
  { g with span := { g.span with count := if counted then g.span.count - 1 else g.span.count, begun := g.span.begun && begun },
           trap := { g.trap with pending := g.trap.pending.map fun p => { p with left := p.left + 1 } } }

/-- The state that a waiting instruction leaves: a chain is discarded
whole, but for the requests that have issued and the hand-overs that it asked for. -/
def discard (s0 s : State) (n : Nat) (g : Gang) (counted : Bool) : State :=
  if 2 ≤ n then { keepAsks s0 s with handReqs := s.handReqs, iss := none }
  else { modGang s g.uid (uncount counted g.span.begun) with iss := none }

/-- The step is over: nothing issues. -/
def atRest (s : State) : State := compactAll { s with iss := none, now := s.now + 1 }

/-- The step is over, and a cycle has passed. -/
def tick (s : State) : State := atRest { s with clock := s.clock + 1 }

/-- A chain that waits: the span ends before it where it meets a limit (R62, R185). -/
def afterWait (s0 : State) (g : Gang) (n : Nat) (counted : Bool) (it : Issue) (s : State) : State :=
  let s := noteWait (discard s0 s n g counted) g.uid it.split
  match it.limit with
  | none => s
  | some code => endSpan s g.uid it.split code

/-- What follows the members of a chain of n instructions; `s0` is the state before it, `g` the gang there. -/
def afterChain (s0 : State) (g : Gang) (n : Nat) (counted : Bool) (s : State) : Out :=
  match s.iss with
  | none => .next (tick s)
  | some it =>
    if it.waited then .next (tick (afterWait s0 g n counted it s))
    else thenDo (afterTraps (g.sstep && !g.trap.nest) (tidy (countIssue s g it s0.nextUid) g.uid)) fun t => .next (tick t)

/-! ## Issue -/

/-- The gang as an instruction at pc issues: the split stands after the chain, and the span counts one instruction. A boundary
instruction stands outside every span (R62). -/
def startIssue (g : Gang) (split : Nat) (npc : DWord) (p : Packet) (counted : Bool) : Gang :=
  let g := modSplit g split fun _ sl => { sl with pc := npc, packet := some p }
  { g with span := { g.span with count := if counted then g.span.count + 1 else g.span.count, begun := counted || g.span.begun },
           sched := { g.sched with yields := g.sched.yields.filter fun y => y.1 != split } }

/-- The issue of an instruction: a SYSRD or SYSWR in it finds the registers of the gang as it stands here, FPFLAGS among them, also in
the rest of a chain that issues again after a trap (R185, R239; log 97). -/
def mkIssue (g : Gang) (split : Nat) (pc npc : DWord) (replay : Option FaultRecord) : Issue :=
  { gang := g.uid, split, pc, rpc := npc, npc, replay, pre := g, raised := 0, rdead := false, waited := false, stopped := false }

/-- The span has begun with an instruction that comes to issue (R62). -/
def beginSpan (g : Gang) : Gang := { g with span := { g.span with begun := true } }

/-- A trap before anything is performed, with the gang at pc. -/
def trapAt (s : State) (g : Gang) (split : Nat) (pc : DWord) (replay : Option FaultRecord) (t : Trap) : Out :=
  let s0 := { setGang s (beginSpan g) with iss := some (mkIssue g split pc pc replay) }
  thenDo (raise s0 t) fun u => .next (tick { u with iss := none })

/-- A fault met under lookahead stops the gang before these instructions (R368). -/
def stopsPending (p : PendingFault) (s : State) (g : Gang) (ms : List Member) : Bool :=
  ms.any fun m =>
    let u := usesOf s g m.instr
    ((u.reads.filter fun r => !(unread m.instr).contains r).any fun r => p.writes.contains r) || (u.writes.any fun r => p.reads.contains r)
      || (u.all && (!p.reads.isEmpty || !p.writes.isEmpty)) || (boundaryCode m.instr).isSome || m.instr == .rtt

/-- Deliver the pending fault, the split standing at pc. -/
def stopPending (s : State) (g : Gang) (split : Nat) (p : PendingFault) : Out :=
  let it := mkIssue g split (splitPc g split) (splitPc g split) none
  let s0 := { s with iss := some it }
  thenDo (deliverPending (.next (noteWait s g.uid split)) s0 it p) fun u => .next (tick u)

/-- The fault waits one instruction less. -/
def agePending (g : Gang) : Gang :=
  { g with trap := { g.trap with pending := g.trap.pending.map fun p => { p with left := p.left - 1 } } }

/-- Perform a checked chain. -/
def issueChain (s : State) (g : Gang) (split : Nat) (p : Packet) (ms : List Member) : Out :=
  let pc := p.addr + BitVec.ofNat 64 ((ms.head?.map (·.slot)).getD 0)
  let after := (ms.getLast?.map (·.after)).getD 3
  let npc := nextPc p.addr after
  let counted := ms.all fun m => (boundaryCode m.instr).isNone
  let g' := agePending (startIssue g split npc p counted)
  let s1 := { setGang s g' with iss := some (mkIssue g' split pc npc none) }
  thenDo (members p.addr npc ms s1) (afterChain s g ms.length counted)

/-- The owed lanes of a fault record are performed first (R258, R366). -/
noncomputable def issueReplay (s : State) (g : Gang) (r : FaultRecord) : Out :=
  match fetchPacket s g r.split (packetOf r.pc) with
  | .wait s => .next (tick (noteWait s g.uid r.split))
  | .trap t => trapAt s g r.split (packetOf r.pc) (some r) t
  | .ok s p =>
    let k := r.pc.toNat % 4
    match decodeFor s g k (p.word k) (p.word (k + 1)) with
    | .error sub => trapAt s g r.split r.pc (some r) (illegal sub)
    | .ok i => match rangeTrap s g [i] with
      | some t => trapAt s g r.split r.pc (some r) t
      | none =>
        let counted := (boundaryCode i).isNone
        let g' := { g with trap := { g.trap with replay := none },
                           span := { g.span with count := if counted then g.span.count + 1 else g.span.count,
                                                 begun := counted || g.span.begun } }
        let s1 := { setGang s g' with iss := some (mkIssue g' r.split r.pc r.resume (some r)) }
        thenDo (member i s1) (afterChain s g 1 counted)

/-- Fetch, check and perform at the split's PC. -/
noncomputable def issueNext (s : State) (g : Gang) (split : Nat) : Out :=
  let pc := splitPc g split
  match packetFor s g split pc with
  | .wait s => .next (tick (noteWait s g.uid split))
  | .trap t => trapAt s g split (packetOf pc) none t
  | .ok s p =>
    match checkedChain s g p (pc.toNat % 4) with
    | .error t => trapAt s g split pc none t
    | .ok ms => match g.trap.pending with
      | some f => if stopsPending f s g ms then stopPending s g split f else issueChain s g split p ms
      | none => issueChain s g split p ms

/-- An engine instruction of the gang whose lookahead is used up (R186, R278). -/
def aheadFull (s : State) (uid : Nat) : Bool :=
  s.cores.any fun c => c.2.offers.any fun o => o.gang == uid && o.la == 0 && o.follow.isNone

/-- The gang has asked for favour and waits for it at the start of its span (R77). -/
def awaitsFavour (s : State) (g : Gang) : Bool := s.favourQueue.contains g.uid && atSpanStart g

/-- The gang may issue now (R77, R354, R371, R373, R375). -/
def mayIssue (s : State) (g : Gang) : Bool :=
  g.sched.active && canIssue g && !awaitsFavour s g && match cohortOf s g with
    | none => false
    | some c => c.resident && c.stop.isNone && c.refills.isEmpty

/-- A fault not yet delivered that stops the gang here: its lookahead is used up, or SSTEP allows none (R368). -/
def stopsHere (g : Gang) (p : PendingFault) : Bool := p.left == 0 || g.sstep

/-- What comes before the next instruction of the gang: a fault that stops it, the span's limit, a queued error, SHADOW or STEP
of a wait that has ended, a replay, or the lookahead limit; then the instruction. -/
noncomputable def issueSplit (s : State) (g : Gang) (split : Nat) : Out :=
  match g.trap.pending.filter (stopsHere g) with
  | some p => stopPending s g split p
  | none =>
    if atLimit g then thenDo (exec (.spanInstructionLimit g.uid) (noteWait s g.uid split)) fun t => .next (tick t)
    else if !g.trap.queue.isEmpty && !g.trap.nest && endedBetween g then .next (tick ((deliverQueued s g.uid split).getD s))
    else if g.stepDue then
      let s1 := { s with iss := some { mkIssue g split (splitPc g split) (splitPc g split) none with stopped := true } }
      thenDo (afterTraps false s1) fun t => .next (tick { t with iss := none })
    else match g.trap.replay with
      | some r => issueReplay s g r
      | none => if aheadFull s g.uid then .next (tick (noteWait s g.uid split)) else issueNext s g split

/-! ## The partition's choice (R151, R230, R349) -/

/-- A split has given up its slot and some split or gang that comes before it is ready. -/
def yieldsNow (s : State) (g : Gang) (split : Nat) : Bool :=
  let ready (h : Gang) : List Nat := (readySplits h).filter fun n => !h.sched.stalled.contains n
  g.sched.yields.any fun y => y.1 == split
    && (y.2.1.any (fun n => (ready g).contains n)
      || y.2.2.any fun u => (gang? s u).any fun h => mayIssue s h && !(ready h).isEmpty)

/-- The splits of a gang that may issue and have not been found to wait. -/
def openSplits (s : State) (g : Gang) : List Nat :=
  (readySplits g).filter fun n => !g.sched.stalled.contains n && !yieldsNow s g n

/-- The next split in turn after the one that issued last (R151). -/
def nextInTurn (last : Nat) (l : List Nat) : Option Nat :=
  (sortBy (fun a b => decide (a < b)) (l.filter fun n => decide (last < n))).head?.orElse fun _ =>
    (sortBy (fun a b => decide (a < b)) l).head?

/-- The gangs of a partition that are ready (R349). -/
def readyGangs (s : State) (core part : Nat) : List Gang :=
  s.gangs.filter fun g => g.core == core && partOf g == part && mayIssue s g && !(openSplits s g).isEmpty

/-- The gang and split from which the partition issues: greedy, else the oldest (R349). -/
def pick (s : State) (core part : Nat) : Option (Gang × Nat) :=
  let l := readyGangs s core part
  let last := (getK part (coreOf s core).lastIssued).bind fun u => l.find? fun g => g.uid == u
  (last.orElse fun _ => (sortBy (older s) l).head?).bind fun g =>
    (nextInTurn g.sched.lastSplit (openSplits s g)).map fun n => (g, n)

/-- Every split of the partition is tried anew. -/
def retryAll (s : State) (core part : Nat) : State :=
  { s with gangs := s.gangs.map fun g =>
      if g.core = core ∧ partOf g = part then { g with sched := { g.sched with stalled := [] } } else g }

/-- One issue slot of a partition. -/
noncomputable def issueTurn (s : State) (core part : Nat) : Out :=
  match pick s core part with
  | none => .next (tick (retryAll s core part))
  | some (g, split) => issueSplit s g split

end Sys2Proof.Machine
end

