-- ==== Sys2Proof/Machine/Turns.lean ====
section
/-! DEFINITION. The turns of the machine: issue, the device's own events, the firmware's ring (R382), inputs and the passing of
time; the order in which they come is the agenda's, or without one a round robin (log 3). -/

namespace Sys2Proof.Machine

/-! ## The submission ring (R382, R383) -/

/-- The entry that the firmware reads next. -/
def nextEntry (s : State) : Option (BitVec 512) :=
  (hostRead s (s.dev.sqBase + BitVec.ofNat 64 (64 * s.dev.sqHead.toNat)) 64).map fun bs => BitVec.ofNat 512 (natOfBytes bs)

def entryTag (e : BitVec 512) : BitVec 16 := e.extractLsb' 16 16

/-- BOOT lets the command run (R383, status 5). -/
def bootAllows (s : State) (i : Instr) : Bool :=
  match i with
  | .deviceInit _ => true
  | .attest _ _ _ => s.dev.boot != 0#2
  | _ => booted s

/-- The firmware reads an entry: SQHEAD names the one after it (R381). -/
def takeEntry (s : State) (e : BitVec 512) : State :=
  let n := BitVec.ofNat 32 ((s.dev.sqHead.toNat + 1) % ringSize s.dev)
  { s with dev := { s.dev with sqHead := n, serving := some e } }

/-- One entry: an unassigned OPC, then BOOT, then the layout, each with its status; else the command (R383, R384). -/
noncomputable def serveEntry (s : State) (e : BitVec 512) : Out :=
  match decodeCommandRaw e with
  | none => .next (complete s (entryTag e) 1 0)
  | some i =>
    if bootAllows s i && !commandLayoutOK e i then .next (complete s (entryTag e) 1 0) else exec i s

/-- The firmware's turn: the command that it serves, or the next entry. -/
noncomputable def serveTurn (s : State) : Out :=
  match s.dev.current, s.dev.serving with
  | some p, _ => .next (if preemptDone s p then finishPreempt s p else s)
  | none, some e => serveEntry s e
  | none, none =>
    if !s.dev.qEn || s.dev.sqHead == s.dev.sqTail then .next s
    else match nextEntry s with
      | none => .next s
      | some e => serveEntry (takeEntry s e) e

/-! ## Inputs -/

/-- n bytes at pa lie in the host's or a peer's own memory. -/
def inWindow (pa n : Nat) : Bool := (List.range n).all fun k => isHostWin (pa + k) || isPeerWin (pa + k)

/-- A write to the host's or a peer's own memory: an access of the partner (R36). -/
def windowStore (s : State) (pa : Nat) (bs : List Byte) : State :=
  if inWindow pa bs.length then
    let bytes := (List.range bs.length).map (pa + ·)
    clearWhole (rawWrite (partnerAccess s bytes) pa bs) bytes
  else s

/-- A read of the host's or a peer's own memory. -/
def windowLoad (s : State) (pa n : Nat) : State := if inWindow pa n then partnerAccess s ((List.range n).map (pa + ·)) else s

def windowPoison (s : State) (line : Nat) : State :=
  if isHostWin (lineBase line) || isPeerWin (lineBase line) then { s with linePoison := (line :: s.linePoison).eraseDups } else s

/-- What the home slice would give an untracked read of va now, kept for one that the open span makes later: the line, and the stamps
found in it (R95). -/
def readEarly (s : State) (uid : Nat) (va : DWord) : State :=
  match gang? s uid with
  | none => s
  | some g => match checkAccess s (ctxOf s g) (regionOf s g) .load va with
    | .ok x =>
      let line := lineOf x.pa
      if !g.span.begun || !cohortResident s g || x.poison || s.linePoison.contains line then s
      else
        let e : EarlyRead :=
          { line, key := pteKey x.pte, time := s.now, data := readBytes s (pteKey x.pte) (lineBase line) 128,
            stamps := (List.range 128).map fun i => stampAt s (lineBase line + i) 1 }
        modGang s uid fun g => { g with span := { g.span with early := g.span.early ++ [e] } }
    | _ => s

/-! ## The passing of time (R204, R205) -/

/-- Cycles of a core at which something may fall due: its windows, aging, ends of protection, and the residency and next thermal check
of its cohorts (R159, R353, R355, R356, R359). -/
def coreTimes (s : State) (c : Nat) : List Nat :=
  [(coreOf s c).lostStart + 4096, (coreOf s c).creditStart + Config.period]
    ++ ((residents s c).flatMap fun g => (g.sched.readySince + 65537) :: g.sched.protUntil.toList)
    ++ s.cohorts.flatMap fun k => k.recheck.toList ++ ((k.wgs.filter fun w => w.core == c).flatMap fun w =>
        [w.placed + Config.residency, w.placed + Config.residency + 1])

/-- Cycles that may pass at once on a core, of n: no time at which something falls due is passed over. -/
def cyclesAtOnce (s : State) (c n : Nat) : Nat :=
  ((coreTimes s c).filter (coreCycle s c < ·)).foldl (fun m t => min m (t - coreCycle s c)) n

/-- Cycles pass on a core, n and that of the step itself; those left over pass in turns of their own. -/
def elapse (s : State) (c n : Nat) : State :=
  let k := cyclesAtOnce s c (n + 1)
  let s := modCore s c fun x => { x with cycleOff := x.cycleOff + (k - 1) }
  if n < k then s else { s with agenda := .elapse c (n - k) :: s.agenda }

/-! ## The agenda -/

/-- One turn. -/
noncomputable def runTurn (t : Turn) (s : State) : Out :=
  match t with
  | .issue core part => issueTurn s core part
  | .stall gang split =>
    .next (tick (modGang s gang fun g => { g with sched := { g.sched with stalled := split :: g.sched.stalled } }))
  | .event i => if isEvent i then thenDo (exec i s) fun t => .next (tick t) else .next (tick s)
  | .serve => thenDo (serveTurn s) fun t => .next (tick t)
  | .elapse core n => .next (tick (elapse s core n))
  | .heat core temp => .next (tick (modCore s core fun c => { c with temp }))
  | .threshold core t => .next (tick (modCore s core fun c => { c with hot := some t }))
  | .answer cmd link => .next (tick { s with copies := s.copies.map fun c => if c.uid = cmd then { c with answer := link } else c })
  | .busFault reach bus driven reader =>
    .next (tick { s with dev := { s.dev with busFaults := (reach, bus, driven, reader) :: s.dev.busFaults } })
  | .badBus reach bus driven reader =>
    .next (tick { s with dev := { s.dev with badBuses := (reach, bus, driven, reader) :: s.dev.badBuses } })
  | .early gang va => .next (tick (readEarly s gang va))
  | .hostStore pa bytes => .next (tick (windowStore s pa bytes))
  | .hostLoad pa n => .next (tick (windowLoad s pa n))
  | .linkPoison line => .next (tick (windowPoison s line))
  | .idle => .next (tick s)

/-- Turns of one gang. -/
def gangTurns (g : Gang) : List Turn :=
  [.event (.spanCommit g.uid), .event (.twoPhaseCommit g.uid), .event (.asyncErrorDelivery g.uid)]

/-- The physical scale entries that bindings in an engine's queue wait for (R290). -/
def pendingEntries (s : State) (x : Core) : List Nat :=
  x.engine.flatMap fun o => match gang? s o.peer with
    | none => []
    | some p => o.left.map (scaleKey p.grant)

/-- Turns of one core. -/
def coreTurns (s : State) (c : Nat) (x : Core) : List Turn :=
  (List.range 4).map (Turn.issue c)
    ++ (List.range x.offers.length).map (fun p => Turn.event (.matrixAccept c p))
    ++ (List.range x.engine.length).map (fun p => Turn.event (.matrixComplete c p))
    ++ (pendingEntries s x).map (fun e => Turn.event (.scaleEntryArrival c e))
    ++ (if x.raster.queue.isEmpty then [] else [.event (.rasterBinning c), .event (.fragmentGangLaunch c),
        .event (.fragmentBlend c), .event (.tileWriteBack c)])
    ++ [.event (.growthStall c), .event (.accWinGrant c)]
    ++ (List.range 4).map fun p => Turn.event (.regsGrowGrant c p)

/-- Turns of one cohort. -/
def cohortTurns (s : State) (c : Cohort) : List Turn :=
  if c.resident then [.event (.cohortRetire c.uid), .event (.preemption c.uid)]
    ++ if c.refills.isEmpty then [] else [.event (.cohortRestore c.uid c.basin)]
  else [.event (.cohortRestore c.uid ((migrationBasin s c).getD 0))]

/-- Cores with units in use or gangs. -/
def coresInUse (s : State) : List Nat := (s.cores.map (·.1) ++ s.gangs.map (·.core)).eraseDups

/-- The turns between which the round robin chooses when the agenda is empty. -/
def ownTurns (s : State) : List Turn :=
  [.serve, .event .favourGrant, .event .cohortPlacement]
    ++ s.gangs.flatMap gangTurns
    ++ s.copies.flatMap (fun c => [Turn.event (.copyChunk c.uid), .event (.followOnOffer c.uid)])
    ++ (coresInUse s).flatMap (fun c => coreTurns s c (coreOf s c))
    ++ s.cohorts.flatMap (cohortTurns s)
    ++ s.handReqs.map fun r => Turn.event (.ownershipHandover r.ctx (BitVec.ofNat 64 (4096 * r.page)) .ok)

def ownTurn (s : State) : Turn := let l := ownTurns s; (l[s.round % l.length]?).getD .idle

/-! ## What is due (R61, R159, R351, R353, R355, R356, R359) -/

/-- What the clock of a core brings at once: the ends of its windows and periods, aging, ends of protection and of measurement
windows, the growth that a free granule serves, and then the admission decision that such an event calls for. -/
def coreDue (s : State) (c : Nat) : Option Instr :=
  if lostOver s c then some (.lostLocalityWindow c)
  else if creditOver s c then some (.clockCreditPeriod c)
  else
    let gs := residents s c
    match gs.find? windowOver, gs.find? (agingDue s), gs.find? (protectionOver s) with
    | some g, _, _ => some (.leaseMeasurementWindow g.uid)
    | none, some g, _ => some (.gangAging g.uid)
    | none, none, some g => some (.protectionEnd g.uid)
    | none, none, none => match (List.range 4).find? (growerReady s c) with
      | some p => some (.regsGrowGrant c p)
      | none => if admitDue s c then some (.admissionDecision c) else none

/-- An event of the device whose time has come: it comes before any other turn (log 3). -/
def dueEvent (s : State) : Option Instr :=
  match (List.range 4).find? (periodOver s) with
  | some r => some (.meteringPeriod r)
  | none => match (coresInUse s).findSome? (coreDue s) with
    | some i => some i
    | none => (s.cohorts.find? (thermalDue s)).map fun c => .thermalMigration c.uid

/-- The next turn: an event that is due, which takes no cycle (log 4), else the agenda's first, or the machine's own. -/
noncomputable def runNext (s : State) : Out :=
  match dueEvent s, s.agenda with
  | some i, _ => thenDo (exec i s) fun t => .next (atRest t)
  | none, [] => runTurn (ownTurn s) { s with round := s.round + 1 }
  | none, t :: r => runTurn t { s with agenda := r }

end Sys2Proof.Machine
end

