-- ==== Sys2Proof/Machine/Boot.lean ====
section
/-! DEFINITION. A machine with one instruction placed where its next step fetches (log 5): what DEVICE.INIT, KEY.LOAD,
CONTEXT.CREATE, REGION.CREATE, LAUNCH, a placement and an admission leave, for a gang of 32 lanes with 128 registers. -/

namespace Sys2Proof.Machine

/-- Where the loader puts the page tables and the code, each 4 KiB. -/
def bootRoot : Nat := 0x100000
def bootCode : Nat := 0x104000

/-- The region control block's address. -/
def bootRcb : Nat := 0x105000

/-- An entry that names the next table, and the leaf of the code page: V, W, X, U, A, LEAF (R16). -/
def tableEntry (pa : Nat) : List Byte := bytesOf 8 (pa + 1)
def codeLeaf (pa : Nat) : List Byte := bytesOf 8 (pa + 0x5F)

/-- Four levels of tables that map the virtual page 0 to the code page. -/
def bootTables (s : State) : State :=
  let s := rawWrite s bootRoot (tableEntry (bootRoot + 0x1000))
  let s := rawWrite s (bootRoot + 0x1000) (tableEntry (bootRoot + 0x2000))
  let s := rawWrite s (bootRoot + 0x2000) (tableEntry (bootRoot + 0x3000))
  rawWrite s (bootRoot + 0x3000) (codeLeaf bootCode)

/-- The bytes of the packet: the instruction in slots 0 and 1, the rest zero. -/
def bootPacket (nbits w : Nat) : List Byte := bytesOf 8 (w % 2 ^ nbits) ++ bytesOf 4 0

/-- The first GiB of reach 0 is present, and key slot 0 holds a pair. -/
def bootDevice (s : State) : State :=
  { s with dev := { s.dev with boot := 2, populated := s.dev.populated.modify 0 (· ||| 1) },
           keys := if (getK 0 s.keys).isSome then s.keys else setK 0 1 s.keys }

def bootContext (n : Nat) : Context := { num := n, root := bootRoot, saveBase := 0, saveSlots := 0, used := [], pool := [] }

def bootRegion (n : Nat) : Region :=
  { pa := bootRcb, ctx := n, parent := 0, ovr := 0, fdom := 0, key := 0, prot := false, pol := false, prio := 0, lmq := 512,
    regq := 64, gangq := 64, coreMask := BitVec.allOnes 256, budget := [0, 0, 0, 0, 0, 0], trapBase := 0, spring := 0,
    queue := [], deficit := 0, reserved := none, suspended := false, balance := List.replicate 24 0 }

def bootGrid (uid n : Nat) : Grid :=
  { uid, ctx := n, region := bootRcb, codeBase := 0, entry := 0, wgs := 1, prot := false, pol := false, lmode := .measured,
    lease := 64, granules := 16, localBytes := 4096, dims := (1, 1, 1), wgdim := (32, 1, 1), args := 0, doneVa := 0,
    device := false, launcher := 0, launchFloor := 0, doneFail := none, placed := 0, retired := 0, stamp := 0,
    raster := none, masks := 0, laneRegs := [] }

/-- The launched gang, admitted, with its issue next on the agenda. -/
def bootLaunch (s : State) : State :=
  let n := s.contexts.length + 1
  let gr := bootGrid s.nextUid n
  let s := { s with contexts := s.contexts ++ [bootContext n], regions := bootRegion n :: s.regions, grids := s.grids ++ [gr],
                    nextUid := s.nextUid + 1 }
  let gang := s.nextUid + 1
  let s := placeFresh s gr 0 0 [0]
  let s := modGang s gang fun g => { g with sched := { g.sched with active := true } }
  { s with agenda := .issue 0 0 :: s.agenda }

/-- The machine with the instruction's words in the code page. -/
def bootWord (s : State) (nbits w : Nat) : State :=
  bootLaunch (rawWrite (bootTables (bootDevice s)) bootCode (bootPacket nbits w))

end Sys2Proof.Machine
end

