-- ==== Sys2Proof/Machine/Step.lean ====
section
/-! DEFINITION. The step of the machine, and an instruction placed where it fetches. -/

namespace Sys2Proof.Machine

/-- One step: the next turn of the agenda, which may be the issue of an instruction or chain, an event of the device, a command
of the firmware, or an input. -/
noncomputable def step (s : State) : Host.Outcome State Fault Refusal := runNext s

/-- s with the instruction stored where `step` fetches next (log 5). -/
def State.withFetchWord (s : State) (nbits w : Nat) : State := bootWord s nbits w

end Sys2Proof.Machine
end

