-- ==== Sys2Proof/Safety.lean ====
section
/-! DEFINITION. The words in which statements about the machine are made: when an instruction issues, what a register
instruction writes and what it leaves, where a span ends, and what holds between two steps. -/

namespace Sys2Proof.Machine

/-- The split of gang g issues the instruction of `it`: what every meaning of an instruction word starts from. -/
structure Issues (s : State) (it : Issue) (g : Gang) : Prop where
  issuing : s.iss = some it
  gang : gang? s it.gang = some g

/-- Nothing comes before the next instruction of the gang: the span has not met its limit, no error, STEP, replay or pending
fault is due, and lookahead is not used up. -/
structure Unhindered (s : State) (g : Gang) : Prop where
  limit : atLimit g = false
  queue : g.trap.queue = [] ∨ g.trap.nest = true ∨ endedBetween g = false
  stepDue : g.stepDue = false
  replay : g.trap.replay = none
  ahead : aheadFull s g.uid = false
  pending : g.trap.pending = none

/-- Between two steps no instruction is half performed. -/
def Quiet (s : State) : Prop := s.iss = none

/-- h is g with registers written: for each executing lane i, register p.1 of lane i holds p.2 for the entries p of `ws i`, a
written register is not poisoned, every other register of every lane is as before, and nothing else of the gang has
changed. -/
structure Writes (g h : Gang) (m : LaneMask) (ws : Nat → List (Nat × Word)) : Prop where
  written : ∀ i, i < 32 → m.getLsbD i = true → ∀ p ∈ ws i, getReg h p.1 i = p.2 ∧ regPoisoned h p.1 i = false
  kept : ∀ r i, i < 32 → ¬(m.getLsbD i = true ∧ r ∈ (ws i).map (·.1)) →
    getReg h r i = getReg g r i ∧ regPoisoned h r i = regPoisoned g r i
  rest : { h with regs := g.regs, regPoison := g.regPoison } = g

/-- The machine with gang h in place of the gang of its name, nothing else changed. -/
def withGangState (s : State) (h : Gang) : State := { s with gangs := s.gangs.map fun k => if k.uid = h.uid then h else k }

/-- The outcome is the next state in which the executing lanes of the issuing gang have written `ws`, and nothing else has
changed: no other gang, no byte of memory, no control register, the PC included (it stands after the chain already). -/
def Computes (s : State) (it : Issue) (g : Gang) (o : Out) (ws : Nat → List (Nat × Word)) : Prop :=
  ∃ h, o = .next (withGangState s h) ∧ gang? (withGangState s h) it.gang = some h ∧ Writes g h (execMask g it) ws

/-- One register of each executing lane. -/
def Computes1 (s : State) (it : Issue) (g : Gang) (o : Out) (d : Reg) (f : Nat → Word) : Prop :=
  Computes s it g o fun i => [(d.toNat, f i)]

/-- An even-aligned pair of each executing lane, low word first (R189). -/
def Computes2 (s : State) (it : Issue) (g : Gang) (o : Out) (d : Reg) (f : Nat → DWord) : Prop :=
  Computes s it g o fun i => [(d.toNat, (f i).extractLsb' 0 32), (d.toNat + 1, (f i).extractLsb' 32 32)]

/-- v is the lane mask of the executing lanes that meet c: bit k for lane k, or for lane 2k and k below 16 in protected mode
(R158, R215). -/
def IsLaneMask (g : Gang) (m : LaneMask) (c : Nat → Bool) (v : Word) : Prop :=
  ∀ k, k < 32 → v.getLsbD k =
    if g.prot then decide (k < 16) && m.getLsbD (2 * k) && c (2 * k) else m.getLsbD k && c k

/-- The flags that the executing lanes raise together (R165, R239). -/
def flagsOf (m : LaneMask) (f : Nat → LaneOut) : FlagSet := (lanesOf m).foldl (fun (e : FlagSet) i => e ||| (f i).flags) 0#8

/-- No executing lane raises an exception that FPCTL enables (R166). -/
def NoTrap (g : Gang) (m : LaneMask) (f : Nat → LaneOut) : Prop :=
  ∀ i, i < 32 → m.getLsbD i = true → enabled g (f i).flags = 0#8

/-- A floating-point outcome: the lanes' writes, and FPFLAGS with the raised flags ORed in (R165). The issue notes the raised
flags for a SYSWR of FPFLAGS in the same chain (R233). -/
def FpComputes (s : State) (it : Issue) (g : Gang) (o : Out) (f : Nat → LaneOut) : Prop :=
  let m := execMask g it
  let fl : Word := BitVec.zeroExtend 32 (flagsOf m f)
  ∃ h, o = .next { withGangState s { h with fpflags := g.fpflags ||| fl } with
      iss := some { it with raised := it.raised ||| fl } } ∧
    Writes g h m fun i => (f i).writes

/-- The FPX of R166: TRAPINFO the OR of the enabled exceptions raised, TRAPLANES the lanes that raised one. -/
def fpxTrap (g : Gang) (m : LaneMask) (f : Nat → LaneOut) : Trap :=
  let bad := (lanesOf m).filter fun i => enabled g (f i).flags != 0#8
  { cause := cFPX, info := BitVec.zeroExtend 32 (bad.foldl (fun (e : FlagSet) i => e ||| enabled g (f i).flags) 0#8),
    addr := none, lanes := some (maskOf bad) }

/-- What a floating-point instruction does (R166): the writes and flags of f, or FPX when some lane raises an enabled
exception. -/
def FpResult (s : State) (it : Issue) (g : Gang) (o : Out) (f : Nat → LaneOut) : Prop :=
  (NoTrap g (execMask g it) f → FpComputes s it g o f) ∧
    (¬NoTrap g (execMask g it) f → o = raise s (fpxTrap g (execMask g it) f))

/-- h is g with the slices changed that its split issues with, slice k by f k, and nothing else of the gang. -/
structure MovesSlices (g h : Gang) (split : Nat) (f : Nat → Slice → Slice) : Prop where
  rest : { h with slices := g.slices } = g
  slices : ∀ k, h.slices[k]? = g.slices[k]?.map fun sl =>
    if sl.split = split ∧ sl.ended = false ∧ sl.held = false then f k sl else sl

/-- The outcome is the next state in which the slices of the issuing split have moved, and nothing else has changed. -/
def Moves (s : State) (it : Issue) (g : Gang) (o : Out) (f : Nat → Slice → Slice) : Prop :=
  ∃ h, o = .next (withGangState s h) ∧ gang? (withGangState s h) it.gang = some h ∧ MovesSlices g h it.split f

/-- A slice sent to a target by an instruction at `own`: a target at or below it counts as a backward branch when a path of
the slice is pending (R150). -/
def sentTo (own target : DWord) (sl : Slice) : Slice :=
  { sl with pc := target, back := if target.toNat ≤ own.toNat ∧ hasPending sl.stack then sl.back + 1 else sl.back }

/-- The gang h has entered its handler from k (R364): the trap registers are written, NEST is 1, the slices of the split that
hold a lane of m form one split at TRAPBASE with those lanes, every other slice stands, the frame keeps PC, path and split
of every slice, the next span is empty, and nothing else of the gang has changed. -/
structure Entered (k h : Gang) (cause : BitVec 6) (info : Word) (pc : DWord) (split : Nat) (m : LaneMask) (async : Bool) :
    Prop where
  causeIs : h.trap.cause = BitVec.zeroExtend 32 cause
  infoIs : h.trap.info = info
  pcIs : h.trap.pc = pc
  nestIs : h.trap.nest = true
  asyncIs : h.trap.async = async
  baseIs : h.trap.base = k.trap.base
  noReplay : h.trap.replay = none
  enter : ∃ n, ∀ (i : Nat) (sl : Slice), k.slices[i]? = some sl →
    sl.split = split → sl.ended = false → sl.held = false → nibble m i ≠ 0#4 →
    h.slices[i]? = some { sl with pc := k.trap.base, path := nibble m i, split := n, wait := .none,
                                  back := if nibble m i = sl.path then sl.back else 0 }
  stand : ∀ (i : Nat) (sl : Slice), k.slices[i]? = some sl →
    (sl.split ≠ split ∨ sl.ended = true ∨ sl.held = true ∨ nibble m i = 0#4) → h.slices[i]? = some { sl with held := true }
  frameIs : ∃ f, h.trap.frame = some f ∧ f.trapPc = pc ∧
    f.slices.map (fun x => (x.pc, x.path, x.split, x.depth)) = k.slices.map fun x => (x.pc, x.path, x.split, x.stack.length)
  spanIs : h.span.count = 0 ∧ h.span.ver = [] ∧ h.span.reads = []
  rest : { h with slices := k.slices, trap := k.trap, sched := k.sched, span := k.span, ownerFail := k.ownerFail } = k

/-- The outcome is a next state v in which the gang `uid` is k, and nothing else differs from t: no other gang, no byte of
memory, no unit of the device. -/
def Leaves (t : State) (uid : Nat) (o : Out) (k : Gang) : Prop :=
  ∃ v, o = .next v ∧ gang? v uid = some k ∧ (∀ a, a ≠ uid → gang? v a = gang? t a) ∧ { v with gangs := t.gangs } = t

/-- The gang at the start of its next span, with nothing recorded and the checkpoint taken as it stands (R63). -/
def fresh (g : Gang) : Gang := { g with span := emptySpan g }

/-- The span of the issuing gang ends with a code, the gang standing before the instruction (R62): u is the machine after the
commit and k the gang in it. Nothing stands in the way: no transaction is open. -/
structure SpanEnds (s : State) (it : Issue) (g : Gang) (code : Nat) (u : State) (k : Gang) : Prop where
  issues : Issues s it g
  noTx : g.span.tx = none
  commit : commitSpan (setGang s (standBefore g it)) it.gang code = .done u
  gang : gang? u it.gang = some k

/-- A boundary instruction goes ahead (R62, R278, R367): the span before it is committed, the gang's engine instructions are
accepted, no queued error is delivered there; t is the machine with the split after the instruction, h the gang in it. -/
structure AtBoundary (s : State) (it : Issue) (g : Gang) (code : Nat) (t : State) (h : Gang) : Prop where
  issues : Issues s it g
  noTx : g.span.tx = none
  accepted : offersOpen s it.gang = false
  commit : ∃ u, commitSpan (setGang s (standBefore g it)) it.gang code = .done u ∧ deliverQueued u it.gang it.split = none ∧
    t = modGang u it.gang fun k => standAfter k it
  gang : gang? t it.gang = some h

/-- The outcome is a next state in which engine instructions stand offered on the cores named with them (R278), the gang
`uid` is k, and nothing else differs from t. -/
def Offered (t : State) (uid : Nat) (o : Out) (k : Gang) (ops : List (Nat × EngineOp)) : Prop :=
  ∃ v, o = .next v ∧ gang? v uid = some k ∧ (∀ a, a ≠ uid → gang? v a = gang? t a) ∧
    (∀ c, coreOf v c = { coreOf t c with offers := (coreOf t c).offers ++ (ops.filter (·.1 = c)).map (·.2) }) ∧
    { v with gangs := t.gangs, cores := t.cores, nextUid := t.nextUid } = t

/-- The matrix engine of a core can perform the instruction at a place of its queue: its rows are fetched, engine order and its
operands allow it, and its requests have issued (R61, R279, R280); g issued it, and it acts on the grant of p (R289). -/
structure Performs (s : State) (core pos : Nat) (o : EngineOp) (g p : Gang) : Prop where
  queued : (coreOf s core).engine[pos]? = some o
  fetched : mustFetch o = false
  order : mayPerform s (coreOf s core).engine pos o = true
  ready : operandsReady s o = true
  asked : (askOp s core o).2 = true
  issuer : gang? s o.gang = some g
  peer : gang? s o.peer = some p

/-- In v the accumulator cells of a core's engine are as in s but for the written ones, which hold the values given and are
not poisoned. -/
def CellsWritten (s v : State) (core : Nat) (gr : Grant) (ws : List (Nat × Nat × Word)) : Prop :=
  (∀ w ∈ ws, accGet (coreOf v core) gr w.1 w.2.1 = w.2.2 ∧
    (coreOf v core).accPoison.contains (accKey gr w.1 w.2.1) = false) ∧
  ∀ k, k ∉ ws.map (fun w => accKey gr w.1 w.2.1) →
    readK 0#32 k (coreOf v core).acc = readK 0#32 k (coreOf s core).acc ∧
    ((coreOf v core).accPoison.contains k = (coreOf s core).accPoison.contains k)

/-- A read through x leaves the machine's memory as it is and meets no poison: the page's A bit is set, it is not cached in
the L1, and its line is clean of poison (R24, R27, R58). -/
structure PlainRead (t : State) (x : Xlat) : Prop where
  marked : setAD t x false = t
  uncached : pteCL x.pte ≠ 0
  page : x.poison = false
  line : lineOf x.pa ∉ t.linePoison

/-- A requester's requests for the lines of these translations have issued, at most one for each line (R53, R61): t is s with
their charges. -/
def Granted (s t : State) (who : Asker) (region : Nat) (xs : List Xlat) : Prop := askLines s who region xs = (t, true)

/-- No gang holds anything of a surface in its span, so that no write of a page table and no rollback touches memory on its
account (R136). -/
def NoPins (s : State) : Prop := ∀ g ∈ s.gangs, g.span.pins = [] ∧ g.span.moves = []

/-- No span has recorded anything: a hand-over finds no span to end (R84). -/
def IdleSpans (s : State) : Prop :=
  ∀ g ∈ s.gangs, g.span.ver = [] ∧ g.span.pins = [] ∧ g.span.moves = [] ∧ g.span.reads = [] ∧ g.span.sigReads = [] ∧
    g.span.formReads = [] ∧ g.span.touched = [] ∧ g.span.ovf = false

/-- A step that changes one gang alone: `uid` becomes k, everything else of t stands. -/
def OnlyGang (t v : State) (uid : Nat) (k : Gang) : Prop :=
  gang? v uid = some k ∧ (∀ a, a ≠ uid → gang? v a = gang? t a) ∧ { v with gangs := t.gangs } = t

end Sys2Proof.Machine
end

