-- ==== Sys2Proof/Certificates/Slice0/Obligations.lean ====
section
/-! DEFINITION. The statements about the machine that the provers answer. -/

open Sys2Proof Sys2Proof.Machine

/-- R187, R188, R190, R191, R202. -/
def Obligations.DecodeWords : Prop :=
  decode 0 0b00000010000000001100000010000010#32 0 = .ok (.iadd 3 1 2) ∧
  decode 2 0b00010000000101000010011111111111#32 0 = .ok (.iaddi 5 4 0b11111111111#11) ∧
  decode 1 0b00101000011000000100000100000011#32 0 = .ok (.ffma 1 2 3) ∧
  decode 2 0b00111000000000111111111111111111#32 0 = .ok (.bra 0b111111111111111111#18) ∧
  decode 0 0b01001001010100010000010000011110#32 0xFFFFFFFC#32 = .ok (.ld ⟨some 0xFFFFFFFC#32, 5, 8, 2, 7, 2⟩) ∧
  decode 0 0b01110010000000000001010001001101#32 0 = .ok (.barInit (.basin 1 5) 9) ∧
  decode 0 0b01111100101000010000001010000110#32 0 = .ok (.spring 37 4 5 6) ∧
  decode 0 0#32 0 = .error .unassignedMajor ∧
  decode 0 0b00111000000001000000000000000000#32 0 = .error .reserved ∧
  decode 0 0b00000110000000000100000100000100#32 0 = .error .misalignedField

/-- R187 to R193. -/
def Obligations.RoundTrip : Prop :=
  ∀ (i : Instr) (c : Bool) (w : Word) (r : List Word) (x : Word) (slot : Nat), i.wellFormed = true → encode c i = w :: r →
    (r = [] ∨ r = [x]) → (slot ≠ 2 ∨ r = []) → decode slot w x = .ok i ∧ fChain w = c ∧ wordCount w = 1 + r.length

/-- R187, R189, R201, R202. -/
def Obligations.DecodeExact : Prop :=
  ∀ (slot : Nat) (w x : Word) (i : Instr), decode slot w x = .ok i →
    encode (fChain w) i = wordsOf w x ∧ majorAssigned (fMajor w).toNat = true ∧ i.aligned = true ∧ ¬(needsSecond w = true ∧ slot = 2) ∧
    ∀ (slot' : Nat) (w' x' : Word), decode slot' w' x' = .ok i → fChain w' = fChain w → w' = w ∧ (needsSecond w = true → x' = x)

/-- R382 to R384. -/
def Obligations.FirmwareRoundTrip : Prop :=
  ∀ (i : Instr) (e : BitVec 512),
    (encodeCommand i = some e → decodeCommandRaw e = some i ∧ (i.wellFormed = true → commandLayoutOK e i = true)) ∧
    (commandLayoutOK e i = true → encodeCommand i = some e)

/-- R151, R180, R181, R184, R197. -/
def Obligations.StepRunsDecoded : Prop :=
  ∀ (s s1 : State) (g : Gang) (core part split : Nat) (r : List Turn) (p : Packet) (i : Instr),
    s.agenda = .issue core part :: r → dueEvent s = none →
    let s0 := { s with agenda := r }
    let pc := splitPc g split
    let k := pc.toNat % 4
    let w := p.word k
    let npc := nextPc p.addr (k + wordCount w)
    let at' := p.addr + BitVec.ofNat 64 k
    let counted := (boundaryCode i).isNone
    let h := startIssue g split npc p counted
    let s2 := { setGang s1 h with iss := some (mkIssue h split at' npc none) }
    pick s0 core part = some (g, split) → Unhindered s0 g → packetFor s0 g split pc = .ok s1 p → gang? s1 g.uid = some g →
    decodeFor s1 g k w (p.word (k + 1)) = .ok i → fChain w = false → privFault i = none →
    rangeFault g.alloc (usesOf s1 g i).touches = none → g.regPoison = [] → g.prot = false → stillExecutes s2 = true →
    step s = thenDo (exec i s2) (afterChain s1 g 1 counted)

/-- R381, R387, R388, and the base of `QuietKept`; log 1 and log 2 for what the spec leaves open. -/
def Obligations.ResetState : Prop :=
  let s := State.reset
  s.dev.boot = 0#2 ∧ s.dev.qEn = false ∧ s.dev.sqTail = 0 ∧ s.dev.sqHead = 0 ∧ s.dev.serving = none ∧ s.waiting = [] ∧ s.contexts = [] ∧ s.regions = [] ∧ s.grids = [] ∧
    s.cohorts = [] ∧ s.gangs = [] ∧ s.copies = [] ∧ s.favoured = none ∧ s.errors = [] ∧ (∀ k, keyPair s k = none) ∧
    (∀ a, memByte s a = 0#8) ∧ Memory.wf s.mem = true ∧ Quiet s ∧
    ∀ (n w : Nat), Quiet (s.withFetchWord n w)

/-- R151, R184. -/
def Obligations.QuietKept : Prop := ∀ s t : State, step s = .next t → Quiet t

/-- R5, R29, R30. -/
def Obligations.MemoryLaws : Prop :=
  (∀ (s : State) (key pa : Nat) (bs : List Byte), (keyPair s key).isSome →
    let t := writeBytes s key pa bs
    readBytes t key pa bs.length = bs ∧
    (∀ a, ¬(pa ≤ a ∧ a < pa + bs.length) → readByte t key a = readByte s key a) ∧
    (∀ key' a, (∀ j, j < bs.length → lineOf (pa + j) ≠ lineOf a) → readByte t key' a = readByte s key' a) ∧
    (Memory.wf s.mem = true → Memory.wf t.mem = true)) ∧
  ∀ n v : Nat, natOfBytes (bytesOf n v) = v % 2 ^ (8 * n)

/-- R149, R150, R182, R224, R226 to R228. -/
def Obligations.Branches : Prop :=
  ∀ (s : State) (it : Issue) (g : Gang) (r : Reg) (off : BitVec 18), Issues s it g →
    let m := execMask g it
    let target : DWord := (it.pc &&& 0xFFFFFFFFFFFFFFFC#64) + 12#64 * off.signExtend 64
    let l := (leader m).getD 0
    let pair : DWord := getReg g (r.toNat + 1) l ++ getReg g r.toNat l
    exec .nop s = .next s ∧
    Moves s it g (exec (.bra off) s) (fun _ => sentTo it.pc target) ∧
    (packetAddr g pair = true → Moves s it g (exec (.jmpi r) s) (fun _ => sentTo it.pc pair)) ∧
    (validPc g pair = true → Moves s it g (exec (.ret r) s) (fun _ => sentTo it.pc pair)) ∧
    (∃ h h', exec (.call r off) s = .next (withGangState s h') ∧ gang? (withGangState s h') it.gang = some h' ∧
      Writes g h m (fun _ => [(r.toNat, it.npc.extractLsb' 0 32), (r.toNat + 1, it.npc.extractLsb' 32 32)]) ∧
      MovesSlices h h' it.split fun _ sl => { sl with pc := target }) ∧
    Moves s it g (exec .join s) fun _ sl =>
      match sl.stack with
      | .pending p q :: .join q' none :: e => { sl with pc := p, path := q, stack := .join q' (some sl.pc) :: e, back := 0, wait := .none }
      | .pending p q :: e => { sl with pc := p, path := q, stack := e, back := 0, wait := .none }
      | .join q _ :: e => { sl with path := q, stack := e, back := 0, wait := .none }
      | [] => sl

/-- R147, R149, R158, R225. -/
def Obligations.DivergingBranch : Prop :=
  ∀ (s : State) (it : Issue) (g : Gang) (r : Reg) (off : BitVec 18), Issues s it g →
    let target : DWord := (it.pc &&& 0xFFFFFFFFFFFFFFFC#64) + 12#64 * off.signExtend 64
    let v := getReg g r.toNat ((leader (execMask g it)).getD 0)
    ∃ taken : LaneMask, (∀ i, i < 32 → taken.getLsbD i = v.getLsbD (if g.prot then i / 2 else i)) ∧
    ∃ h, MovesSlices g h it.split (fun k sl =>
        let t := nibble taken k &&& sl.path
        if t = 0#4 then sl
        else if t = sl.path then sentTo it.pc target sl
        else { sl with path := sl.path &&& ~~~t, stack := .pending target t :: .join sl.path none :: sl.stack, back := 0,
                       wait := .none }) ∧
      exec (.brm r off) s =
        if 64 < (h.slices.map fun sl => sl.stack.length - 16).sum then
          raise s { cause := cILLEGAL, info := 0x10#32, addr := none, lanes := none }
        else .next (withGangState s h)

/-- R150, R152, R230; log 58 for which splits and gangs go before the one that yields, the model's choice. -/
def Obligations.RegangAndYield : Prop :=
  ∀ (s : State) (it : Issue) (g : Gang), Issues s it g →
    let mine := fun sl : Slice => sl.split = it.split ∧ sl.ended = false ∧ sl.held = false
    let away := fun sl : Slice => sl.ended = true ∨ sl.held = true
    let here := ∀ sl ∈ g.slices, away sl ∨ sl.split = it.split ∨ (sl.wait = .regang ∧ sl.pc = it.pc)
    ((∃ sl ∈ g.slices, mine sl ∧ sl.stack ≠ []) →
      exec .regang s = raise s { cause := cILLEGAL, info := 0x11#32, addr := none, lanes := none }) ∧
    ((∃ sl ∈ g.slices, mine sl) → (∀ sl ∈ g.slices, mine sl → sl.stack = []) →
      ∃ h, exec .regang s = .next (withGangState s h) ∧
        { h with slices := g.slices, sched := g.sched, stepDue := g.stepDue, trap := g.trap } = g ∧
        { h.trap with pending := g.trap.pending } = g.trap ∧
        (here → ∃ n, ∀ k : Nat, h.slices[k]? = g.slices[k]?.map fun sl =>
          if sl.ended = true ∨ sl.held = true then sl else { sl with split := n, wait := .none, pc := nextPc it.pc 1 }) ∧
        (¬here → ∀ k : Nat, h.slices[k]? = g.slices[k]?.map fun sl =>
          if sl.split = it.split ∧ sl.ended = false ∧ sl.held = false then { sl with wait := .regang, pc := it.pc } else sl)) ∧
    ∃ k h, exec .yield s = .next (withGangState s h) ∧
      MovesSlices g k it.split (fun _ sl =>
        match splitPending sl.stack with
        | none => sl
        | some (above, (p, q), below) =>
          { sl with pc := p, path := q, stack := .pending sl.pc sl.path :: (above ++ below), back := 0, wait := .none }) ∧
      h = { settle k with sched := { g.sched with yields := h.sched.yields } } ∧ h.regs = g.regs ∧
      let pends := fun sl : Slice => ∃ p q, .pending p q ∈ sl.stack
      let rest := g.sched.yields.filter (·.1 != it.split)
      ((∀ sl ∈ g.slices, mine sl → pends sl) → h.sched.yields = rest) ∧
      ∀ (j : Nat) (sl x : Slice), g.slices[j]? = some sl → mine sl → ¬pends sl → h.slices[j]? = some x →
        (∀ i, i < j → ∀ y, g.slices[i]? = some y → mine y → pends y) →
        ∃ gangs, h.sched.yields = (x.split, (readySplits (settle k)).filter (· != x.split), gangs) :: rest ∧ gangs = (s.gangs.filter fun k => k.core == g.core && k.gangid % 4 == g.gangid % 4 && k.uid != g.uid && k.sched.active && canIssue k).map (·.uid)

/-- R363 to R366; log 81 for the backward-branch count of a slice that enters, the model's choice. -/
def Obligations.TrapEntry : Prop :=
  ∀ (s u : State) (it : Issue) (g k : Gang) (t : Trap), SpanEnds s it g 6 u k → it.replay = none → g.trap.pending = none →
    k.freeze = false →
    ∃ v h, raise s t = .next v ∧ gang? v it.gang = some h ∧ v.mem = u.mem ∧
      (∀ a, a ≠ it.gang → k.trap.nest = false → handlerUsable k = true → gang? v a = gang? u a) ∧
      (k.trap.nest = false → handlerUsable k = true → Entered k h t.cause t.info it.pc it.split (execMask g it) false ∧
        (∀ a, t.addr = some a → h.trap.addr = a) ∧ ∀ l, t.lanes = some l → h.trap.lanes = if t.cause = cCOPY then l else visMask k l) ∧
      (k.trap.nest = true ∨ handlerUsable k = false → h.ended = true ∧ h.trap.cause = 0x14#32 ∧ h.trap.pc = it.pc ∧
        h.trap.info = ((if k.trap.nest then (k.trap.cause &&& 0x3F#32) <<< 24 else 0#32) |||
          (BitVec.zeroExtend 32 t.cause <<< 16) ||| (t.info &&& 0xFF#32)))

/-- R232, R366; log 21 for the end of the handler's span at RTT, the model's choice. -/
def Obligations.TrapReturn : Prop :=
  ∀ (s : State) (it : Issue) (g : Gang), Issues s it g →
    (g.trap.frame = none → exec .rtt s = raise s { cause := cILLEGAL, info := 0x20#32, addr := none, lanes := none }) ∧
    ∀ f, g.trap.frame = some f →
      (rttOK g f it.split = false → exec .rtt s = raise s { cause := cILLEGAL, info := 0x2A#32, addr := none, lanes := none }) ∧
      (rttOK g f it.split = true → g.trap.pending = none → ∀ (u : State) (k : Gang), SpanEnds s it g 6 u k → k.trap = g.trap → k.trap.queue = [] →
        (g.trap.pc = f.trapPc ∨ validPc g g.trap.pc = true) →
        ∃ v h, exec .rtt s = .next v ∧ gang? v it.gang = some h ∧ v.mem = u.mem ∧
          h.trap.nest = false ∧ h.trap.async = false ∧ h.trap.frame = none ∧
          h.trap.replay = (if k.trap.pc = f.trapPc then f.record else none) ∧
          h.regs = k.regs ∧ h.fpctl = k.fpctl ∧ h.fpflags = k.fpflags ∧
          ∀ (i : Nat) (sl : Slice) (fs : FrameSlice), k.slices[i]? = some sl → f.slices[i]? = some fs →
            (sl.ended = false ∨ sl.held = true) →
            ∃ sl', h.slices[i]? = some sl' ∧ sl'.path = fs.path ∧ sl'.wait = fs.wait ∧ sl'.held = false ∧ sl'.ended = fs.ended ∧
              sl'.stack = sl.stack ∧
              sl'.pc = if fs.entered = false then fs.pc
                else if k.trap.pc ≠ f.trapPc then k.trap.pc
                else match f.record with
                  | some r => if fs.split = r.split then r.resume else fs.pc
                  | none => k.trap.pc)

/-- R182, R205, R218, R231, R364; log 81 for the backward-branch count of a slice that enters, the model's choice. -/
def Obligations.TrapConditions : Prop :=
  (∀ (s u : State) (it : Issue) (g k : Gang) (n : BitVec 14), Issues s it g → g.trap.pending = none → g.span.tx = none →
      commitSpan s it.gang 6 = .done u → gang? u it.gang = some k → k.trap.nest = false → handlerUsable k = true → k.freeze = false →
      ∀ p ∈ [(Instr.trap n, 0x12#6), (Instr.brk n, 0x11#6)],
        ∃ v h, exec p.1 s = .next v ∧ gang? v it.gang = some h ∧ v.mem = u.mem ∧ (∀ a, a ≠ it.gang → gang? v a = gang? u a) ∧
          Entered k h p.2 (n.zeroExtend 32) (splitPc g it.split) it.split (splitMask g it.split) false) ∧
  (∀ (s : State) (it : Issue) (g : Gang) (d a : Reg) (csr : BitVec 12), Issues s it g →
      let l := (leader (execMask g it)).getD 0
      let pair : DWord := getReg g (a.toNat + 1) l ++ getReg g a.toNat l
      (0x800 ≤ csr.toNat → ∀ i ∈ [Instr.sysrd d csr, Instr.syswr d csr],
        exec i s = raise s { cause := 0x04#6, info := csr.zeroExtend 32, addr := none, lanes := none }) ∧
      (packetAddr g pair = false →
        exec (.jmpi a) s = raise s { cause := 0x05#6, info := 2#32, addr := some pair, lanes := none }) ∧
      (validPc g pair = false →
        exec (.ret a) s = raise s { cause := 0x05#6, info := 2#32, addr := some pair, lanes := none })) ∧
  ∀ (s : State) (it : Issue) (g : Gang) (d a b : Reg) (j : Nat), Issues s it g →
    let bad := fun l => (execMask g it).getLsbD l = true ∧ g.alloc ≤ (getReg g a.toNat l).toNat
    j < 32 → bad j → (∀ l, l < j → ¬ bad l) →
    ∃ lanes : LaneMask, (∀ l, l < 32 → (lanes.getLsbD l = true ↔ bad l)) ∧
      let x := getReg g a.toNat j
      let t : Trap := { cause := cREGRANGE, info := 0x100#32 + BitVec.ofNat 32 (x.toNat % 128), addr := some (x.zeroExtend 64),
                        lanes := some lanes }
      exec (.rdind d a) s = raise s t ∧ exec (.wrind a b) s = raise s t

/-- R80, R141, R157, R158, R204, R205, R275, R350, R363; log 24 for the instruction that SPANSTAT.COUNT includes, the model's
choice. -/
def Obligations.CsrReads : Prop :=
  (∀ (s : State) (it : Issue) (g : Gang) (d : Reg) (csr : BitVec 12), Issues s it g → csr.toNat < 0x800 →
    ¬(csr = 0x111#12 ∧ engineOpen s it.gang = true) →
    Computes1 s it g (exec (.sysrd d csr) s) d fun i => csrRead s it.pre (execMask g it) i csr.toNat) ∧
  (∀ (s : State) (it : Issue) (g : Gang) (d : Reg), Issues s it g →
    ∃ h, exec (.sysrdCyclelo d) s =
        .next (withGangState s { h with cycleLatch := BitVec.ofNat 32 (coreCycle s g.core / 2 ^ 32) }) ∧
      Writes g h (execMask g it) fun _ => [(d.toNat, BitVec.ofNat 32 (coreCycle s g.core))]) ∧
  ∀ (s : State) (g : Gang) (m : LaneMask) (i : Nat),
    let R := fun c => csrRead s g m i c
    (∀ p ∈ [(0x000, BitVec.ofNat 32 (if g.prot then i / 2 else i)), (0x001, BitVec.ofNat 32 (i / 4)),
      (0x002, BitVec.ofNat 32 g.gangid), (0x010, BitVec.ofNat 32 g.core), (0x011, BitVec.ofNat 32 (g.core / 4)),
      (0x012, BitVec.ofNat 32 (g.core / 64)), (0x020, BitVec.ofNat 32 (coreCycle s g.core)), (0x021, g.cycleLatch),
      (0x110, g.fpctl), (0x111, g.fpflags), (0x130, BitVec.ofNat 32 g.alloc), (0x140, BitVec.ofNat 32 g.grant.base),
      (0x200, g.trap.base.extractLsb' 0 32), (0x201, g.trap.cause), (0x202, g.trap.pc.extractLsb' 0 32),
      (0x203, g.trap.pc.extractLsb' 32 32), (0x204, g.trap.addr.extractLsb' 0 32), (0x205, g.trap.addr.extractLsb' 32 32),
      (0x206, g.trap.lanes), (0x207, g.trap.info), (0x209, g.trap.raceCsn.extractLsb' 0 32), (0x20A, g.trap.raceCsn.extractLsb' 32 32),
      (0x20B, g.trap.raceSrc), (0x20C, g.trap.base.extractLsb' 32 32), (0x00E, 0), (0x102, 0), (0x7FF, 0)], R p.1 = p.2) ∧
    (∀ k, k < 32 → (R 0x100).getLsbD k = (if g.prot then decide (k < 16) && m.getLsbD (2 * k) else m.getLsbD k)) ∧
    (∀ k, k < 32 → let live := g.live &&& g.launchMask
      (R 0x101).getLsbD k = (if g.prot then decide (k < 16) && live.getLsbD (2 * k) else live.getLsbD k)) ∧
    (g.lease.meas < 2 ^ 12 → g.lease.decl < 2 ^ 12 →
      (R 0x120).toNat / 2 ^ 16 = g.lease.meas ∧ (R 0x120).toNat % 2 ^ 16 = g.lease.decl) ∧
    R 0x121 = (match g.lease.mode with | .measured => 0 | .declared => 1 | .floor => 2) ∧
    (g.grant.base + g.grant.rows < 2 ^ 9 → g.grant.panels.length < 2 ^ 3 → g.grant.scales.length / 16 < 2 ^ 6 →
      (R 0x141).toNat = if g.grant.rows = 0 ∧ g.grant.panels = [] ∧ g.grant.scales = [] then 0
        else g.grant.scales.length / 16 * 2 ^ 20 + g.grant.panels.length * 2 ^ 16 + (g.grant.base + g.grant.rows)) ∧
    ((R 0x150).getLsbD 31 = g.span.tx.isSome ∧ (R 0x150).getLsbD 30 = g.span.exact ∧ (R 0x150).getLsbD 29 = g.span.locate ∧
      (R 0x150).getLsbD 28 = decide (s.favoured = some g.uid) ∧ (R 0x150).getLsbD 27 = g.span.ovf ∧
      (R 0x150).getLsbD 26 = g.span.pol ∧ (R 0x150).toNat % 2 ^ 17 = g.span.count % 2 ^ 17 ∧
      (R 0x150).toNat / 2 ^ 22 % 2 ^ 4 = g.span.restarts % 16 ∧ (R 0x150).toNat / 2 ^ 19 % 2 ^ 3 = g.span.lastEnd % 8) ∧
    ((R 0x160).getLsbD 0 = g.sstep ∧ (R 0x160).getLsbD 1 = g.freeze ∧ (R 0x160).getLsbD 2 = g.deadsrc ∧
      (R 0x160).getLsbD 7 = g.prot) ∧
    ((R 0x208).getLsbD 0 = g.trap.nest ∧ (R 0x208).getLsbD 1 = g.trap.async ∧ (R 0x208).getLsbD 7 = g.trap.qovf ∧
      (R 0x208).toNat / 16 % 8 = g.trap.queue.length % 8) ∧
    ∀ c gr, cohortOf s g = some c → grid? s c.grid = some gr →
      R 0x003 = BitVec.ofNat 32 (gr.wgs * (c.number % gr.dims.1) + g.wg) ∧
      R 0x004 = BitVec.ofNat 32 (c.number / gr.dims.1 % gr.dims.2.1) ∧
      R 0x005 = BitVec.ofNat 32 (c.number / (gr.dims.1 * gr.dims.2.1)) ∧ R 0x006 = BitVec.ofNat 32 c.number ∧
      R 0x007 = BitVec.ofNat 32 (c.number / 2 ^ 32 % 2 ^ 16) ∧
      R 0x008 = BitVec.ofNat 32 gr.dims.1 ∧ R 0x009 = BitVec.ofNat 32 gr.dims.2.1 ∧ R 0x00A = BitVec.ofNat 32 gr.dims.2.2 ∧
      R 0x00B = BitVec.ofNat 32 gr.wgdim.1 ∧ R 0x00C = BitVec.ofNat 32 gr.wgdim.2.1 ∧ R 0x00D = BitVec.ofNat 32 gr.wgdim.2.2

/-- R7, R157, R165, R204, R233, R239. -/
def Obligations.CsrWrites : Prop :=
  ∀ (s : State) (it : Issue) (g : Gang) (d : Reg) (csr : BitVec 12), Issues s it g →
    let v := getReg g d.toNat ((leader (execMask g it)).getD 0)
    let T := fun t : TrapState => { g with trap := t }
    let sets := fun (i : Instr) (h : Gang) => exec i s = .next (withGangState s h)
    sets (.syswr d 0x110#12) { g with fpctl := v &&& 0x1F03#32 } ∧
    sets (.syswr d 0x200#12) (T { g.trap with base := g.trap.base.extractLsb' 32 32 ++ v }) ∧
    sets (.syswr d 0x20C#12) (T { g.trap with base := (v &&& 0x00FFFFFF#32) ++ g.trap.base.extractLsb' 0 32 }) ∧
    sets (.syswr d 0x202#12) (T { g.trap with pc := g.trap.pc.extractLsb' 32 32 ++ v }) ∧
    sets (.syswr d 0x203#12) (T { g.trap with pc := v ++ g.trap.pc.extractLsb' 0 32 }) ∧
    (csr.toNat < 0x800 → csr ∉ [0x110#12, 0x200#12, 0x20C#12, 0x202#12, 0x203#12] → sets (.syswr d csr) g) ∧
    (engineOpen s it.gang = false → sets (.syswrFpflags d) { g with fpflags := (it.pre.fpflags &&& ~~~v) ||| it.raised }) ∧
    sets (.syswrGangctl d) { g with
      sstep := v.getLsbD 0, freeze := v.getLsbD 1, deadsrc := (it.pre.deadsrc && !v.getLsbD 2) || it.rdead }

/-- R42, R92, R266, R268, R269; log 2 for the declared lease after MEASURED. -/
def Obligations.FencesLeasesRegisters : Prop :=
  (∀ (s t : State) (it : Issue) (g h : Gang) (sc : Scope), AtBoundary s it g 0 t h →
    let acq := { h with floor := max h.floor h.pendFloor,
                        acq := if sc = .cohort ∨ sc = .dev ∨ sc = .sys then t.now else h.acq }
    Leaves t it.gang (exec (.fenceAcq sc) s) (fresh acq) ∧
    Leaves t it.gang (exec (.fenceRel sc) s) (fresh { h with relFloor := h.floor, fenceFloor := h.floor }) ∧
    Leaves t it.gang (exec (.fenceSc sc) s) (fresh { acq with relFloor := acq.floor, fenceFloor := acq.floor })) ∧
  (∀ (s : State) (it : Issue) (g : Gang) (d : Reg) (mode : LeaseMode), Issues s it g →
    let n := (getReg g d.toNat ((leader (execMask g it)).getD 0)).toNat
    let L := fun l : Lease => Host.Outcome.next (withGangState s { g with lease := l })
    exec (.leaseSet d .measured) s = L { g.lease with decl := 0, mode := .measured, changed := true } ∧
    (mode ≠ .measured → (n < 16 ∨ 2048 < n) →
      exec (.leaseSet d mode) s = raise s { cause := cILLEGAL, info := 0x21#32, addr := none, lanes := none }) ∧
    (mode ≠ .measured → 16 ≤ n → n ≤ 2048 →
      exec (.leaseSet d mode) s = L { g.lease with decl := (n + 15) / 16 * 16, mode, changed := true }) ∧
    ∃ w, Computes1 s it g (exec (.leaseGet d) s) d (fun _ => w) ∧
      ∀ lines, lines ≤ 2048 →
        lines = (if g.lease.apMode = .measured then g.lease.meas
          else if g.lease.apMode = .declared then g.lease.apDecl else max g.lease.apDecl g.lease.meas) →
        w.getLsbD 31 = decide (1792 < lines) ∧ w.toNat / 2 ^ 16 % 2 ^ 15 = min 32767 g.lease.lost ∧
        w.toNat / 2 ^ 14 % 4 = (match g.lease.mode with | .measured => 0 | .declared => 1 | .floor => 2) ∧
        w.toNat % 2 ^ 14 = lines) ∧
  ∀ (s t : State) (it : Issue) (g h : Gang) (d : Reg), AtBoundary s it g 2 t h → engineOpen t it.gang = false →
    let n := ((getReg h d.toNat ((leader (execMask h it)).getD 0)).toNat + 7) / 8 * 8
    let illegal := fun (i : Instr) (c : Word) => exec i s = raise t { cause := cILLEGAL, info := c, addr := none, lanes := none }
    let resized := fun (k : Gang) (low high : Nat) => { k with regs := h.regs, regPoison := h.regPoison } = { h with alloc := n } ∧
      ∀ r i, i < 32 → (r < low → getReg k r i = getReg h r i) ∧ (low ≤ r → r < high → getReg k r i = 0)
    ((n = 0 ∨ 128 < n) → illegal (.regsGrow d) 0x22#32 ∧ illegal (.regsShrink d) 0x22#32) ∧
    (0 < n → n ≤ 128 →
      (heldRegq t (regionOf t h) < n / 8 → illegal (.regsGrow d) 0x23#32) ∧
      (h.alloc ≤ n → Leaves t it.gang (exec (.regsShrink d) s) (fresh h)) ∧
      (n < h.alloc → ∃ k, Leaves t it.gang (exec (.regsShrink d) s) (fresh k) ∧ resized k n 128) ∧
      (n / 8 ≤ heldRegq t (regionOf t h) → n ≤ h.alloc → Leaves t it.gang (exec (.regsGrow d) s) (fresh h)) ∧
      (n / 8 ≤ heldRegq t (regionOf t h) → h.alloc < n →
        (growersOf t h.core (h.gangid % 4) = [] → n / 8 - h.alloc / 8 ≤ freeGranules t h.core (h.gangid % 4) →
          ∃ k, Leaves t it.gang (exec (.regsGrow d) s) (fresh k) ∧ resized k h.alloc 128) ∧
        ((growersOf t h.core (h.gangid % 4) ≠ [] ∨ freeGranules t h.core (h.gangid % 4) < n / 8 - h.alloc / 8) →
          ∃ v k, exec (.regsGrow d) s = .next v ∧ gang? v it.gang = some k ∧ k.regs = h.regs ∧ k.alloc = h.alloc ∧
            k.sched.active = false ∧ k.sched.wait = .grow n it.split ∧ (it.gang, n) ∈ (coreOf v h.core).growers ∧ v.mem = t.mem)))

/-- R78, R79, R267. -/
def Obligations.Transactions : Prop :=
  (∀ (s t : State) (it : Issue) (g h : Gang) (d : Reg), AtBoundary s it g 1 t h →
    let m := execMask h it
    let back := h.span.txNext = some (it.split, it.pc)
    ∃ k, Writes h k m (fun _ => [(d.toNat, if back then 4#32 else 0#32)]) ∧
      Leaves t it.gang (exec (.spanOpen d) s)
        { k with span := { emptySpan h with tx := some ⟨d, m, it.pc, it.npc, it.split⟩,
                                            txNext := if back then none else h.span.txNext } }) ∧
  (∀ (s u : State) (it : Issue) (g k : Gang), Issues s it g → offersOpen s it.gang = false →
    commitSpan (setGang s (standBefore g it)) it.gang 1 = .done u → deliverQueued u it.gang it.split = none →
    gang? u it.gang = some k → Leaves u it.gang (exec .spanClose s) (fresh (standAfter k it))) ∧
  ∀ (s : State) (it : Issue) (g : Gang) (i : Instr) (tx : TxInfo), Issues s it g → g.span.tx = some tx →
    (boundaryCode i).isSome → i ≠ .spanClose →
    ∃ v k, exec i s = .next v ∧ gang? v it.gang = some k ∧ k.span.tx = none ∧ k.span.ver = [] ∧ k.alloc = g.span.chk.alloc ∧
      (v.iss.map (·.stopped)) = some true ∧
      (∀ l, l < 32 → (tx.mask &&& g.live &&& g.launchMask).getLsbD l = true → getReg k tx.d.toNat l = 3#32) ∧
      ∀ r l, l < 32 → ¬(r = tx.d.toNat ∧ (tx.mask &&& g.live &&& g.launchMask).getLsbD l = true) →
        getReg k r l = readK 0#32 (r * 32 + l) g.span.chk.regs

/-- R153, R156, R229. -/
def Obligations.ExitAndRegangWg : Prop :=
  (∀ (s t : State) (it : Issue) (g h : Gang), AtBoundary s it g 0 t h → engineOpen t it.gang = false →
    let left := h.launchMask &&& ~~~(execMask h it)
    (h.live &&& left = 0#32 → ∃ v k, exec .exit s = .next v ∧ gang? v it.gang = some k ∧ k.ended = true ∧ k.launchMask = left ∧
      k.regs = h.regs ∧ v.mem = t.mem) ∧
    (h.live &&& left ≠ 0#32 → h.ended = false →
      (∃ x ∈ t.gangs, x.uid ≠ h.uid ∧ x.cohort = h.cohort ∧ x.wg = h.wg ∧ x.ended = false ∧
        ∃ sl ∈ x.slices, sl.ended = false ∧ sl.wait ≠ .regangWg) →
      ∃ v k, exec .exit s = .next v ∧ gang? v it.gang = some k ∧ k.ended = false ∧ k.launchMask = left ∧ k.regs = h.regs ∧
        k.span.count = 0 ∧ v.mem = t.mem)) ∧
  ∀ (s t : State) (it : Issue) (g h : Gang), AtBoundary s it g 0 t h →
    let mine := fun sl : Slice => sl.split = it.split ∧ sl.ended = false ∧ sl.held = false
    let w := setGang t (parkIfStuck (waitSlices h it .regangWg))
    ((∃ sl ∈ h.slices, mine sl ∧ sl.stack ≠ []) →
      exec .regangWg s = raise t { cause := cILLEGAL, info := 0x11#32, addr := none, lanes := none }) ∧
    ((∀ sl ∈ h.slices, mine sl → sl.stack = []) →
      (wgArrived (w.gangs.filter fun x => x.cohort == h.cohort && x.wg == h.wg && !x.ended) = false →
        ∃ v k, exec .regangWg s = .next v ∧ gang? v it.gang = some k ∧ k.regs = h.regs ∧ v.mem = t.mem ∧
          ∀ n : Nat, k.slices[n]? = h.slices[n]?.map fun sl =>
            if sl.split = it.split ∧ sl.ended = false ∧ sl.held = false then { sl with wait := .regangWg, pc := it.pc } else sl) ∧
      (wgArrived (w.gangs.filter fun x => x.cohort == h.cohort && x.wg == h.wg && !x.ended) = true →
        (∀ x ∈ t.gangs, x.uid ≠ h.uid → x.cohort = h.cohort → x.wg = h.wg → x.span.begun = false ∧ x.span.tx = none) →
        ∃ v, exec .regangWg s = .next v ∧ ∀ k ∈ v.gangs, k.cohort = h.cohort → k.wg = h.wg → k.ended = false →
          k.span.count = 0 ∧ ∀ sl ∈ k.slices, sl.wait = .none))

/-- R270 to R273; log 25 for the stamp of an object, the model's choice. -/
def Obligations.Barriers : Prop :=
  ∀ (s t : State) (it : Issue) (g h : Gang) (bar : BarName) (b : Reg), AtBoundary s it g 0 t h →
    let v := getReg h b.toNat ((leader (execMask h it)).getD 0)
    let w := (barTarget h bar).1
    let name := (barTarget h bar).2
    let bad := fun (i : Instr) (c : Word) => exec i s = raise t { cause := 0x0E#6, info := c, addr := none, lanes := none }
    let forms := [Instr.barExpect bar b, .barArrive bar, .barWait bar, .barTest b bar]
    (barWg t h.cohort w = none → bad (.barInit bar b) 2 ∧ ∀ i ∈ forms, bad i 2) ∧
    ∀ x, barWg t h.cohort w = some x →
      ((v.toNat / 2 ^ 30 = 3 ∨ v.toNat / 2 ^ 8 % 2 ^ 22 ≠ 0) → bad (.barInit bar b) 7) ∧
      (getK name x.names = none → ∀ i ∈ forms, bad i 1) ∧
      (v.toNat / 2 ^ 30 ≠ 3 → v.toNat / 2 ^ 8 % 2 ^ 22 = 0 → getK name x.names = none →
        ((∀ o, o < 128 → (barObj t x.core o).isSome) → bad (.barInit bar b) 6) ∧
        ∀ o, o < 128 → barObj t x.core o = none → (∀ j, j < o → (barObj t x.core j).isSome) →
          ∃ u k ob, exec (.barInit bar b) s = .next u ∧ boundObj u h.cohort w name = some (x.core, o) ∧
            barObj u x.core o = some ob ∧ ob.e = v.toNat % 256 ∧ ob.arr = v.toNat % 256 ∧ ob.bytes = 0 ∧ ob.phase = 0 ∧
            ob.part = (if v.toNat / 2 ^ 30 = 1 then ((gangsOf t h.cohort).filter fun y => y.wg == h.wg).map (·.uid)
              else if v.toNat / 2 ^ 30 = 2 then (gangsOf t h.cohort).map (·.uid) else []) ∧
            gang? u it.gang = some k ∧ k.regs = h.regs ∧ u.mem = t.mem ∧ ∀ y ∈ u.gangs, (barRec y x.core o).w = 0) ∧
      ∀ o ob, getK name x.names = some o → barObj t x.core o = some ob →
        let busy := (∃ y ∈ t.gangs, ∃ sp, y.sched.wait = .barrier x.core o sp) ∨ ob.arrived = true ∨ ob.bytes ≠ 0
        (v.toNat / 2 ^ 30 ≠ 3 → v.toNat / 2 ^ 8 % 2 ^ 22 = 0 →
          (busy → bad (.barInit bar b) 3) ∧
          (¬busy → ∃ u k ob', exec (.barInit bar b) s = .next u ∧ boundObj u h.cohort w name = some (x.core, o) ∧
            barObj u x.core o = some ob' ∧ ob'.e = v.toNat % 256 ∧ ob'.arr = v.toNat % 256 ∧ ob'.bytes = 0 ∧ ob'.phase = 0 ∧
            ob'.part = (if v.toNat / 2 ^ 30 = 1 then ((gangsOf t h.cohort).filter fun y => y.wg == h.wg).map (·.uid)
              else if v.toNat / 2 ^ 30 = 2 then (gangsOf t h.cohort).map (·.uid) else []) ∧
            gang? u it.gang = some k ∧ k.regs = h.regs ∧ u.mem = t.mem ∧ ∀ y ∈ u.gangs, (barRec y x.core o).w = 0)) ∧
        let done := fun (ob' : BarObj) => if ob'.arr = 0 ∧ ob'.bytes = 0
          then { ob' with phase := (ob'.phase + 1) % 2 ^ 32, arr := ob'.e, arrived := false } else ob'
        let goes := fun (u : State) (ob' : BarObj) => barObj u x.core o = some (done ob') ∧ u.mem = t.mem ∧
          ∀ a y sp, a ≠ it.gang → gang? t a = some y → y.sched.wait = .barrier x.core o sp → ob'.arr = 0 → ob'.bytes = 0 →
            later (done ob').phase (barRec y x.core o).w = true →
            ∃ y', gang? u a = some y' ∧ y'.sched.wait = .none ∧ (barRec y' x.core o).w = (done ob').phase ∧
              y'.floor = max y.floor ob'.stamp ∧ y'.regs = y.regs
        (2 ^ 31 - 1 < ob.bytes + (v.toNat : Int) → bad (.barExpect bar b) 5) ∧
        (ob.bytes + (v.toNat : Int) ≤ 2 ^ 31 - 1 → ∃ u k, exec (.barExpect bar b) s = .next u ∧
          (v ≠ 0 → ob.e ≠ 0 → goes u { ob with bytes := ob.bytes + v.toNat }) ∧
          ((v = 0 ∨ ob.e = 0) → barObj u x.core o = some { ob with bytes := ob.bytes + v.toNat } ∧ u.mem = t.mem) ∧
          gang? u it.gang = some k ∧ k.regs = h.regs ∧ (h.sched.wait = .none → (barRec k x.core o).w = ob.phase)) ∧
        (ob.arr = 0 → bad (.barArrive bar) 4) ∧
        (ob.arr ≠ 0 → ∃ u k, exec (.barArrive bar) s = .next u ∧
          goes u { ob with arr := ob.arr - 1, stamp := max ob.stamp h.floor, arrived := true } ∧ gang? u it.gang = some k ∧
          k.regs = h.regs ∧ k.relFloor = h.floor ∧
          (h.sched.wait = .none → barRec k x.core o = ⟨x.core, o, ob.phase, ob.phase⟩)) ∧
        (later ob.phase (barRec h x.core o).w = true →
          (∃ k, Leaves t it.gang (exec (.barWait bar) s) (fresh k) ∧ { k with bars := h.bars } =
            { h with floor := max h.floor ob.stamp, acq := t.now } ∧ (barRec k x.core o).w = ob.phase) ∧
          ∃ k k', Leaves t it.gang (exec (.barTest b bar) s) (fresh k) ∧ { k' with bars := h.bars } =
              { h with floor := max h.floor ob.stamp, acq := t.now } ∧ (barRec k' x.core o).w = ob.phase ∧
            Writes k' k (execMask h it) fun _ => [(b.toNat, 1)]) ∧
        (later ob.phase (barRec h x.core o).w = false →
          (∃ u k, exec (.barWait bar) s = .next u ∧ gang? u it.gang = some k ∧ k.sched.active = false ∧
            k.sched.wait = .barrier x.core o it.split ∧ k.regs = h.regs ∧ u.mem = t.mem) ∧
          ∃ k, Leaves t it.gang (exec (.barTest b bar) s) (fresh k) ∧ Writes h k (execMask h it) fun _ => [(b.toNat, 0)])

/-- R39, R42, R65 to R67, R256. -/
def Obligations.TrackedAccess : Prop :=
  ∀ (s : State) (uid n : Nat) (x : Xlat) (bs : List Byte) (g : Gang), gang? s uid = some g →
    (∀ c ∈ (coreOf s g.core).l1, c.data.length = 128) → x.pa % 128 + n ≤ 128 →
    let own := fun j => getK (x.pa + j) g.span.ver
    let mixed := fun j => (List.range 4).any fun q => (getK ((x.pa + j) / 4 * 4 + q) g.span.ver).isSome
    let kept := fun (t : State) => t.mem = s.mem ∧ t.lineKey = s.lineKey ∧ t.keys = s.keys ∧ ∀ a, a ≠ uid → gang? t a = gang? s a
    let same := fun (k : Gang) => { k with span := g.span, lease := g.lease, seen := g.seen } = g
    (let r := trackedLoad s uid x n;
      r.2.1.length = n ∧
      (∀ j, j < n → r.2.1[j]? = some (match own j with
        | some b => b
        | none => if pteCL x.pte = 0 ∧ mixed j = false then
            match cacheHit (coreOf s g.core).l1 (lineOf x.pa) (pteKey x.pte) g.acq with
            | some c => c.data.getD (x.pa % 128 + j) 0
            | none => readByte s (pteKey x.pte) (x.pa + j)
          else readByte s (pteKey x.pte) (x.pa + j))) ∧
      kept r.1 ∧
      ∃ k, gang? r.1 uid = some k ∧ same k ∧ k.span.ver = g.span.ver ∧ k.span.tx = g.span.tx ∧ k.span.chk = g.span.chk ∧
        ((∀ j, j < n → (own j).isSome) ∨
          (∃ e ∈ k.span.reads, e.line = lineOf x.pa ∧
            ∀ j, j < n → own j = none → e.words.getLsbD ((x.pa + j) % 128 / 4) = true) ∨
          (lineOf x.pa ∈ k.span.sigReads ∧ k.span.ovf = true))) ∧
    (let t := trackedStore s uid x bs;
      kept t ∧ ∃ k, gang? t uid = some k ∧ same k ∧ k.span.reads = g.span.reads ∧ k.span.chk = g.span.chk ∧
        ∀ a, getK a k.span.ver = if x.pa ≤ a ∧ a < x.pa + bs.length then bs[a - x.pa]? else getK a g.span.ver)

/-- R24, R190, R253, R254, R256. -/
def Obligations.LoadsAndStores : Prop :=
  (∀ (s : State) (it : Issue) (g : Gang) (m : MemOp) (x : Nat → Xlat), Issues s it g →
    let lanes := lanesOf (execMask g it)
    let l := (leader (execMask g it)).getD 0
    let base : DWord := match it.replay with
      | some r => r.base
      | none => (getReg g (2 * m.base.toNat + 1) l ++ getReg g (2 * m.base.toNat) l : DWord) + (m.x.getD 0).signExtend 64
    let ea : Nat → Nat → DWord := fun n i => base + (if m.off = 0#7 then 0 else (getReg g m.off.toNat i).signExtend 64 * BitVec.ofNat 64 n)
    let region := regionOf s g
    let pas := lanes.map fun i => (x i).pa
    g.live &&& g.launchMask ≠ 0#32 → g.span.locate = false → touchesStores s it.gang pas = false →
    (∀ i ∈ lanes, (x i).poison = false) →
    let entry := fun a => ∃ i ∈ lanes, (x i).entry ≤ a ∧ a < (x i).entry + 8
    let kept := fun (t : State) => (∀ a, ¬entry a → memByte t a = memByte s a) ∧ ∀ a, a ≠ it.gang → gang? t a = gang? s a
    (∀ p ∈ [(Instr.ld m, 2 ^ m.sz.toNat, false), (Instr.lds m, if m.sz = 3#2 then 16 else 2 ^ m.sz.toNat, true)],
      (∀ i ∈ lanes, laneCheck s g .load p.2.1 (ea p.2.1 i) = .ok (x i)) → g.span.exact = false →
      (∀ i ∈ lanes, lineOf (x i).pa ∉ s.linePoison) →
      ∀ u, Granted s u (.gang it.gang it.split) region (homeReads s g p.2.1 (lanes.map fun i => (ea p.2.1 i, x i))) →
      let v := lanes.foldl (fun t i => modGang (setAD (trackedLoad t it.gang (x i) p.2.1).1 (x i) false) it.gang fun k =>
        loadInto k m.d p.2.2 (trackedLoad t it.gang (x i) p.2.1).2.1 i) u
      exec p.1 s = .next v ∧ kept v ∧ ∃ k, gang? v it.gang = some k ∧ k.span.ver = g.span.ver ∧
        { k with regs := g.regs, regPoison := g.regPoison, span := g.span, lease := g.lease, seen := g.seen } = g ∧
        ∀ r i, i < 32 → ¬(i ∈ lanes ∧ m.d.toNat ≤ r ∧ r < m.d.toNat + max 1 (p.2.1 / 4)) → getReg k r i = getReg g r i) ∧
    (∀ p ∈ [(Instr.st m, 2 ^ m.sz.toNat), (Instr.stq m, 16)],
      (∀ i ∈ lanes, laneCheck s g .store p.2 (ea p.2 i) = .ok (x i)) → ∀ u, storeGate s g it pas = .go u →
      let v := lanes.foldl (fun t i => setAD (trackedStore t it.gang (x i) (storeBytes g m.d p.2 i)) (x i) true) u
      exec p.1 s = .next v ∧ kept v ∧ ∃ k, gang? v it.gang = some k ∧ { k with span := g.span } = g ∧ k.span.reads = g.span.reads ∧
        (∀ a, (∀ i ∈ lanes, ¬((x i).pa ≤ a ∧ a < (x i).pa + p.2)) → getK a k.span.ver = getK a g.span.ver) ∧
        ∀ i ∈ lanes, ∀ q, q < p.2 →
          (∀ j ∈ lanes, i < j → ¬((x j).pa ≤ (x i).pa + q ∧ (x i).pa + q < (x j).pa + p.2)) →
          getK ((x i).pa + q) k.span.ver = some ((getReg g (m.d.toNat + q / 4) i).extractLsb' (8 * (q % 4)) 8))) ∧
  ∀ (k : Gang) (d : Reg) (sgn : Bool) (bs : List Byte) (i : Nat), i < 32 →
    (bs.length = 1 ∨ bs.length = 2 → getReg (loadInto k d sgn bs i) d.toNat i =
      if sgn then (BitVec.ofNat (8 * bs.length) (natOfBytes bs)).signExtend 32 else BitVec.ofNat 32 (natOfBytes bs)) ∧
    ∀ q, 4 * q + 4 ≤ bs.length →
      getReg (loadInto k d sgn bs i) (d.toNat + q) i = BitVec.ofNat 32 (natOfBytes ((bs.drop (4 * q)).take 4))

/-- R44, R70, R92, R95, R253, R259 to R261, R264; log 3 for when the home slice performs a read early, the model's choice. -/
def Obligations.HomeAccesses : Prop :=
  let loaded := fun (k : Gang) (d : Reg) (n i : Nat) (bs : List Byte) =>
    (n < 4 → getReg k d.toNat i = BitVec.ofNat 32 (natOfBytes bs)) ∧
    ∀ q, q < n / 4 → getReg k (d.toNat + q) i = BitVec.ofNat 32 (natOfBytes ((bs.drop (4 * q)).take 4))
  (∀ (s : State) (it : Issue) (g : Gang) (m : MemOp) (x : Nat → Xlat), Issues s it g →
    let lanes := lanesOf (execMask g it)
    let n := if m.sz = 0#2 then 1 else 2 ^ (m.sz.toNat + 1)
    let base := globalBase g it (execMask g it) m.base m.x
    let entry := fun a => ∃ i ∈ lanes, (x i).entry ≤ a ∧ a < (x i).entry + 8
    let kept := fun (t : State) => (∀ a, ¬entry a → memByte t a = memByte s a) ∧ ∀ a, a ≠ it.gang → gang? t a = gang? s a
    (∀ i ∈ lanes, laneCheck s g .load n (globalEa g base m.off n i) = .ok (x i) ∧ (x i).poison = false ∧
      lineOf (x i).pa ∉ s.linePoison) → g.live &&& g.launchMask ≠ 0#32 →
    (∃ u, Granted s u (.gang it.gang it.split) (regionOf s g) (lanes.map x)) →
    ∃ v k st, exec (.ldByp m) s = .next v ∧ kept v ∧ gang? v it.gang = some k ∧ k.pendFloor = max g.pendFloor st ∧
      { k with regs := g.regs, regPoison := g.regPoison, pendFloor := g.pendFloor, seen := g.seen } = g ∧
      (∀ l, (∀ i ∈ lanes, lineOf (x i).pa ≠ l) → seenAt k l = seenAt g l) ∧
      (∀ r i, i < 32 → ¬(i ∈ lanes ∧ m.d.toNat ≤ r ∧ r < m.d.toNat + max 1 (n / 4)) → getReg k r i = getReg g r i) ∧
      ((∀ i ∈ lanes, earlyFor g (x i) = none) →
        (∀ i ∈ lanes, stampAt s (x i).pa n ≤ st) ∧ (st = 0 ∨ ∃ i ∈ lanes, st = stampAt s (x i).pa n) ∧
        ∀ i ∈ lanes, (∀ a, entry a → lineOf a ≠ lineOf (x i).pa) →
          loaded k m.d n i (readBytes s (pteKey (x i).pte) (x i).pa n)) ∧
      ∀ i e, lanes = [i] → earlyFor g (x i) = some e →
        st = ((e.stamps.drop ((x i).pa % 128)).take n).foldl max 0 ∧
        (n ≤ (e.data.drop ((x i).pa % 128)).length → loaded k m.d n i ((e.data.drop ((x i).pa % 128)).take n))) ∧
  (∀ (s : State) (it : Issue) (g : Gang) (m : MemOp), Issues s it g →
    let xs := (lanesOf (execMask g it)).filterMap fun i =>
      prefLane s g (globalEa g (globalBase g it (execMask g it) m.base m.x) m.off 128 i)
    ∀ p ∈ [(Instr.prefL1 m, xs.filter (missesL1 s g)), (.prefLlc m, xs)],
    (∃ u, Granted s u (.gang it.gang it.split) (regionOf s g) p.2) →
    ∃ v k, exec p.1 s = .next v ∧ gang? v it.gang = some k ∧ { k with lease := g.lease } = g ∧
      ∀ a, (∀ y ∈ xs, ¬(y.entry ≤ a ∧ a < y.entry + 8)) → memByte v a = memByte s a) ∧
  ∀ (s t : State) (it : Issue) (g h : Gang) (m : MemOp) (sc : Scope) (x : Nat → Xlat), AtBoundary s it g 0 t h →
    let lanes := lanesOf (execMask h it)
    let n := 2 ^ m.sz.toNat
    let base := globalBase h it (execMask h it) m.base m.x
    let entry := fun a => ∃ i ∈ lanes, (x i).entry ≤ a ∧ a < (x i).entry + 8
    lanes ≠ [] → h.live &&& h.launchMask ≠ 0#32 →
    ((∀ i ∈ lanes, laneCheck t h .loadNormal n (globalEa h base m.off n i) = .ok (x i) ∧ (x i).poison = false ∧
        lineOf (x i).pa ∉ t.linePoison) → (∃ u, Granted t u (.gang it.gang it.split) (regionOf t h) (lanes.map x)) →
      h.span.early = [] →
      ∃ v k st, exec (.ldAcq sc m) s = .next v ∧ gang? v it.gang = some k ∧ k.floor = max h.floor st ∧
        (∀ i ∈ lanes, stampAt t (x i).pa n ≤ st) ∧ (st = 0 ∨ ∃ i ∈ lanes, st = stampAt t (x i).pa n) ∧
        k.acq = (if sc = .cohort ∨ sc = .dev ∨ sc = .sys then t.now else h.acq) ∧ k.span.count = 0 ∧
        (∀ a, ¬entry a → memByte v a = memByte t a) ∧
        (∀ r i, i < 32 → ¬(i ∈ lanes ∧ m.d.toNat ≤ r ∧ r < m.d.toNat + max 1 (n / 4)) → getReg k r i = getReg h r i) ∧
        ∀ i ∈ lanes, (∀ a, entry a → lineOf a ≠ lineOf (x i).pa) →
          loaded k m.d n i (readBytes t (pteKey (x i).pte) (x i).pa n)) ∧
    ((∀ i ∈ lanes, laneCheck t h .store n (globalEa h base m.off n i) = .ok (x i) ∧ (x i).poison = false ∧
        (keyPair t (pteKey (x i).pte)).isSome ∧ (x i).pa % n = 0) →
      favourBlocks t (some it.gang) (coveredBytes n (lanes.map fun i => (i, globalEa h base m.off n i, x i))) [] = false →
      (∀ k ∈ t.gangs, k.span.pins = [] ∧ k.span.moves = []) →
      ∃ v k, exec (.stRel sc m) s = .next v ∧ gang? v it.gang = some k ∧ k.regs = h.regs ∧ k.relFloor = h.floor ∧ k.span.count = 0 ∧
        (∀ key a, (∀ b, entry b → lineOf a ≠ lineOf b) → (∀ i ∈ lanes, lineOf a ≠ lineOf (x i).pa) →
          readByte v key a = readByte t key a) ∧
        (∀ a, (∀ i ∈ lanes, ¬((x i).pa ≤ a ∧ a < (x i).pa + n)) → readK 0 a v.relStamp = readK 0 a t.relStamp) ∧
        ∀ i ∈ lanes, ∀ q, q < n → readK 0 ((x i).pa + q) v.relStamp = h.floor ∧
          ((∀ b, entry b → lineOf b ≠ lineOf (x i).pa) →
            (∀ j ∈ lanes, i < j → ¬((x j).pa ≤ (x i).pa + q ∧ (x i).pa + q < (x j).pa + n)) →
            readByte v (pteKey (x i).pte) ((x i).pa + q) = (getReg h (m.d.toNat + q / 4) i).extractLsb' (8 * (q % 4)) 8))

/-- R70, R91, R92, R262, R263; log 83 for the stamp that a read-modify-write leaves, the model's choice. -/
def Obligations.Atomics : Prop :=
  (∀ (w : Nat) (old c n : BitVec w),
    atomNew .add old c n = some (old + c) ∧ atomNew .xchg old c n = some c ∧
    (old = c → atomNew .cas old c n = some n) ∧ (old ≠ c → atomNew .cas old c n = none) ∧
    atomNew .and old c n = some (old &&& c) ∧ atomNew .or old c n = some (old ||| c) ∧ atomNew .xor old c n = some (old ^^^ c) ∧
    (∃ r, atomNew .min old c n = some r ∧ r.toInt = min old.toInt c.toInt) ∧
    (∃ r, atomNew .max old c n = some r ∧ r.toInt = max old.toInt c.toInt) ∧
    (∃ r, atomNew .minu old c n = some r ∧ r.toNat = min old.toNat c.toNat) ∧
    ∃ r, atomNew .maxu old c n = some r ∧ r.toNat = max old.toNat c.toNat) ∧
  ∀ (s t : State) (it : Issue) (g h : Gang) (a : AtomArgs), AtBoundary s it g 0 t h → h.live &&& h.launchMask ≠ 0#32 →
    let lanes := lanesOf (execMask h it)
    let n := if a.dbl then 8 else 4
    let dest := fun (k : Gang) => ∀ r i, i < 32 → ¬(i ∈ lanes ∧ a.d.toNat ≤ r ∧ r < a.d.toNat + n / 4) → getReg k r i = getReg h r i
    -- lanes at one location in turn: their old values so far, the location's bytes, and whether one has written them
    let turns := fun (grp : List Nat) (bytes : List Byte) =>
      grp.foldl (fun (z : List (Nat × List Byte) × List Byte × Bool) j => match atomBytes a h j z.2.1 with
        | some bs => (z.1 ++ [(j, z.2.1)], bs, true)
        | none => (z.1 ++ [(j, z.2.1)], z.2.1, z.2.2)) ([], bytes, false)
    let taken := fun (k : Gang) (olds : List (Nat × List Byte)) => ∀ p ∈ olds, ∀ q, q < n / 4 →
      getReg k (a.d.toNat + q) p.1 = BitVec.ofNat 32 (natOfBytes ((p.2.drop (4 * q)).take 4))
    lanes ≠ [] →
    (∀ x : Nat → Xlat,
      let base := globalBase h it (execMask h it) a.base none
      let entry := fun b => ∃ i ∈ lanes, (x i).entry ≤ b ∧ b < (x i).entry + 8
      (∀ i ∈ lanes, laneCheck t h .store n (globalEa h base a.off n i) = .ok (x i) ∧ (x i).poison = false ∧
        lineOf (x i).pa ∉ t.linePoison ∧ (keyPair t (pteKey (x i).pte)).isSome) →
      favourBlocks t (some it.gang) (coveredBytes n (lanes.map fun i => (i, globalEa h base a.off n i, x i))) [] = false →
      (∃ u, Granted t u (.gang it.gang it.split) (regionOf t h) (lanes.map x)) →
      ∃ v k, exec (.atom a) s = .next v ∧ gang? v it.gang = some k ∧ dest k ∧ k.span.count = 0 ∧
        ((a.ord = .acq ∨ a.ord = .acqRel) → h.floor ≤ k.floor) ∧
        ((∀ y ∈ t.gangs, y.span.pins = [] ∧ y.span.moves = []) →
          (∀ key b, (∀ e, entry e → lineOf e ≠ lineOf b) → (∀ i ∈ lanes, lineOf (x i).pa ≠ lineOf b) →
            readByte v key b = readByte t key b) ∧
          ∀ i ∈ lanes, (∀ j ∈ lanes, x j = x i ∨ lineOf (x j).pa ≠ lineOf (x i).pa) →
            (∀ e, entry e → lineOf e ≠ lineOf (x i).pa) →
            let z := turns (lanes.filter fun j => x j = x i) (readBytes t (pteKey (x i).pte) (x i).pa n)
            taken k z.1 ∧ readBytes v (pteKey (x i).pte) (x i).pa n = z.2.1 ∧
            (z.2.2 = true → ((a.ord = .rel ∨ a.ord = .acqRel) → k.relFloor = h.floor) ∧
              ∀ q, q < n → readK 0 ((x i).pa + q) v.relStamp = max (readK 0 ((x i).pa + q) t.relStamp)
                (if a.ord = .rel ∨ a.ord = .acqRel then h.floor else if a.ord = .relaxed then h.relFloor else h.fenceFloor)))) ∧
    (∀ y : Nat → LocalAddr,
      let base := localBase h it (execMask h it) a.base none
      (∀ i ∈ lanes, localCheck t h n (localEa h base a.off n i) = .ok (y i) ∧
        localPoisoned t h.cohort (y i).wg (y i).off n = false) →
      (∀ i ∈ lanes, overlaps t h.cohort (y i).wg (y i).off ((y i).off + n) = []) →
      ∃ v k, exec (.atoml a) s = .next v ∧ gang? v it.gang = some k ∧ dest k ∧ k.span.count = 0 ∧ v.mem = t.mem ∧
        (∀ w o, (∀ i ∈ lanes, ¬((y i).wg = w ∧ (y i).off ≤ o ∧ o < (y i).off + n)) →
          localByte v h.cohort w o = localByte t h.cohort w o) ∧
        ∀ i ∈ lanes, (∀ j ∈ lanes, y j = y i ∨ (y j).wg ≠ (y i).wg ∨ (y j).off + n ≤ (y i).off ∨ (y i).off + n ≤ (y j).off) →
          let z := turns (lanes.filter fun j => y j = y i) (localBytes t h.cohort (y i).wg (y i).off n)
          taken k z.1 ∧ localBytes v h.cohort (y i).wg (y i).off n = z.2.1)

/-- R31, R46, R190, R253, R257. -/
def Obligations.LocalAccesses : Prop :=
  ∀ (s : State) (it : Issue) (g : Gang) (m : MemOp) (y : Nat → LocalAddr), Issues s it g → g.live &&& g.launchMask ≠ 0#32 →
    let lanes := lanesOf (execMask g it)
    let l := (leader (execMask g it)).getD 0
    let n := 2 ^ m.sz.toNat
    let base : DWord := match it.replay with
      | some r => r.base
      | none => (getReg g (2 * m.base.toNat) l + m.x.getD 0).zeroExtend 64
    let ea : Nat → Word := fun i =>
      (base + (if m.off = 0#7 then 0 else (getReg g m.off.toNat i).signExtend 64 * BitVec.ofNat 64 n)).extractLsb' 0 32
    (∀ i ∈ lanes, (ea i).toNat % n = 0 ∧ localOk s g.cohort (localAddr (ea i)) = true ∧ y i = localAddr (ea i)) →
    (∀ i ∈ lanes, overlaps s g.cohort (y i).wg (y i).off ((y i).off + n) = []) →
    ((∀ i ∈ lanes, localPoisoned s g.cohort (y i).wg (y i).off n = false) →
      ∃ k, Leaves s it.gang (exec (.ldl m) s) k ∧ Writes g k (execMask g it) fun i =>
        let bs := localBytes s g.cohort (y i).wg (y i).off n
        if n < 4 then [(m.d.toNat, BitVec.ofNat 32 (natOfBytes bs))]
        else (List.range (n / 4)).map fun q => (m.d.toNat + q, BitVec.ofNat 32 (natOfBytes ((bs.drop (4 * q)).take 4)))) ∧
    ∃ v, exec (.stl m) s = .next v ∧ v.mem = s.mem ∧ v.gangs = s.gangs ∧
      (∀ w o, (∀ i ∈ lanes, ¬((y i).wg = w ∧ (y i).off ≤ o ∧ o < (y i).off + n)) →
        localByte v g.cohort w o = localByte s g.cohort w o) ∧
      ∀ i ∈ lanes, ∀ q, q < n → (∀ j ∈ lanes, i < j → ¬((y j).wg = (y i).wg ∧ (y j).off ≤ (y i).off + q ∧ (y i).off + q < (y j).off + n)) →
        localByte v g.cohort (y i).wg ((y i).off + q) = (getReg g (m.d.toNat + q / 4) i).extractLsb' (8 * (q % 4)) 8

/-- R278, R282, R284, R286, R289 to R293. -/
def Obligations.EngineIssue : Prop :=
  (∀ (s t : State) (it : Issue) (g h : Gang) (la : BitVec 4) (a b : Reg), AtBoundary s it g 2 t h →
    let m := execMask h it
    let w := uniform h m b.toNat
    let x := uniform h m a.toNat
    let low := tileWord h it m a
    let va := tilePair h it m a
    let E := fun (i : Instr) (v : Verdict) (k : Work) (y : DWord) =>
      v = .pass → Offered t it.gang (exec i s) (fresh h) [(h.core, mkOp t h k la y w)]
    let L := fun (i : Instr) (v : Verdict) (k : Work) (ps : List (DWord × Nat)) =>
      ∀ xs, v = .pass → checkPieces t h .load ps = (.pass, xs) → ∃ v o, exec i s = .next v ∧ gang? v it.gang = some (fresh h) ∧
        (∀ c, c ≠ it.gang → gang? v c = gang? t c) ∧ (coreOf v h.core).offers = (coreOf t h.core).offers ++ [o] ∧
        { o with walks := [] } = { mkOp t h k la va w with pieces := xs.map fun y => (y.1.pa, y.1.pte, y.2) } ∧
        xs.map (·.2) = ps.map (·.2) ∧ (∀ y ∈ ps.zip xs, laneCheck t h .load 1 y.1.1 = .ok y.2.1) ∧
        ∀ p, (∀ y ∈ xs, ¬(y.1.entry ≤ p ∧ p < y.1.entry + 8)) → memByte v p = memByte t p
    (∀ (func : BitVec 4) (flags : BitVec 3),
      E (.mma la func a b flags) (mmaVerdict t h func low w) (.mma func flags) (low.zeroExtend 64) ∧
      (mmaBVerdict t h func low w = .pass → (∀ q, q < 4 → q ≠ h.wg → (peerOf t h q).isSome) ∧
        Offered t it.gang (exec (.mmaB la func a b flags) s) (fresh h) ((List.range 4).filterMap fun q =>
          (peerOf t h q).map fun p => (p.core, { mkOp t h (.mmaB func flags) la (low.zeroExtend 64) w with peer := p.uid })))) ∧
    E (.accZero la b) (arwVerdict h w) .zero 0 ∧
    E (.accFromlm la a b) (lmVerdict t h low w) .fromLm (low.zeroExtend 64) ∧
    (∀ fmt, E (.accCvt la fmt a b) (cvtVerdict h fmt x w) (.cvt fmt) (x.zeroExtend 64)) ∧
    (∀ zp, E (.scacc la zp a b) (scaccVerdict h x w) (.scacc zp) (x.zeroExtend 64)) ∧
    L (.accLd la a b) ((arwVerdict h w).andThen (alignVerdict va 16)) .load (linesOf va (4 * (parseArw w).rows * (parseArw w).width)) ∧
    L (.tscaleBind la a b) (bindVerdict h va w) .bind (linesOf va (4 * bindCount w)) ∧
    L (.wbufLd la a b) (fillVerdict h va w) (.fill false) ((List.range (parseFill w).cols).flatMap fun j =>
      linesOf (va + BitVec.ofNat 64 ((parseFill w).stride * j)) 144) ∧
    L (.wbufLdsp la a b) (fillVerdict h va w) (.fill true) ((List.range (parseFill w).cols).flatMap fun j =>
      linesOf (va + BitVec.ofNat 64 ((parseFill w).stride * j)) 120)) ∧
  (∀ (s : State) (it : Issue) (g : Gang) (la : BitVec 4) (a b : Reg), Issues s it g →
    let m := execMask g it
    let w := uniform g m b.toNat
    let low := tileWord g it m a
    let va := tilePair g it m a
    (lmVerdict s g low w = .pass →
      Offered s it.gang (exec (.accTolm la a b) s) g [(g.core, mkOp s g .toLm la (low.zeroExtend 64) w)]) ∧
    ∀ xs, accStWords g va w = .pass → checkPieces s g .store (linesOf va (parseArw w).size) = (.pass, xs) →
      raceTrap g 4 (pieceWords ((leader m).getD 0) (linesOf va (parseArw w).size) xs) = none → storeOpGate s g xs = .go s →
      ∃ v o, exec (.accSt la a b) s = .next v ∧ v.gangs = s.gangs ∧ (coreOf v g.core).offers = (coreOf s g.core).offers ++ [o] ∧
        { o with walks := [] } = { mkOp s g .store la va w with pieces := xs.map fun y => (y.1.pa, y.1.pte, y.2) } ∧
        ∀ p, (∀ y ∈ xs, ¬(y.1.entry ≤ p ∧ p < y.1.entry + 8)) → memByte v p = memByte s p) ∧
  ∀ (va : DWord) (n : Nat), (∀ p ∈ linesOf va n, 0 < p.2 ∧ p.1.toNat % 128 + p.2 ≤ 128) ∧
    ((linesOf va n).flatMap fun p => (List.range p.2).map fun q => p.1 + BitVec.ofNat 64 q) =
      (List.range n).map fun q => va + BitVec.ofNat 64 q

/-- R274 to R276, R354. -/
def Obligations.AccWindow : Prop :=
  let clean := fun (v : State) (core : Nat) (gr : Grant) =>
    (∀ r c, r < gr.rows → c < 256 → accGet (coreOf v core) gr r c = 0 ∧ (coreOf v core).accPoison.contains (accKey gr r c) = false) ∧
    (∀ p, p < gr.panels.length → ∀ q, q < 256 → slotBytes (coreOf v core) gr p q = List.replicate 192 0#8) ∧
    ∀ e, e < gr.scales.length → scaleGet (coreOf v core) gr e = 0
  let free := fun (t : State) (core : Nat) (w : Word) (gr : Grant) =>
    gr.rows = fld w 0 9 ∧ gr.panels.length = fld w 16 3 ∧ gr.scales.length = 16 * fld w 20 6 ∧ gr.fills = [] ∧
    gr.base + gr.rows ≤ 256 ∧
    (∀ k ∈ grantsOn t core, (gr.base + gr.rows ≤ k.base ∨ k.base + k.rows ≤ gr.base ∨ k.rows = 0 ∨ gr.rows = 0) ∧
      (∀ p ∈ gr.panels, p < 4 ∧ p ∉ k.panels) ∧ ∀ e ∈ gr.scales, e < 512 ∧ e / 16 * 16 ∉ k.scales) ∧
    ∀ b, b < gr.base → ∃ r, b ≤ r ∧ r < b + gr.rows ∧ ∃ k ∈ grantsOn t core, k.base ≤ r ∧ r < k.base + k.rows
  (∀ (s t : State) (it : Issue) (g h : Gang) (la : BitVec 4) (a : Reg), AtBoundary s it g 2 t h →
    let w := uniform h (execMask h it) a.toNat
    let t' := modGang t it.gang fun k => { k with grant := Grant.none }
    winVerdict w = .pass → engineBusy (coreOf t h.core) it.gang = false →
    (∀ gr, (coreOf t h.core).accWaiters = [] → tryGrant t' h.core w = some gr →
      ∃ v, exec (.accWin la a) s = .next v ∧ gang? v it.gang = some (fresh { h with grant := gr }) ∧ clean v h.core gr ∧
        free t' h.core w gr ∧ (∀ c, c ≠ h.core → coreOf v c = coreOf t c) ∧ v.mem = t.mem ∧
        ∀ u, u ≠ it.gang → gang? v u = gang? t u) ∧
    ((coreOf t h.core).accWaiters ≠ [] ∨ tryGrant t' h.core w = none →
      ∃ v k, exec (.accWin la a) s = .next v ∧ gang? v it.gang = some k ∧ k.grant = Grant.none ∧
        k.sched.wait = .accWin w it.split ∧ k.sched.active = false ∧ k.regs = h.regs ∧
        coreOf v h.core = { coreOf t h.core with accWaiters := (coreOf t h.core).accWaiters ++ [(it.gang, w)] } ∧
        v.mem = t.mem ∧ ∀ u, u ≠ it.gang → gang? v u = gang? t u)) ∧
  ∀ (s : State) (core uid : Nat) (w : Word) (rest : List (Nat × Word)), (coreOf s core).accWaiters = (uid, w) :: rest →
    (tryGrant s core w = none → exec (.accWinGrant core) s = .next s) ∧
    ∀ gr g w' split, tryGrant s core w = some gr → gang? s uid = some g → g.sched.wait = .accWin w' split →
      ∃ v k, exec (.accWinGrant core) s = .next v ∧ gang? v uid = some k ∧ k.grant = gr ∧ k.sched.wait = .none ∧
        k.regs = g.regs ∧ k.span.count = 0 ∧ clean v core gr ∧ free s core w gr ∧ (coreOf v core).accWaiters = rest ∧
        v.mem = s.mem ∧ ∀ u, u ≠ uid → gang? v u = gang? s u

/-- R49, R278 to R280, R290, R291. -/
def Obligations.EngineQueue : Prop :=
  (∀ (s : State) (core pos : Nat) (o : EngineOp), (coreOf s core).offers[pos]? = some o →
    let c := coreOf s core
    ((16 ≤ c.engine.length ∨ ∃ x ∈ c.offers.take pos, x.gang = o.gang) → exec (.matrixAccept core pos) s = .next s) ∧
    ∀ g, c.engine.length < 16 → (∀ x ∈ c.offers.take pos, x.gang ≠ o.gang) → gang? s o.gang = some g → o.follow = none →
      let basin := ((cohortOf s g).map (·.basin)).getD 0
      let xs := o.pieces.map fun p => ((⟨p.1, p.2.1, 0, pagePoisoned s p.1⟩ : Xlat), p.2.2)
      ((opRange o).isSome → (basinOf s basin).score.length < 64) →
      (readsMemory o.work = true → (askUntracked s (.engine o.uid) g (xs.map (·.1))).2 = true) →
      ∃ v q, exec (.matrixAccept core pos) s = .next v ∧ (coreOf v core).offers = c.offers.eraseIdx pos ∧
        (coreOf v core).engine = c.engine ++ [q] ∧ v.mem = s.mem ∧
        (readsMemory o.work = false → q = o) ∧
        { q with bytes := o.bytes, poisoned := o.poisoned, ready := o.ready, walks := o.walks, left := o.left } = o ∧
        (readsMemory o.work = true → q.ready = true ∧ q.left.length = if o.work = .bind then bindCount o.b else 0) ∧
        ((opRange o).isSome → ∃ e ∈ (basinOf v basin).score, e.owner = o.uid ∧ e.core = core ∧ e.cohort = g.cohort)) ∧
  (∀ (s : State) (queue : List EngineOp) (o : EngineOp), (mayPerform s queue 0 o = true ↔ o.left = []) ∧
    ∀ pos, o.left ≠ [] → mayPerform s queue pos o = false) ∧
  (∀ (s : State) (core pos : Nat) (o : EngineOp), (coreOf s core).engine[pos]? = some o →
    let E := exec (.matrixComplete core pos) s
    let queue := (coreOf s core).engine
    (mustFetch o = false → (mayPerform s queue pos o = false ∨ operandsReady s o = false) → E = .next s) ∧
    ∀ g p, gang? s o.gang = some g → gang? s o.peer = some p →
      (mustFetch o = false → mayPerform s queue pos o = true → operandsReady s o = true → (askOp s core o).2 = false →
        E = .next (askOp s core o).1) ∧
      (mustFetch o = true → (mayFetch s queue pos o = false → E = .next s) ∧ (mayFetch s queue pos o = true →
        let low := parseLow (o.a.extractLsb' 0 32)
        let rows := (List.range (parseArw o.b).rows).flatMap fun i => localBytes s g.cohort low.wg (low.off + low.stride * i) 144
        ∃ v, E = .next v ∧ v.mem = s.mem ∧ v.gangs = s.gangs ∧ ∀ c,
          (coreOf v c).engine.map (·.uid) = (coreOf s c).engine.map (·.uid) ∧
          ∀ (i : Nat) y z, (coreOf s c).engine[i]? = some y → (coreOf v c).engine[i]? = some z →
            if y.uid = o.uid ∧ y.ready = false then z.ready = true ∧ z.bytes = rows else z = y))) ∧
  ∀ (s : State) (core entry e : Nat) (p : Gang) (o : EngineOp), pendingBind s (coreOf s core) entry = some (p, o, e) →
    (∀ x ∈ (coreOf s core).engine, x.uid = o.uid → x = o) → o.work = .bind →
    let k := e - bindFirst o.b
    ∃ v, exec (.scaleEntryArrival core entry) s = .next v ∧
      readK 0#32 (scaleKey p.grant e) (coreOf v core).scales = BitVec.ofNat 32 (natOfBytes ((o.bytes.drop (4 * k)).take 4)) ∧
      (∀ j, j ≠ scaleKey p.grant e → readK 0#32 j (coreOf v core).scales = readK 0#32 j (coreOf s core).scales) ∧
      (coreOf v core).engine = (coreOf s core).engine.map (fun x => if x.uid = o.uid then { x with left := x.left.filter (· != e) } else x) ∧
      ((coreOf v core).scalePoison.contains (scaleKey p.grant e) = true ↔ ∃ i, i < 4 ∧ 4 * k + i ∈ o.poisoned) ∧
      (∀ q, gang? s p.uid = some q → ∃ q', gang? v p.uid = some q' ∧
        ⟨2, 0, e, o.a + BitVec.ofNat 64 (4 * k)⟩ ∈ q'.grant.fills ∧ { q' with grant := q.grant } = q) ∧ v.mem = s.mem

/-- R101, R167, R172, R174, R175, R284 to R287, R291 to R293; log 23 for poisoned rows and cells, log 36 for the zero of a sparse
panel, the model's choices. -/
def Obligations.EngineEffects : Prop :=
  ∀ (s : State) (core pos : Nat) (o : EngineOp) (g p : Gang), Performs s core pos o g p →
    let r := parseArw o.b
    let a : Word := o.a.extractLsb' 0 32
    let low := parseLow a
    let c := coreOf s core
    let gr := p.grant
    r.col + r.width ≤ 256 →
    let done := fun (v : State) => exec (.matrixComplete core pos) s = .next v ∧
      (coreOf v core).engine.map (·.uid) = (c.engine.eraseIdx pos).map (·.uid) ∧ (coreOf v core).scales = c.scales
    let W := fun (ws : List (Nat × Nat × Word)) (fl : FlagSet) => ∃ v k, done v ∧ CellsWritten s v core gr ws ∧
      gang? v o.gang = some k ∧ k.fpflags = g.fpflags ||| BitVec.zeroExtend 32 fl ∧ k.regs = g.regs ∧ v.mem = s.mem
    let grid := fun (n : Nat) => (List.range r.rows).flatMap fun i => (List.range n).map fun j => (i, j)
    let or' := fun (l : List FlagSet) => l.foldl (· ||| ·) (0#8 : FlagSet)
    let single := fun (x : Word) => fdec fp32 x.toNat
    let old := fun (i j : Nat) => if r.init then (0 : Word) else accGet c gr (r.row0 + i) (r.col + j)
    let locals := fun (n i : Nat) => localBytes s g.cohort low.wg (low.off + low.stride * i) n
    let word := fun (bs : List Byte) (k : Nat) => BitVec.ofNat 32 (natOfBytes ((bs.drop (4 * k)).take 4))
    (∀ func flags, o.work = .mma func flags ∨ o.work = .mmaB func flags →
      let f := formOf func flags
      let row := fun i => if o.ready then (o.bytes.drop (144 * i)).take 144 else locals 144 i
      let slot := fun j => slotBytes c gr r.panel (r.slot + j)
      let dot := fun i j => ((List.range f.k).map fun t => eltInt f.a (row i) t * slotInt f (slot j) t).sum
      let bad := mmaPoisoned func r c gr || (if o.ready then !o.poisoned.isEmpty else lmPoison s g.cohort low r.rows 144)
      (bad = true → ∃ v, done v ∧ (coreOf v core).acc = c.acc) ∧
      (bad = false →
        (isInt f.a = false →
          let z := fun i j => sumProd fp32 .rn true
            ([single (old i j)] :: (List.range f.k).map fun t => [eltVal f.a (row i) t, slotVal f (slot j) t])
          W ((grid r.width).map fun q => (r.row0 + q.1, r.col + q.2, BitVec.ofNat 32 (z q.1 q.2).1)) (or' ((grid r.width).map fun q => (z q.1 q.2).2))) ∧
        (isInt f.a = true → func ≠ 8 →
          let z := fun i j => (old i j).toInt + dot i j
          W ((grid r.width).map fun q => (r.row0 + q.1, r.col + q.2, BitVec.ofInt 32 (z q.1 q.2)))
            (or' ((grid r.width).map fun q => if z q.1 q.2 < -2 ^ 31 ∨ 2 ^ 31 ≤ z q.1 q.2 then fIOV else 0))) ∧
        (func = 8 →
          let z := fun i j => (old i (2 * j + 1) ++ old i (2 * j) : DWord).toInt + dot i j
          W ((grid (r.width / 2)).flatMap fun q =>
              let v : DWord := BitVec.ofInt 64 (z q.1 q.2)
              [(r.row0 + q.1, r.col + 2 * q.2, v.extractLsb' 0 32), (r.row0 + q.1, r.col + 2 * q.2 + 1, v.extractLsb' 32 32)])
            (or' ((grid (r.width / 2)).map fun q => if z q.1 q.2 < -2 ^ 63 ∨ 2 ^ 63 ≤ z q.1 q.2 then fIOV else 0))))) ∧
    (o.work = .zero → W ((grid r.width).map fun q => (r.row0 + q.1, r.col + q.2, 0)) 0) ∧
    (o.work = .load → o.poisoned = [] →
      W ((grid r.width).map fun q => (r.row0 + q.1, r.col + q.2, word o.bytes (q.1 * r.width + q.2))) 0) ∧
    (o.work = .fromLm → lmPoison s g.cohort low r.rows (4 * r.width) = false →
      W ((grid r.width).map fun q => (r.row0 + q.1, r.col + q.2, word (locals (4 * r.width) q.1) q.2)) 0) ∧
    (∀ fmt, o.work = .cvt fmt → anyCellPoison c gr r.cells = false →
      let f := (cvtFmt fmt).1
      let n := (cvtFmt fmt).2
      let z := fun i j k => fconv f .rn true (single (accGet c gr (r.row0 + i) (r.col + n * j + k)))
      16 * fld a 0 4 + r.width / n ≤ 256 →
      W ((grid (r.width / n)).map fun q => (fld a 4 8 + q.1, 16 * fld a 0 4 + q.2,
          BitVec.ofNat 32 ((List.range n).map fun k => (z q.1 q.2 k).1 * 2 ^ (f.width * k)).sum))
        (or' ((grid (r.width / n)).flatMap fun q => (List.range n).map fun k => (z q.1 q.2 k).2))) ∧
    (∀ zp, o.work = .scacc zp → scaccPoisoned r (parseSc a) c gr = false → (parseSc a).pcol + r.width ≤ 256 →
      let x := parseSc a
      let z := fun i j => sumProd fp32 .rn true [[single (old i j)],
        [single (scaleGet c gr (x.sa + i)), single (scaleGet c gr (x.sb + j)), single (accGet c gr (x.prow + i) (x.pcol + j))]]
      let fs := (grid r.width).map fun q => (r.row0 + q.1, r.col + q.2, BitVec.ofNat 32 (z q.1 q.2).1)
      let ps := (grid r.width).map fun q => (x.prow + q.1, x.pcol + q.2)
      W ((if zp then (ps.filter fun q => !(fs.map fun w => (w.1, w.2.1)).contains q).map fun q => (q.1, q.2, 0) else []) ++ fs)
        (or' ((grid r.width).map fun q => (z q.1 q.2).2))) ∧
    (o.work = .toLm → anyCellPoison c gr r.cells = false → checkLow s g.cohort low r.rows (4 * r.width) = .pass →
      (4 * r.width ≤ low.stride ∨ r.rows = 1) → ∃ v, done v ∧ (coreOf v core).acc = c.acc ∧ v.mem = s.mem ∧
        (∀ i, i < r.rows → localBytes v g.cohort low.wg (low.off + low.stride * i) (4 * r.width) =
          (List.range r.width).flatMap fun j => bytesOf 4 (accGet c gr (r.row0 + i) (r.col + j)).toNat) ∧
        ∀ w q, (∀ i, i < r.rows → ¬(w = low.wg ∧ low.off + low.stride * i ≤ q ∧ q < low.off + low.stride * i + 4 * r.width)) →
          localByte v g.cohort w q = localByte s g.cohort w q) ∧
    (o.work = .store → anyCellPoison c gr r.cells = false →
      let places := o.pieces.flatMap fun y => (List.range y.2.2).map (y.1 + ·)
      let bytes := (grid r.width).flatMap fun q => bytesOf 4 (accGet c gr (r.row0 + q.1) (r.col + q.2)).toNat
      places.Nodup → ∃ v k, done v ∧ (coreOf v core).acc = c.acc ∧ v.mem = s.mem ∧ gang? v o.gang = some k ∧ k.regs = g.regs ∧
        (∀ q ∈ places.zip bytes, getK q.1 k.span.ver = some q.2) ∧ ∀ y, y ∉ places → getK y k.span.ver = getK y g.span.ver) ∧
    (∀ sparse, o.work = .fill sparse →
      let f := parseFill o.b
      let n := if sparse then 120 else 144
      f.slot + f.cols ≤ 256 → o.bytes.length = n * f.cols → ∃ v, done v ∧ (coreOf v core).acc = c.acc ∧ v.mem = s.mem ∧
        (∀ j, j < f.cols →
          let bs := (o.bytes.drop (n * j)).take n
          let new := slotBytes (coreOf v core) gr f.panel (f.slot + j)
          (sparse = false → new.take 144 = bs) ∧ (sparse = true → new.take 72 = bs.take 72 ∧ new.drop 144 = bs.drop 72) ∧
          ((coreOf v core).wbufPoison.contains (slotKey gr f.panel (f.slot + j)) = true ↔
            ∃ i ∈ o.poisoned, n * j ≤ i ∧ i < n * (j + 1))) ∧
        ∀ k, (∀ j, j < f.cols → k ≠ slotKey gr f.panel (f.slot + j)) → ∀ i, i < 192 →
          readK 0#8 (k * 192 + i) (coreOf v core).wbuf = readK 0#8 (k * 192 + i) c.wbuf) ∧
    (o.work = .bind → ∃ v, done v ∧ (coreOf v core).acc = c.acc ∧ (coreOf v core).wbuf = c.wbuf ∧ v.mem = s.mem)

/-- R59, R103, R104, R121, R131, R133 to R136, R315 to R317. -/
def Obligations.SurfaceAccess : Prop :=
  (∀ (s t u : State) (it : Issue) (g : Gang) (d a b : Reg) (op : SurfOp) (i : Instr) (su0 : Surface) (rs : List (Nat × LaneRes Word)),
    Issues s it g →
    (op, i) ∈ [(SurfOp.ld, Instr.surfLd d a b), (.st, .surfSt d a b), (.stc, .surfStc d a b), (.mv, .surfMv d a b)] →
    let m := execMask g it
    let ls := (lanesOf m).map fun l => (l, surfLane g d b l)
    let su := match g.span.pins.find? fun p => p.surf.d.va == su0.d.va with
      | some p => p.surf
      | none => su0
    let inside := fun (l : SurfLane) => l.x < su.d.width ∧ l.y < su.d.height
    let idx := fun (l : SurfLane) => l.y % 4 * 4 + l.x % 4
    let key := fun (l : SurfLane) => (l.chan, l.x / 4, l.y / 4)
    readSurface (viewOf s g) s (uniformPair g m a.toNat) = .ok t su0 → surfRace op g (viewOf t g) t su ls = none →
    pinsFull t g (newPins op g.span su ls).length = false → surfLanes op g su t ls = .ok (u, rs) →
    (∀ r ∈ rs, ∃ x, r.2 = .ok x) →
    ∃ v k, exec i s = .next v ∧ gang? v it.gang = some k ∧
      { k with regs := g.regs, regPoison := g.regPoison, span := g.span, seen := g.seen } = g ∧
      rs.map (·.1) = lanesOf m ∧ v.mem = u.mem ∧
      (op ≠ .ld → k.regs = g.regs ∧ k.regPoison = g.regPoison) ∧
      (op = .ld → (∀ r ∈ rs, r.2 = .ok (getReg k d.toNat r.1) ∧ regPoisoned k d.toNat r.1 = false) ∧
        (∀ q ∈ ls, ¬inside q.2 → getReg k d.toNat q.1 = 0) ∧
        (∀ r l, l < 32 → ¬(r = d.toNat ∧ m.getLsbD l = true) → getReg k r l = getReg g r l) ∧
        (u.mem = t.mem → ∀ q ∈ ls, inside q.2 →
          let slot := slotPA (viewOf t g) t su.d q.2.chan (q.2.x / 4) (q.2.y / 4)
          (ownBearing (viewOf t g) su q.2.chan (q.2.x / 4) (q.2.y / 4) = true ∨
            (∀ e ∈ (coreOf t g.core).dbc, e.slot ≠ slot) ∧
            ∀ p ∈ ls, inside p.2 → slotPA (viewOf t g) t su.d p.2.chan (p.2.x / 4) (p.2.y / 4) = slot → key p.2 = key q.2) →
          ∃ w z, sampleAt { viewOf t g with who := none } t su q.2.chan q.2.x q.2.y = .ok w z ∧
            getReg k d.toNat q.1 = BitVec.ofNat 32 z.toNat) ∧
        ∀ q x e, ls.head? = some q → inside q.2 → vplain (.surf 1 false) (viewOf t g) t (slotVA su.d q.2.chan (q.2.x / 4) (q.2.y / 4)) = .ok t x →
          pteCL x.pte = 0 → ownBearing (viewOf t g) su q.2.chan (q.2.x / 4) (q.2.y / 4) = false →
          dbcHit (coreOf t g.core) x.pa su.d.va.toNat (pteKey x.pte) g.acq = some e →
          getReg k d.toNat q.1 = BitVec.ofNat 32 (e.samples.getD (idx q.2) 0)) ∧
      (op = .st → ∀ q ∈ ls, inside q.2 →
        (∀ p ∈ ls, q.1 < p.1 → ¬(p.2.x = q.2.x ∧ p.2.y = q.2.y ∧ p.2.chan = q.2.chan)) →
        (∃ p ∈ k.span.pins, p.surf.d.va = su.d.va ∧ p.chan = q.2.chan ∧ p.bx = q.2.x / 4 ∧ p.by' = q.2.y / 4 ∧
          getK (idx q.2) p.writes = some (min q.2.data.toNat (2 ^ su.d.bits - 1))) ∧
        ∃ x ∈ k.span.touched, x.wr = true ∧ x.loc.idx = idx q.2)) ∧
  (∀ (g h : Gang) (su : Surface) (op : SurfOp) (t t1 : State) (ls : List (Nat × SurfLane)) (r1 : List (Nat × LaneRes Word)) (q : Nat × SurfLane),
    surfLanes op g su t ls = .ok (t1, r1) → gang? t1 g.uid = some h → selectorBad op su.d q.2 = false →
    q.2.x < su.d.width → q.2.y < su.d.height →
    let next := fun (t2 : State) => surfLanes op g su t (ls ++ [q]) = .ok (t2, r1 ++ [(q.1, .ok 0)])
    let holds := fun (k : Gang) (c bx by' : Nat) (z : Nat → Int) => ∃ p ∈ k.span.pins, p.surf.d.va = su.d.va ∧ p.chan = c ∧ p.bx = bx ∧
      p.by' = by' ∧ ∀ m, m < 16 → inExtent su.d bx by' m = true → getK m p.writes = some (z m).toNat
    let noted := fun (k : Gang) (v : View) (w : State) (c bx by' : Nat) => ∀ m, m < 16 → inExtent su.d bx by' m = true →
      (⟨sampleLoc v w su.d c (4 * bx + m % 4) (4 * by' + m / 4), true, none⟩ : Touch) ∈ k.span.touched
    (op = .stc → ∀ (w w1 w2 : State) (p pred : List Int),
      let c := q.2.chan
      let bx := q.2.x / 4
      let by' := q.2.y / 4
      let v := viewNow w g.uid
      pinBlock t1 g.uid su c bx by' = .ok w () → blockAt v w su c bx by' = .ok w1 p → predsAt v w1 su c bx by' = .ok w2 pred →
      let r := (List.range 16).map fun m => if inExtent su.d bx by' m then p.getD m 0 - pred.getD m 0 else 0
      let y := invT ((fwdT r).set (fld q.2.sel 4 4) q.2.data.toInt)
      ∃ t2 k, next t2 ∧ gang? t2 g.uid = some k ∧ noted k v w2 c bx by' ∧
        holds k c bx by' (fun m => max 0 (min (pred.getD m 0 + y.getD m 0) (2 ^ su.d.bits - 1)))) ∧
    (op = .mv → motionBad su q.2.data = false → ∀ (x : Xlat) (w w1 w2 : State) (us : List Unit) (ps : List (List Int)),
      let px := q.2.x / 8
      let py := q.2.y / 8
      let blocks := patchBlocks su.d px py
      vcheck (.surf 2 true) (viewNow t1 g.uid) t1 (motionVA su.d px py) = .ok w x →
      accList (fun s (b : Nat × Nat × Nat) => pinBlock s g.uid su b.1 b.2.1 b.2.2) w blocks = .ok w1 us →
      accList (fun s b => moveBlock s g.uid su q.2.data b) w1 blocks = .ok w2 ps →
      ∃ t2 k, next t2 ∧ gang? t2 g.uid = some k ∧
        (∃ y ∈ k.span.moves, y.surf.d.va = su.d.va ∧ y.px = px ∧ y.py = py ∧ y.value = q.2.data ∧ y.pa = x.pa) ∧
        (∀ y ∈ k.span.moves, y.surf.d.va = su.d.va → y.px = px → y.py = py → y.value = q.2.data) ∧
        ∀ (j : Nat) (b : Nat × Nat × Nat) (p : List Int), blocks[j]? = some b → ps[j]? = some p →
          holds k b.1 b.2.1 b.2.2 (fun m => p.getD m 0) ∧ noted k (viewNow w2 g.uid) w2 b.1 b.2.1 b.2.2)) ∧
  ∀ (s w1 w2 w3 : State) (uid : Nat) (su : Surface) (e : Word) (c bx by' : Nat) (p old new : List Int),
    let v := viewNow s uid
    blockAt v s su c bx by' = .ok w1 p → predsAt v w1 su c bx by' = .ok w2 old →
    accList (fun s m => if inExtent su.d bx by' m then predUnder v s su e c (4 * bx + m % 4) (4 * by' + m / 4) else .ok s 0) w2
      (List.range 16) = .ok w3 new →
    ∃ l, moveBlock s uid su e (c, bx, by') = .ok w3 l ∧ ∀ m, m < 16 →
      l.getD m 0 = max 0 (min (new.getD m 0 + (p.getD m 0 - old.getD m 0)) (2 ^ su.d.bits - 1))

/-- R178, R179, R318 to R320. -/
def Obligations.TextureSampling : Prop :=
  (∀ (s t u : State) (it : Issue) (g : Gang) (d a b : Reg) (td : TexDesc) (rs : List (Nat × LaneRes (Except DWord (List Word)))),
    Issues s it g →
    let m := execMask g it
    let coord := fun l => (getReg g b.toNat l, getReg g (b.toNat + 1) l, getReg g (b.toNat + 2) l)
    readTex { viewOf s g with pins := [], moves := [] } s (uniformPair g m a.toNat) = .ok t td →
    texLanes g td coord t (lanesOf m) = .ok (u, rs) → (∀ r ∈ rs, ∃ ws, r.2 = .ok (.ok ws)) → g.live &&& g.launchMask ≠ 0#32 →
    ∃ v k, exec (.tex d a b) s = .next v ∧ gang? v it.gang = some k ∧ { k with regs := g.regs, regPoison := g.regPoison, lease := g.lease, seen := g.seen } = g ∧
      rs.map (·.1) = lanesOf m ∧ v.mem = u.mem ∧
      (∀ r ∈ rs, ∀ ws, r.2 = .ok (.ok ws) → ws.length = 4 ∧ (∀ q, q < 4 → getReg k (d.toNat + q) r.1 = ws.getD q 0) ∧
        (∀ q, td.nch < q → q < 3 → ws.getD q 0 = 0) ∧ (td.nch < 3 → ws.getD 3 0 = 0x3F800000#32)) ∧
      ∀ r l, l < 32 → ¬(m.getLsbD l = true ∧ d.toNat ≤ r ∧ r < d.toNat + 4) → getReg k r l = getReg g r l) ∧
  (∀ (x : Word) (n mode : Nat) (near : Bool), ((axisTaps near x n mode).map (·.2)).sum = 256) ∧
  (∀ (n : Nat) (i : Int), 1 ≤ n →
    axisMode 0 n i = some (max 0 (min i (n - 1))).toNat ∧
    (∃ j, axisMode 1 n i = some j ∧ j < n ∧ ∃ k : Int, i = n * k + j) ∧
    (∃ j, axisMode 2 n i = some j ∧ j < n ∧ ((∃ k : Int, i = 2 * n * k + j) ∨ ∃ k : Int, i = 2 * n * k - 1 - j)) ∧
    axisMode 3 n i = if 0 ≤ i ∧ i < n then some i.toNat else none) ∧
  ∀ (td : TexDesc) (lod : Word), let r := texLevel td lod
    r.1 ≤ td.levels ∧ r.2 ≤ 256 ∧ (td.filt = 2 → r.2 < 256) ∧ (r.1 = td.levels → r.2 = 0) ∧ ((fdec fp32 lod.toNat).isNan = true → r = (0, 0))

/-- R92, R234, R236, R321, R322, R344. -/
def Obligations.KickAndLaunch : Prop :=
  (∀ (s t : State) (it : Issue) (g h : Gang) (d sreg : Reg) (x : Xlat), AtBoundary s it g 0 t h →
    let m := execMask h it
    let va := uniformPair h m d.toNat
    laneCheck t h .load 64 va = .ok x → x.poison = false → lineOf x.pa ∉ t.linePoison →
    (∃ u, Granted t u (.gang it.gang it.split) (regionOf t h) [x]) →
    let desc := parseLaunch (readBytes (setAD t x false) (pteKey x.pte) x.pa 64)
    let target := if desc.region = 0 then regionOf t h else desc.region
    let st := launchStatus t (ctxOf t h) (some (regionOf t h)) target desc
    ∃ v k, exec (.gridLaunch d sreg) s = .next v ∧ gang? v it.gang = some k ∧ k.relFloor = h.floor ∧ k.span.count = 0 ∧
      (∀ r l, l < 32 → getReg k r l = if m.getLsbD l = true ∧ r = sreg.toNat then BitVec.ofNat 32 st else getReg h r l) ∧
      (st ≠ 0 → v.grids = t.grids ∧ ∀ q, (region? v q).map (·.queue) = (region? t q).map (·.queue)) ∧
      (st = 0 → ∃ n, v.grids = t.grids ++ [n] ∧ n.region = target ∧ n.codeBase = desc.codeBase ∧ n.entry = desc.entry ∧
        n.wgs = fld desc.shape 30 2 + 1 ∧ n.granules = fld desc.shape 21 4 + 1 ∧ n.localBytes = 128 * fld desc.shape 0 13 ∧
        n.dims = desc.dims ∧ n.wgdim = desc.wgdim ∧ n.args = desc.args ∧ n.doneVa = desc.done ∧ n.device = true ∧
        n.launchFloor = h.floor ∧ n.placed = 0 ∧
        (region? v target).map (·.queue) = (region? t target).map fun r => r.queue ++ [.fresh n.uid 0]) ∧
      ∀ p, ¬(x.entry ≤ p ∧ p < x.entry + 8) → memByte v p = memByte t p) ∧
  ∀ (s t w : State) (it : Issue) (g h : Gang) (d a : Reg) (x : Xlat) (su : Surface), AtBoundary s it g 2 t h →
    let m := execMask h it
    let va := uniformPair h m a.toNat
    let who := Asker.gang it.gang it.split
    laneCheck t h .load 64 va = .ok x → x.poison = false → lineOf x.pa ∉ t.linePoison → ∀ u, Granted t u who (regionOf t h) [x] →
    let u' := setAD (noteHome u who x) x false
    let desc := parseRaster (readBytes u' (pteKey x.pte) x.pa 64)
    readSurface { View.committed (ctxOf t h) (regionOf t h) with who := some who } u' desc.target = .ok w su →
    let queue := (coreOf w h.core).raster.queue
    let st := if rasterMalformed desc then 1 else if 4 ≤ queue.length then 2 else 0
    ∃ v k, exec (.rastKick d a) s = .next v ∧ gang? v it.gang = some k ∧ k.relFloor = h.floor ∧ k.span.count = 0 ∧ v.mem = w.mem ∧
      (∀ r l, l < 32 → getReg k r l = if m.getLsbD l = true ∧ r = d.toNat then BitVec.ofNat 32 st else getReg h r l) ∧
      (st ≠ 0 → (coreOf v h.core).raster.queue = queue) ∧
      (st = 0 → ∃ c, (coreOf v h.core).raster.queue = queue ++ [c] ∧ c.nprim = desc.nprim ∧ c.vtx = desc.vtx ∧ c.surf = su ∧
        c.kernel = desc.kernel ∧ c.entry = desc.entry ∧ c.granules = fld desc.rctl 8 4 + 1 ∧ c.blend = fld desc.rctl 6 2 ∧
        c.coarse = 2 ^ fld desc.rctl 4 2 ∧ c.cull = desc.rctl.getLsbD 3 ∧ c.doneVa = desc.done ∧ c.floor = h.floor ∧
        c.gangid = h.gangid ∧ c.cohort = h.cohort ∧ c.core = h.core ∧ (c.sx0, c.sy0, c.sx1, c.sy1) = (desc.sx0, desc.sy0, desc.sx1, desc.sy1))

/-- R294, R295. -/
def Obligations.FeatureGrid : Prop :=
  (∀ (s t : State) (it : Issue) (g h : Gang) (d a b : Reg) (x : Xlat) (xs : Nat → List Xlat) (two : Bool), AtBoundary s it g 2 t h →
    let m := execMask h it
    let low := parseLow (uniform h m d.toNat)
    let va := uniformPair h m b.toNat
    let desc := parseGrid (readBytes t (pteKey x.pte) x.pa 64)
    let lanes := (lanesOf m).filter fun l => !h.prot || l % 2 == 0
    let place := fun l => low.off + low.stride * (if h.prot then l / 2 else l)
    let n := 2 * desc.levels * desc.feats
    let c := fun l k => getReg h (a.toNat + k) l
    lowMalformed (uniform h m d.toNat) = false → va.toNat % 64 = 0 → laneCheck t h .load 1 va = .ok x → PlainRead t x →
    gridMalformed desc (readBytes t (pteKey x.pte) x.pa 64) = false → h.span.early = [] → rowsFail t h low n lanes = none →
    (∃ u u', askUntracked t (.gang it.gang it.split) h [x] = (u, true) ∧
      askUntracked u (.gang it.gang it.split) h (lanes.flatMap xs) = (u', true)) →
    (∀ l ∈ lanes, gridLane t h (gridAddrs two desc (c l 0) (c l 1) (c l 2)) = .ok (xs l) ∧ ∀ y ∈ xs l, PlainRead t y) →
    (∀ l ∈ lanes, overlaps t h.cohort low.wg (place l) (place l + n) = []) → h.live &&& h.launchMask ≠ 0#32 →
    (n ≤ low.stride ∨ lanes.length = 1) →
    ∃ v k, exec (if two then .fgrid2d d a b else .fgrid d a b) s = .next v ∧ gang? v it.gang = some k ∧ { k with seen := h.seen } = fresh h ∧
      v.mem = t.mem ∧
      (∀ l ∈ lanes, localBytes v h.cohort low.wg (place l) n = gridRow two desc (c l 0) (c l 1) (c l 2)
        ((xs l).map fun y => readBytes t (pteKey y.pte) y.pa (2 * desc.feats))) ∧
      ∀ w o, (∀ l ∈ lanes, ¬(w = low.wg ∧ place l ≤ o ∧ o < place l + n)) → localByte v h.cohort w o = localByte t h.cohort w o) ∧
  ∀ (two : Bool) (desc : GridDesc) (x y z : Word) (entries : List (List Byte)),
    let per := if two then 4 else 8
    let p := fun l => gridPoint two x y z (desc.res.getD l 0)
    let part := fun l k => (p l).getD k (0, 0)
    (∀ l c, c < per → (gridHash desc.t (p l) c) =
      ((BitVec.ofInt 32 ((part l 0).1 + (c % 2 : Nat)) ^^^ BitVec.ofInt 32 ((part l 1).1 + (c / 2 % 2 : Nat)) * 0x9E3779B1#32 ^^^
        BitVec.ofInt 32 ((part l 2).1 + (c / 4 % 2 : Nat)) * 0xC2B2AE35#32 : Word).toNat % 2 ^ desc.t)) ∧
    (∀ l k, (part l k).2 < 65536) ∧ (two = true → ∀ l, part l 2 = (0, 0)) ∧
    (gridRow two desc x y z entries).length = 2 * desc.levels * desc.feats ∧
    ∀ l c q, l < desc.levels → c < per →
      (gridAddrs two desc x y z)[per * l + c]? = some q →
      q = desc.table + BitVec.ofNat 64 ((l * 2 ^ desc.t + gridHash desc.t (p l) c) * (2 * desc.feats))

/-- R312 to R314; log 28 for PACK in protected mode. -/
def Obligations.GroupCode : Prop :=
  (∀ (s : State) (it : Issue) (g : Gang) (d a b : Reg), Issues s it g → execMask g it ≠ 0#32 →
    let m := execMask g it
    let ptr := (uniform g m a.toNat).toNat
    let ctl := (uniform g m b.toNat).toNat
    let bit := ptr % 8
    let e := 8 * 2 ^ (ctl % 4)
    let byte := fun k => localAddr (BitVec.ofNat 32 (ptr / 8 + k))
    let free := fun (n : Nat) => firstBadByte s g.cohort (ptr / 8) n = none ∧
      ∀ k, k < n → overlaps s g.cohort (byte k).wg (byte k).off ((byte k).off + 1) = []
    let bits := fun (t : State) (n : Nat) => natOfBytes ((List.range n).map fun k => localByte t g.cohort (byte k).wg (byte k).off)
    let bad := 2 ^ 24 ≤ ptr ∨ 32 ≤ ctl ∨ ctl % 4 = 3 ∨ ctl / 4 % 4 = 3
    let ill := raise s { cause := cILLEGAL, info := subInfo 0x28, addr := none, lanes := none }
    (bad ∨ ctl / 4 % 4 ≠ 0 → exec (.unpack d a b) s = ill) ∧ (bad ∨ 16 ≤ ctl → exec (.pack d a b) s = ill) ∧
    (¬bad → ctl / 4 % 4 = 0 →
      let w := bits s ((bit + 13) / 8) / 2 ^ bit % 64
      let n := (bit + 6 + e + 32 * w + 7) / 8
      let v := bits s n / 2 ^ bit
      let x := fun l => (v / 2 ^ 6 % 2 ^ e + v / 2 ^ (6 + e + w * (if g.prot then l / 2 else l)) % 2 ^ w) % 2 ^ e
      let ext := fun (y : Nat) => if 16 ≤ ctl then (BitVec.ofNat e y).signExtend 32 else BitVec.ofNat 32 y
      w ≤ 32 → free n → (∀ k, k < n → localPoisoned s g.cohort (byte k).wg (byte k).off 1 = false) →
      Computes s it g (exec (.unpack d a b) s) fun l =>
        (if d = a then [] else [(d.toNat, ext (x l))]) ++ [(a.toNat, BitVec.ofNat 32 (ptr + 6 + e + 32 * w))]) ∧
    (¬bad → ctl < 16 →
      let vals := ((lanesOf m).filter fun l => !g.prot || l % 2 == 0).map fun l =>
        ((if g.prot then l / 2 else l), (getReg g d.toNat l).toNat % 2 ^ e)
      let c := chooseGroup (wMin e (2 ^ (ctl / 4))) (vals.map (·.2))
      let n := (bit + 6 + e + 32 * c.2 + 7) / 8
      free n → ∃ v k, exec (.pack d a b) s = .next v ∧ gang? v it.gang = some k ∧ v.mem = s.mem ∧
        Writes g k m (fun _ => [(a.toNat, BitVec.ofNat 32 (ptr + 6 + e + 32 * c.2))]) ∧
        bits v n % 2 ^ bit = bits s n % 2 ^ bit ∧ bits v n / 2 ^ (bit + 6 + e + 32 * c.2) = bits s n / 2 ^ (bit + 6 + e + 32 * c.2) ∧
        (∀ q ∈ vals, groupElem e (bits v n / 2 ^ bit) q.1 = q.2) ∧ bits v n / 2 ^ bit % 64 = c.2 ∧
        ∀ w o, (∀ k, k < n → ¬((byte k).wg = w ∧ (byte k).off = o)) → localByte v g.cohort w o = localByte s g.cohort w o)) ∧
  (∀ (e w base top k : Nat) (offs : List Nat), w < 64 → base < 2 ^ e → (∀ j, offs.getD j 0 < 2 ^ w) → k < 32 →
    groupElem e (packGroup e w base offs + top * 2 ^ (6 + e + 32 * w)) k = (base + offs.getD k 0) % 2 ^ e) ∧
  (∀ (wmin : Nat) (vals : List Nat), vals ≠ [] →
    let c := chooseGroup wmin vals
    (∀ v ∈ vals, c.1 ≤ v ∧ v - c.1 < 2 ^ c.2) ∧ c.1 ∈ vals ∧ (c.2 = wmin ∨ ∃ v ∈ vals, 2 ^ (c.2 - 1) ≤ v - c.1)) ∧
  [8, 16, 32].map (fun e => [1, 2, 4].map (wMin e)) = [[0, 4, 12], [0, 4, 12], [0, 3, 11]]

/-- R92, R297, R304, R308, R309. -/
def Obligations.CopyCommands : Prop :=
  (∀ (s t t1 : State) (it : Issue) (g h : Gang) (a b : Reg) (slot : Nat) (bar : Option (Nat × Nat)), AtBoundary s it g 0 t h →
    let m := execMask h it
    let addr := uniform h m a.toNat
    let kick := if b = 0#7 then 0#32 else uniform h m b.toNat
    let bs := localBytes t h.cohort (localAddr addr).wg (localAddr addr).off 64
    let c := parseCmd bs
    let first := fld kick 0 20
    addr.toNat % 64 = 0 → firstBadByte t h.cohort addr.toNat 64 = none → chooseSlot t h.core = some slot →
    localPoisoned t h.cohort (localAddr addr).wg (localAddr addr).off 64 = false → c.malformed = false → fld kick 20 12 = 0 →
    first < c.chunks → operandBad t h.cohort (localSrc t h.cohort c first none ++ knownDst t h.cohort c first) = none →
    (c.follow = true → followOk t h c = true) →
    (if c.baren then ∃ core obj, boundObj t h.cohort (barTarget h (cmdBar c)).1 (barTarget h (cmdBar c)).2 = some (core, obj) ∧
      bar = some (core, obj) ∧ (barObj t core obj).isSome ∧ (barWg t h.cohort (barTarget h (cmdBar c)).1).isSome else bar = none) →
    enterRanges t (((cohortOf t h).map (·.basin)).getD 0) (commandEntries t h.cohort h.core t.nextUid c first none) = some t1 →
    ∃ v k x, exec (.cpyKick a b) s = .next v ∧ gang? v it.gang = some k ∧ k = fresh { h with relFloor := h.floor } ∧ v.mem = t.mem ∧
      v.copies = t.copies ++ [x] ∧ x.slot = slot ∧ x.core = h.core ∧ x.gang = h.uid ∧ x.bytes = bs ∧ x.next = first ∧
      x.total = c.chunks ∧ x.bar = bar ∧ x.kickFloor = h.floor ∧ x.addr = addr.toNat ∧
      copyRecord (coreOf v h.core) h.cohort addr.toNat =
        (if ∀ r ∈ (coreOf t h.core).records, r.cohort = h.cohort → r.addr = addr.toNat → r.slot ≠ slot → r.stamp < t.nextUid then
          some ⟨slot, t.nextUid, h.cohort, addr.toNat, 1, 0, 0, first⟩ else copyRecord (coreOf v h.core) h.cohort addr.toNat)) ∧
  ∀ (s : State) (it : Issue) (g : Gang) (b a : Reg), Issues s it g →
    let r := copyRecord (coreOf s g.core) g.cohort (uniform g (execMask g it) a.toNat).toNat
    (∃ w, Computes1 s it g (exec (.cpyStat false b a) s) b (fun _ => w) ∧ (r = none → w = 0) ∧
      ∀ x, r = some x → x.state < 4 → w.extractLsb' 30 2 = BitVec.ofNat 2 x.state ∧ w.getLsbD 29 = x.flags.getLsbD 4 ∧
        w.getLsbD 28 = x.flags.getLsbD 2 ∧ w.getLsbD 27 = x.flags.getLsbD 1 ∧ w.getLsbD 26 = x.flags.getLsbD 0 ∧
        w.extractLsb' 16 10 = 0 ∧ (w.extractLsb' 0 16).toNat = min x.sat 65535) ∧
    ∃ w, Computes1 s it g (exec (.cpyStat true b a) s) b (fun _ => w) ∧ (r = none → w = 0) ∧
      ∀ x, r = some x → w.toNat = x.done % 2 ^ 20

/-- R329, R331 to R336. -/
def Obligations.Springs : Prop :=
  (∀ (s : State) (it : Issue) (g : Gang) (n : BitVec 6) (d a b : Reg), Issues s it g →
    let m := execMask g it
    (gangSpring s g n.toNat = none → exec (.spring n d a b) s = raise s { cause := cILLEGAL, info := subInfo 0x29, addr := none, lanes := none }) ∧
    ∀ im, gangSpring s g n.toNat = some im →
      let e : SpEnv := ⟨g, im, n.toNat, d.toNat, a.toNat, b.toNat⟩
      let start := (lanesOf m).map fun l => (⟨l, List.replicate 8 0, getReg g d.toNat l, getReg g (d.toNat + 1) l, 0⟩ : SpLane)
      (∀ t, spFrom e 65 0 ⟨s, start, []⟩ = .trap t → exec (.spring n d a b) s = raise s t) ∧
      (uOpc (slotWord im n.toNat 0) = 1 → spFrom e 65 0 ⟨s, start, []⟩ = .ok ⟨s, start, []⟩) ∧
      ∀ r, spFrom e 65 0 ⟨s, start, []⟩ = .ok r → r.dead = [] → g.live &&& g.launchMask ≠ 0#32 →
        let d1 := ((List.range 64).map (slotWord im n.toNat)).takeWhile (fun w => uOpc w != 1) |>.any fun w => uOpc w != 0x1A && uDst w == 9
        r.lanes.map (·.lane) = lanesOf m ∧
        ∃ v k, exec (.spring n d a b) s = .next v ∧ gang? v it.gang = some k ∧ v.mem = s.mem ∧
          (∀ l ∈ r.lanes, getReg k d.toNat l.lane = l.d ∧ (d1 = true → getReg k (d.toNat + 1) l.lane = l.d1)) ∧
          (∀ q l, l < 32 → ¬(m.getLsbD l = true ∧ (q = d.toNat ∨ d1 = true ∧ q = d.toNat + 1)) → getReg k q l = getReg g q l) ∧
          k.fpflags = g.fpflags ||| BitVec.zeroExtend 32 (r.lanes.foldl (fun (f : FlagSet) l => f ||| l.flags) 0) ∧
          { k with regs := g.regs, regPoison := g.regPoison, fpflags := g.fpflags } = g) ∧
  (∀ (e : SpEnv) (r : SpRun) (j iter : Nat) (part : SpLane → Bool),
    let w := slotWord e.im e.n j
    let src := fun (l : SpLane) (c : Nat) => if c < 8 then l.t.getD c 0 else if c = 8 then getReg e.g e.ra l.lane
      else if c = 9 then getReg e.g e.rb l.lane else if c = 10 then getReg e.g e.rd l.lane else w.extractLsb' 0 32
    let put := fun (l : SpLane) (v : Word) => if uDst w < 8 then { l with t := l.t.set (uDst w) v }
      else if uDst w = 8 then { l with d := v } else { l with d1 := v }
    let sets := fun (f : SpLane → Word) => spSlot e r j iter part = .ok { r with lanes := r.lanes.map fun l => if part l then put l (f l) else l }
    (uOpc w = 0x19 → sets fun l => tableWord e.im e.n ((src l (uS1 w)).toNat % 16)) ∧
    (uOpc w = 0x18 →
      let addr := fun l => src l (uS1 w) + w.extractLsb' 0 32
      let at' := fun l => localAddr (addr l)
      (∀ l ∈ r.lanes, part l = true → (addr l).toNat % 4 = 0 ∧ localOk r.s e.g.cohort (at' l) = true ∧
        overlaps r.s e.g.cohort (at' l).wg (at' l).off ((at' l).off + 4) = [] ∧
        localPoisoned r.s e.g.cohort (at' l).wg (at' l).off 4 = false) →
      (r.lanes.map (·.lane)).Nodup →
      sets fun l => BitVec.ofNat 32 (natOfBytes (localBytes r.s e.g.cohort (at' l).wg (at' l).off 4)))) ∧
  (∀ (e : SpEnv) (r : SpRun) (fuel j : Nat), j < 64 →
    let w := slotWord e.im e.n j
    (uOpc w = 1 → spFrom e (fuel + 1) j r = .ok r) ∧
    (uOpc w ≠ 1 → uOpc w ≠ 0x1A → ∀ r', spSlot e r j 0 (fun _ => true) = .ok r' → spFrom e (fuel + 1) j r = spFrom e fuel (j + 1) r') ∧
    ∀ (k : Nat → Nat) (top : Nat) (run : Nat → SpRun) (body : Nat → Nat → SpRun), uOpc w = 0x1A → (r.lanes.map (·.lane)).Nodup →
      (∀ l ∈ r.lanes, k l.lane = if uS1 w = 11 then fld w 0 5 else min (spSource e l w (uS1 w)).toNat (fld w 0 5)) →
      (∀ l, l ∉ r.lanes.map (·.lane) → k l = 0) → (∀ l ∈ r.lanes, k l.lane ≤ top) → (top = 0 ∨ ∃ l ∈ r.lanes, k l.lane = top) →
      run 0 = r → (∀ n, n < top → body n 0 = run n ∧ body n (fld w 8 6 - j) = run (n + 1) ∧
        ∀ i, i < fld w 8 6 - j → spSlot e (body n i) (j + 1 + i) n (fun l => decide (n < k l.lane)) = .ok (body n (i + 1))) →
      spFrom e (fuel + 1) j r = spFrom e fuel (fld w 8 6 + 1) (run top)) ∧
  ∀ (mode : RMode) (x y z : Word),
    let f := fun w : Word => fdec fp32 w.toNat
    let n := min (y.toNat / 256 % 64) 32
    let ones : Word := BitVec.ofNat 32 (2 ^ n - 1)
    let V := fun (opc : Nat) (v : Word) => microOp opc mode x y z = (v, 0)
    let F := fun (opc : Nat) (r : Nat × FlagSet) => microOp opc mode x y z = (BitVec.ofNat 32 r.1, r.2)
    V 0x02 (x + y) ∧ V 0x03 (x - y) ∧ V 0x04 (x * y) ∧ V 0x05 (x &&& y) ∧ V 0x06 (x ||| y) ∧ V 0x07 (x ^^^ y) ∧
    V 0x08 (if 32 ≤ y.toNat then 0 else x <<< y.toNat) ∧ V 0x09 (if 32 ≤ y.toNat then 0 else x >>> y.toNat) ∧
    V 0x0A (if 32 ≤ y.toNat then (if x.getLsbD 31 then BitVec.allOnes 32 else 0) else x.sshiftRight y.toNat) ∧
    V 0x0B ((x >>> (y.toNat % 32)) &&& ones) ∧
    V 0x0C ((z &&& ~~~(ones <<< (y.toNat % 32))) ||| ((x <<< (y.toNat % 32)) &&& (ones <<< (y.toNat % 32)))) ∧
    V 0x0D (if z = 0 then y else x) ∧ V 0x0E (if x = y then 1 else 0) ∧ V 0x0F (if x.toInt < y.toInt then 1 else 0) ∧
    V 0x10 (if x.toNat < y.toNat then 1 else 0) ∧ V 0x11 (if x.toInt ≤ y.toInt then x else y) ∧ V 0x12 (if x.toInt ≤ y.toInt then y else x) ∧
    F 0x13 (fadd fp32 mode (f x) (f y)) ∧ F 0x14 (fmul fp32 mode (f x) (f y)) ∧ F 0x15 (ffma fp32 mode (f x) (f y) (f z)) ∧
    F 0x16 (froundInt fp32 mode x.toInt 0) ∧
    microOp 0x17 mode x y z = (let r := ftoInt mode (-2 ^ 31) (2 ^ 31 - 1) (f x); (BitVec.ofInt 32 r.1, r.2))

/-- R208, R209 with the frame of R207: every form of major 0x01. -/
def Obligations.IntegerArithmetic : Prop :=
  ∀ (s : State) (it : Issue) (g : Gang) (d a b : Reg), Issues s it g →
    let D := fun (i : Instr) (f : Word → Word → Word) =>
      Computes1 s it g (exec i s) d fun l => f (getReg g a.toNat l) (getReg g b.toNat l)
    let clampS := fun x : Int => BitVec.ofInt 32 (max (-2 ^ 31) (min x (2 ^ 31 - 1)))
    let clampU := fun x : Int => BitVec.ofInt 32 (max 0 (min x (2 ^ 32 - 1)))
    let quot := fun x y : Word => if y = 0 then 0xFFFFFFFF#32 else BitVec.ofInt 32 (x.toInt.tdiv y.toInt)
    let rem := fun x y : Word => if y = 0 then x else BitVec.ofInt 32 (x.toInt.tmod y.toInt)
    D (.iadd d a b) (fun x y => x + y) ∧
    D (.isub d a b) (fun x y => x - y) ∧
    D (.imul d a b) (fun x y => x * y) ∧
    D (.imulhi d a b) (fun x y => BitVec.ofInt 32 (x.toInt * y.toInt / 2 ^ 32)) ∧
    D (.imulhiu d a b) (fun x y => BitVec.ofNat 32 (x.toNat * y.toNat / 2 ^ 32)) ∧
    D (.imin d a b) (fun x y => if x.toInt ≤ y.toInt then x else y) ∧
    D (.imax d a b) (fun x y => if x.toInt ≤ y.toInt then y else x) ∧
    D (.iminu d a b) (fun x y => if x.toNat ≤ y.toNat then x else y) ∧
    D (.imaxu d a b) (fun x y => if x.toNat ≤ y.toNat then y else x) ∧
    D (.iabs d a) (fun x _ => BitVec.ofNat 32 x.toInt.natAbs) ∧
    D (.iadds d a b) (fun x y => clampS (x.toInt + y.toInt)) ∧
    D (.isubs d a b) (fun x y => clampS (x.toInt - y.toInt)) ∧
    D (.iaddsu d a b) (fun x y => clampU ((x.toNat : Int) + y.toNat)) ∧
    D (.isubsu d a b) (fun x y => clampU ((x.toNat : Int) - y.toNat)) ∧
    D (.idivu d a b) (fun x y => if y = 0 then 0xFFFFFFFF#32 else x / y) ∧
    D (.iremu d a b) (fun x y => if y = 0 then x else x % y) ∧
    D (.idiv d a b) quot ∧
    D (.irem d a b) rem ∧
    Computes1 s it g (exec (.imad d a b) s) d
      (fun l => getReg g d.toNat l + getReg g a.toNat l * getReg g b.toNat l) ∧
    ∀ x y : Word, quot x y * y + rem x y = x

/-- R213 and R214 with the frame of R207. -/
def Obligations.ImmediateForms : Prop :=
  ∀ (s : State) (it : Issue) (g : Gang) (d a : Reg) (k : BitVec 11) (k5 : BitVec 5) (k18 : BitVec 18), Issues s it g →
    let D := fun (i : Instr) (f : Word → Word) => Computes1 s it g (exec i s) d fun l => f (getReg g a.toNat l)
    D (.iaddi d a k) (fun x => x + k.signExtend 32) ∧
    D (.andi d a k) (fun x => x &&& k.signExtend 32) ∧
    D (.ori d a k) (fun x => x ||| k.signExtend 32) ∧
    D (.xori d a k) (fun x => x ^^^ k.signExtend 32) ∧
    D (.imuli d a k) (fun x => x * k.signExtend 32) ∧
    D (.shli d a k5) (fun x => x <<< k5.toNat) ∧
    D (.movi d k18) (fun _ => k18.signExtend 32) ∧
    Computes1 s it g (exec (.movh d k18) s) d
      (fun l => (k18.zeroExtend 32 <<< 14) ||| (getReg g d.toNat l &&& 0x3FFF#32)) ∧
    Computes2 s it g (exec (.movpc d k18) s) d (fun _ => packetOf it.pc + 4 * k18.signExtend 64) ∧
    ∃ v, IsLaneMask g (execMask g it) (fun l => getReg g a.toNat l == k.signExtend 32) v ∧
      Computes1 s it g (exec (.cmpeqi d a k) s) d fun _ => v

/-- R210, R211 with the frame of R207. -/
def Obligations.BitsAndShifts : Prop :=
  ∀ (s : State) (it : Issue) (g : Gang) (d a b : Reg), Issues s it g →
    let D := fun (i : Instr) (f : Word → Word → Word) =>
      Computes1 s it g (exec i s) d fun l => f (getReg g a.toNat l) (getReg g b.toNat l)
    let p := fun y : Word => y.toNat % 32
    let n := fun y : Word => min (y.toNat / 256 % 64) 32
    let f := fun x y : Word => (x.zeroExtend 64 >>> p y) &&& (BitVec.ofNat 64 (2 ^ n y - 1))
    D (.and d a b) (fun x y => x &&& y) ∧
    D (.or d a b) (fun x y => x ||| y) ∧
    D (.xor d a b) (fun x y => x ^^^ y) ∧
    D (.andn d a b) (fun x y => x &&& ~~~y) ∧
    D (.not d a) (fun x _ => ~~~x) ∧
    D (.shl d a b) (fun x y => if 32 ≤ y.toNat then 0 else x <<< y.toNat) ∧
    D (.shr d a b) (fun x y => if 32 ≤ y.toNat then 0 else x >>> y.toNat) ∧
    D (.sar d a b) (fun x y =>
      if 32 ≤ y.toNat then (if x.getLsbD 31 then BitVec.allOnes 32 else 0) else x.sshiftRight y.toNat) ∧
    D (.rol d a b) (fun x y => (x <<< (y.toNat % 32)) ||| (x >>> (32 - y.toNat % 32))) ∧
    D (.popc d a) (fun x _ => BitVec.ofNat 32 ((List.range 32).filter fun j => x.getLsbD j).length) ∧
    (∃ z : Word → Nat, D (.clz d a) (fun x _ => BitVec.ofNat 32 (z x)) ∧
      ∀ x, z x ≤ 32 ∧ (∀ j, 32 - z x ≤ j → x.getLsbD j = false) ∧ (z x < 32 → x.getLsbD (31 - z x) = true)) ∧
    (∃ r : Word → Word, D (.brev d a) (fun x _ => r x) ∧ ∀ x j, j < 32 → (r x).getLsbD (31 - j) = x.getLsbD j) ∧
    D (.bfe d a b) (fun x y => (f x y).truncate 32) ∧
    D (.bfes d a b) (fun x y => if n y = 0 then 0 else ((f x y).truncate (n y)).signExtend 32) ∧
    Computes1 s it g (exec (.bfi d a b) s) d (fun l =>
      let m : Word := (BitVec.ofNat 64 (2 ^ n (getReg g b.toNat l) - 1) <<< p (getReg g b.toNat l)).truncate 32
      (getReg g d.toNat l &&& ~~~m) ||| ((getReg g a.toNat l <<< p (getReg g b.toNat l)) &&& m))

/-- R212 with the frame of R207. -/
def Obligations.Integer64 : Prop :=
  ∀ (s : State) (it : Issue) (g : Gang) (d a b : Reg), Issues s it g →
    let P := fun (r : Reg) (l : Nat) => getReg g (r.toNat + 1) l ++ getReg g r.toNat l
    let D := fun (i : Instr) (f : DWord → DWord → DWord) => Computes2 s it g (exec i s) d fun l => f (P a l) (P b l)
    let S := fun (i : Instr) (f : DWord → Nat → DWord) => Computes2 s it g (exec i s) d fun l => f (P a l) (getReg g b.toNat l).toNat
    let W := fun (i : Instr) (f : Word → Word → DWord) =>
      Computes2 s it g (exec i s) d fun l => f (getReg g a.toNat l) (getReg g b.toNat l)
    D (.iadd64 d a b) (fun x y => x + y) ∧
    D (.isub64 d a b) (fun x y => x - y) ∧
    D (.imul64 d a b) (fun x y => x * y) ∧
    S (.shl64 d a b) (fun x n => if 64 ≤ n then 0 else x <<< n) ∧
    S (.shr64 d a b) (fun x n => if 64 ≤ n then 0 else x >>> n) ∧
    S (.sar64 d a b) (fun x n => if 64 ≤ n then (if x.getLsbD 63 then BitVec.allOnes 64 else 0) else x.sshiftRight n) ∧
    D (.imin64 d a b) (fun x y => if x.toInt ≤ y.toInt then x else y) ∧
    D (.imax64 d a b) (fun x y => if x.toInt ≤ y.toInt then y else x) ∧
    D (.iminu64 d a b) (fun x y => if x.toNat ≤ y.toNat then x else y) ∧
    D (.imaxu64 d a b) (fun x y => if x.toNat ≤ y.toNat then y else x) ∧
    W (.imulw d a b) (fun x y => BitVec.ofInt 64 (x.toInt * y.toInt)) ∧
    W (.imulwu d a b) (fun x y => BitVec.ofNat 64 (x.toNat * y.toNat))

/-- R215 with the frame of R207. -/
def Obligations.IntegerCompares : Prop :=
  ∀ (s : State) (it : Issue) (g : Gang) (d a b : Reg), Issues s it g →
    let P := fun (r : Reg) (l : Nat) => getReg g (r.toNat + 1) l ++ getReg g r.toNat l
    let M := fun (i : Instr) (c : Nat → Bool) =>
      ∃ v, IsLaneMask g (execMask g it) c v ∧ Computes1 s it g (exec i s) d fun _ => v
    let x := fun l => getReg g a.toNat l
    let y := fun l => getReg g b.toNat l
    M (.cmpeq d a b) (fun l => x l = y l) ∧
    M (.cmpne d a b) (fun l => x l ≠ y l) ∧
    M (.cmplt d a b) (fun l => (x l).toInt < (y l).toInt) ∧
    M (.cmple d a b) (fun l => (x l).toInt ≤ (y l).toInt) ∧
    M (.cmpltu d a b) (fun l => (x l).toNat < (y l).toNat) ∧
    M (.cmpleu d a b) (fun l => (x l).toNat ≤ (y l).toNat) ∧
    M (.cmpeq64 d a b) (fun l => P a l = P b l) ∧
    M (.cmplt64 d a b) (fun l => (P a l).toInt < (P b l).toInt) ∧
    M (.cmpltu64 d a b) (fun l => (P a l).toNat < (P b l).toNat) ∧
    M (.cmple64 d a b) (fun l => (P a l).toInt ≤ (P b l).toInt) ∧
    M (.cmpleu64 d a b) (fun l => (P a l).toNat ≤ (P b l).toNat)

/-- R217, and R218 where every index is in range, with the frame of R207. -/
def Obligations.MovesAndIndirect : Prop :=
  ∀ (s : State) (it : Issue) (g : Gang) (d a b : Reg), Issues s it g →
    Computes1 s it g (exec (.mov d a) s) d (fun l => getReg g a.toNat l) ∧
    Computes2 s it g (exec (.mov64 d a) s) d (fun l => getReg g (a.toNat + 1) l ++ getReg g a.toNat l) ∧
    Computes1 s it g (exec (.sel d a b) s) d (fun l =>
      if (getReg g b.toNat l).getLsbD (if g.prot then l / 2 else l) then getReg g a.toNat l else getReg g d.toNat l) ∧
    ((∀ l, l < 32 → (execMask g it).getLsbD l = true → (getReg g a.toNat l).toNat < g.alloc) →
      Computes1 s it g (exec (.rdind d a) s) d (fun l => getReg g (getReg g a.toNat l).toNat l) ∧
      Computes s it g (exec (.wrind a b) s) (fun l => [((getReg g a.toNat l).toNat, getReg g b.toNat l)]))

/-- R219, R220, R221 with the frame of R207. -/
def Obligations.LaneCollectives : Prop :=
  (∀ (s : State) (it : Issue) (g : Gang) (d a b : Reg), Issues s it g →
      let W : Nat := if g.prot then 16 else 32
      let vis := fun l : Nat => if g.prot then l / 2 else l
      let lane := fun (l k : Nat) => if g.prot then 2 * k + l % 2 else k
      let inside := fun x : Int => 0 ≤ x ∧ x < W
      let value := fun (x : Int) (l : Nat) =>
        if ¬inside x then getReg g a.toNat l
        else if g.launchMask.getLsbD (lane l x.toNat) = false then 0
        else if g.live.getLsbD (lane l x.toNat) = false then 0
        else getReg g a.toNat (lane l x.toNat)
      let dead := fun (x : Int) (l : Nat) => inside x ∧ g.launchMask.getLsbD (lane l x.toNat) = true ∧
        g.live.getLsbD (lane l x.toNat) = false
      let D := fun (i : Instr) (src : Nat → Nat → Int) =>
        let x := fun l : Nat => src (vis l) (getReg g b.toNat l).toNat
        ∃ (h : Gang) (any : Bool),
          (any = true ↔ ∃ l, l < 32 ∧ (execMask g it).getLsbD l = true ∧ dead (x l) l) ∧
          exec i s = .next { withGangState s { h with deadsrc := g.deadsrc || any } with
            iss := some { it with rdead := it.rdead || any } } ∧
          Writes g h (execMask g it) (fun l => [(d.toNat, value (x l) l)])
      D (.shflIdx d a b) (fun _ n => ((n % W : Nat) : Int)) ∧
      D (.shflUp d a b) (fun i n => (i : Int) - n) ∧
      D (.shflDown d a b) (fun i n => (i : Int) + n) ∧
      D (.shflXor d a b) (fun i n => ((i ^^^ (n % W) : Nat) : Int))) ∧
  (∀ (s : State) (it : Issue) (g : Gang) (d a : Reg), Issues s it g →
      let m := execMask g it
      ∃ v e w : Word, IsLaneMask g m (fun l => getReg g a.toNat l ≠ 0) v ∧ IsLaneMask g m (fun _ => true) e ∧
        (∀ j, j < 32 → m.getLsbD j = true → (∀ l, l < j → m.getLsbD l = false) →
          w = 1#32 <<< (if g.prot then j / 2 else j)) ∧
        Computes1 s it g (exec (.voteBallot d a) s) d (fun _ => v) ∧
        Computes1 s it g (exec (.voteAny d a) s) d (fun _ => if v ≠ 0 then 1 else 0) ∧
        Computes1 s it g (exec (.voteAll d a) s) d (fun _ => if v = e then 1 else 0) ∧
        Computes1 s it g (exec (.elect d) s) d (fun _ => w)) ∧
  ∀ (s : State) (it : Issue) (g : Gang) (d a : Reg), Issues s it g →
    let L := fun l : Nat => (List.range 32).filter fun j =>
      (execMask g it).getLsbD j && (!g.prot || j % 2 == l % 2)
    let D := fun (i : Instr) (f : Word → Word → Word) (unit : Word) =>
      Computes1 s it g (exec i s) d fun l => (L l).foldl (fun acc j => f acc (getReg g a.toNat j)) unit
    D (.redadd d a) (fun x y => x + y) 0 ∧
    D (.redmin d a) (fun x y => if x.toInt ≤ y.toInt then x else y) 0x7FFFFFFF#32 ∧
    D (.redmax d a) (fun x y => if x.toInt ≤ y.toInt then y else x) 0x80000000#32 ∧
    D (.redminu d a) (fun x y => if x.toNat ≤ y.toNat then x else y) 0xFFFFFFFF#32 ∧
    D (.redmaxu d a) (fun x y => if x.toNat ≤ y.toNat then y else x) 0 ∧
    D (.redand d a) (fun x y => x &&& y) 0xFFFFFFFF#32 ∧
    D (.redor d a) (fun x y => x ||| y) 0 ∧
    D (.redxor d a) (fun x y => x ^^^ y) 0 ∧
    Computes1 s it g (exec (.scanadd d a) s) d (fun l =>
      ((L l).filter (· ≤ l)).foldl (fun acc j => acc + getReg g a.toNat j) 0)

/-- R222 with the flags of R166 and the frame of R207. -/
def Obligations.FloatReductions : Prop :=
  ∀ (s : State) (it : Issue) (g : Gang) (d a : Reg) (rnd : RMod), Issues s it g →
    let m := execMask g it
    let L := fun l : Nat => (List.range 32).filter fun j => m.getLsbD j && (!g.prot || j % 2 == l % 2)
    let bits := fun j : Nat => (getReg g a.toNat j).toNat
    let D := fun (i : Instr) (step : Nat → Nat → Nat × FlagSet) =>
      let r := fun l : Nat => ffold step ((L l).map bits)
      let f := fun l : Nat => (⟨[(d.toNat, BitVec.ofNat 32 (r l).1)], flagsOf m fun k => ⟨[], (r k).2⟩⟩ : LaneOut)
      (∀ l, l < 32 → m.getLsbD l = true → ∃ j t, L l = j :: t ∧
        (r l).1 = (if (L l).any (fun k => (fdec fp32 (bits k)).isNan) then 0x7FC00000
          else t.foldl (fun acc k => (step acc (bits k)).1) (bits j))) ∧
      FpResult s it g (exec i s) f
    D (.fredadd d a rnd) (fun x y => fadd fp32 (modeOf g rnd) (fdec fp32 x) (fdec fp32 y)) ∧
    D (.fredmin d a rnd) (fun x y => (if fbelow (fdec fp32 y) (fdec fp32 x) then y else x, 0)) ∧
    D (.fredmax d a rnd) (fun x y => (if fbelow (fdec fp32 x) (fdec fp32 y) then y else x, 0))

/-- R216 with the frame of R207. -/
def Obligations.FloatCompares : Prop :=
  ∀ (s : State) (it : Issue) (g : Gang) (d a b : Reg), Issues s it g →
    let m := execMask g it
    let S := fun (r : Reg) (l : Nat) => fdec fp32 (getReg g r.toNat l).toNat
    let P := fun (r : Reg) (l : Nat) => fdec fp64 (getReg g (r.toNat + 1) l ++ getReg g r.toNat l).toNat
    let ordered := fun x y : FVal => x.isNan = false ∧ y.isNan = false
    let quiet := fun x y : FVal => x.isSnan = true ∨ y.isSnan = true
    let anyNan := fun x y : FVal => x.isNan = true ∨ y.isNan = true
    let D := fun (i : Instr) (v : Reg → Nat → FVal) (c : FVal → FVal → Prop) (nv : FVal → FVal → Prop) =>
      ∃ (w : Word) (fl : Nat → FlagSet) (cond : Nat → Bool), IsLaneMask g m cond w ∧
        (∀ l, (cond l = true ↔ c (v a l) (v b l)) ∧ (nv (v a l) (v b l) → fl l = fNV) ∧
          (¬nv (v a l) (v b l) → fl l = 0)) ∧
        FpResult s it g (exec i s) (fun l => ⟨[(d.toNat, w)], fl l⟩)
    D (.fcmpeq d a b) S (fun x y => ordered x y ∧ fcmp x y = 0) quiet ∧
    D (.fcmpne d a b) S (fun x y => ¬(ordered x y ∧ fcmp x y = 0)) quiet ∧
    D (.fcmplt d a b) S (fun x y => ordered x y ∧ fcmp x y = -1) anyNan ∧
    D (.fcmple d a b) S (fun x y => ordered x y ∧ fcmp x y ≠ 1) anyNan ∧
    D (.fcmpun d a b) S anyNan quiet ∧
    D (.dcmpeq d a b) P (fun x y => ordered x y ∧ fcmp x y = 0) quiet ∧
    D (.dcmpne d a b) P (fun x y => ¬(ordered x y ∧ fcmp x y = 0)) quiet ∧
    D (.dcmplt d a b) P (fun x y => ordered x y ∧ fcmp x y = -1) anyNan ∧
    D (.dcmple d a b) P (fun x y => ordered x y ∧ fcmp x y ≠ 1) anyNan ∧
    D (.dcmpun d a b) P anyNan quiet

/-- R240, R241, R166. `fadd`, `fmul`, `ffma`, `fdiv`, `fsqrt`, `frnd` and `fscale` round exact values once (R163, R164). -/
def Obligations.FloatArithmetic : Prop :=
  ∀ (s : State) (it : Issue) (g : Gang) (d a b : Reg), Issues s it g →
    let mode := dynMode g
    let B := fun (f : Fmt) (r : Reg) (l : Nat) => bitsAt f g r l
    let V := fun (f : Fmt) (r : Reg) (l : Nat) => fdec f (bitsAt f g r l)
    let D := fun (f : Fmt) (i : Instr) (v : Nat → Nat × FlagSet) => FpResult s it g (exec i s) fun l => outF f d (v l)
    let nanOr := fun (f : Fmt) (l : Nat) (others : List FVal) (v : Nat) =>
      (if (V f a l).isNan then f.nan else v,
        if (V f a l :: others).any (·.isSnan) then fNV else (0#8 : FlagSet))
    let clear := fun (f : Fmt) (l : Nat) => B f a l % f.signBit
    let C := fun (f : Fmt) (add sub mul fma nma div sqrt min max abs neg rnd scale copysign minnum maxnum : Instr) =>
      D f add (fun l => fadd f mode (V f a l) (V f b l)) ∧
      D f sub (fun l => fadd f mode (V f a l) (V f b l).negate) ∧
      D f mul (fun l => fmul f mode (V f a l) (V f b l)) ∧
      D f fma (fun l => ffma f mode (V f a l) (V f b l) (V f d l)) ∧
      D f nma (fun l => ffma f mode (V f a l).negate (V f b l) (V f d l)) ∧
      D f div (fun l => fdiv f mode (V f a l) (V f b l)) ∧
      D f sqrt (fun l => fsqrt f mode (V f a l)) ∧
      D f min (fun l => fminmax f false (B f a l) (B f b l)) ∧
      D f max (fun l => fminmax f true (B f a l) (B f b l)) ∧
      D f abs (fun l => nanOr f l [] (clear f l)) ∧
      D f neg (fun l => nanOr f l [] (if B f a l < f.signBit then f.signBit + clear f l else clear f l)) ∧
      D f rnd (fun l => frnd f mode (B f a l)) ∧
      D f scale (fun l => fscale f mode (B f a l) (getReg g b.toNat l).toInt) ∧
      D f copysign (fun l => nanOr f l [V f b l] (if B f b l < f.signBit then clear f l else f.signBit + clear f l)) ∧
      D f minnum (fun l => fminmaxNum f false (B f a l) (B f b l)) ∧
      D f maxnum (fun l => fminmaxNum f true (B f a l) (B f b l))
    C fp32 (.fadd d a b) (.fsub d a b) (.fmul d a b) (.ffma d a b) (.fnma d a b) (.fdiv d a b) (.fsqrt d a) (.fmin d a b)
      (.fmax d a b) (.fabs d a) (.fneg d a) (.frnd d a) (.fscale d a b) (.fcopysign d a b) (.fminnum d a b)
      (.fmaxnum d a b) ∧
    C fp64 (.dadd d a b) (.dsub d a b) (.dmul d a b) (.dfma d a b) (.dnma d a b) (.ddiv d a b) (.dsqrt d a) (.dmin d a b)
      (.dmax d a b) (.dabs d a) (.dneg d a) (.drnd d a) (.dscale d a b) (.dcopysign d a b) (.dminnum d a b)
      (.dmaxnum d a b) ∧
    FpResult s it g (exec (.fclass d a) s) (fun l =>
      out1 d (2 ^ (fclassBit fp32 (B fp32 a l)).1, (fclassBit fp32 (B fp32 a l)).2)) ∧
    FpResult s it g (exec (.dclass d a) s) (fun l =>
      out1 d (2 ^ (fclassBit fp64 (B fp64 a l)).1, (fclassBit fp64 (B fp64 a l)).2))

/-- R242, R243, R166. -/
def Obligations.PackedArithmetic : Prop :=
  ∀ (s : State) (it : Issue) (g : Gang) (d a b : Reg) (rnd : RMod), Issues s it g →
    let mode := dynMode g
    let E := fun (r : Reg) (l h : Nat) => (getReg g r.toNat l).toNat / 2 ^ (16 * h) % 2 ^ 16
    let V := fun (f : Fmt) (r : Reg) (l h : Nat) => fdec f (E r l h)
    let D := fun (i : Instr) (v : Nat → Nat → Nat × FlagSet) =>
      FpResult s it g (exec i s) fun l =>
        ⟨[(d.toNat, BitVec.ofNat 32 ((v l 0).1 + 2 ^ 16 * (v l 1).1))], (v l 0).2 ||| (v l 1).2⟩
    let C := fun (f : Fmt) (add sub mul fma min max : Instr) =>
      D add (fun l h => fadd f mode (V f a l h) (V f b l h)) ∧
      D sub (fun l h => fadd f mode (V f a l h) (V f b l h).negate) ∧
      D mul (fun l h => fmul f mode (V f a l h) (V f b l h)) ∧
      D fma (fun l h => ffma f mode (V f a l h) (V f b l h) (V f d l h)) ∧
      D min (fun l h => fminmax f false (E a l h) (E b l h)) ∧
      D max (fun l h => fminmax f true (E a l h) (E b l h))
    let dot := fun (f : Fmt) (i : Instr) => FpResult s it g (exec i s) fun l =>
      out1 d (sumProd fp32 (modeOf g rnd) true
        [[fdec fp32 (getReg g d.toNat l).toNat], [V f a l 0, V f b l 0], [V f a l 1, V f b l 1]])
    C fp16 (.hadd2 d a b) (.hsub2 d a b) (.hmul2 d a b) (.hfma2 d a b) (.hmin2 d a b) (.hmax2 d a b) ∧
    C bf16 (.badd2 d a b) (.bsub2 d a b) (.bmul2 d a b) (.bfma2 d a b) (.bmin2 d a b) (.bmax2 d a b) ∧
    dot fp16 (.hdot2f d a b rnd) ∧ dot bf16 (.bdot2f d a b rnd)

/-- R244, R245, R166: `correct` rounds the exact function value, `approximate` lies within R244's bounds; the enclosures and the free value
within the bounds are the model's choice (log 10). `fixOf` is a finite value in units of 2^-320. -/
def Obligations.SpecialFunctions : Prop :=
  (∀ (s : State) (it : Issue) (g : Gang) (d a : Reg), Issues s it g →
    let x := fun l => getReg g a.toNat l
    let C := fun (i : Instr) (k : Nat) => FpResult s it g (exec i s) fun l => out1 d (correct k (dynMode g) (x l))
    let A := fun (i : Instr) (k : Nat) => FpResult s it g (exec i s) fun l => out1 d (approximate k (x l))
    C (.frcp d a) 0 ∧ C (.frsqrt d a) 1 ∧ C (.fexp2 d a) 2 ∧ C (.flog2 d a) 3 ∧ C (.fsinpi d a) 4 ∧ C (.fcospi d a) 5 ∧
    A (.frcpA d a) 8 ∧ A (.frsqrtA d a) 9 ∧ A (.fexp2A d a) 10 ∧ A (.flog2A d a) 11 ∧ A (.fsinA d a) 12 ∧
    A (.fcosA d a) 13 ∧ A (.ftanhA d a) 14) ∧
  (∀ (mode : RMode) (x : Word),
    let both := fun (k : Nat) (r : Nat × FlagSet) => correct k mode x = r ∧ approximate (k + 8) x = r
    (x = 0x00000000#32 → both 0 (0x7F800000, fDZ) ∧ both 2 (0x3F800000, 0) ∧ both 3 (0xFF800000, fDZ)) ∧
    (x = 0x80000000#32 → both 0 (0xFF800000, fDZ) ∧ both 2 (0x3F800000, 0) ∧ both 3 (0xFF800000, fDZ)) ∧
    (0x80000000 < x.toNat → x.toNat ≤ 0xFF800000 → both 1 (0x7FC00000, fNV) ∧ both 3 (0x7FC00000, fNV)) ∧
    (x = 0x7F800000#32 → approximate 14 x = (0x3F800000, 0) ∧ approximate 12 x = (0x7FC00000, fNV))) ∧
  (∀ (mode : RMode) (x : Word) (m : Nat) (e : Int), fdec fp32 x.toNat = .fin false m e → m ≠ 0 →
    let r := correct 1 mode x
    ∃ m' e', fdec fp32 r.1 = .fin false m' e' ∧
      let X := fixOf (.fin false m e)
      let v := fixOf (.fin false m' e')
      let u : Int := 2 ^ (e' + 320).toNat
      (mode = .rz ∨ mode = .rm → v * v * X ≤ 2 ^ 960 ∧ 2 ^ 960 < (v + u) * (v + u) * X) ∧
      (mode = .rp → 2 ^ 960 ≤ v * v * X ∧ (v - u) * (v - u) * X < 2 ^ 960) ∧
      (mode = .rn → (2 * v - u) * (2 * v - u) * X ≤ 4 * 2 ^ 960 ∧ 4 * 2 ^ 960 ≤ (2 * v + u) * (2 * v + u) * X) ∧
      r.2 = if v * v * X = 2 ^ 960 then 0 else fNX) ∧
  (∀ (mode : RMode) (fn : Nat) (x : Word) (n : Bool) (m : Nat) (e : Int) (enc : Enc) (y : Nat), fdec fp32 x.toNat = .fin n m e → m ≠ 0 →
    (fn = 2 ∧ e < 0 ∧ m % 2 ^ (-e).toNat ≠ 0 ∧ enc = exp2Enc n m e ∨
      fn = 3 ∧ n = false ∧ 2 ^ Nat.log2 m ≠ m ∧ log2Enc m e = some enc ∨
      fn = 4 ∧ sinPi (mod2 n m e).1 (mod2 n m e).2 = .irr enc) →
    enc.lo ≤ y → y ≤ enc.hi →
    Nat.log2 enc.lo < 31 ∨ enc.lo / 2 ^ (Nat.log2 enc.lo - 31) ≠ enc.hi / 2 ^ (Nat.log2 enc.lo - 31) ∨
      correct fn mode x = fround fp32 mode enc.neg y enc.exp true) ∧
  ∀ (fn : Nat) (x : Word) (n : Bool) (m : Nat) (e : Int), 8 ≤ fn → fn ≤ 14 → fdec fp32 x.toNat = .fin n m e → m ≠ 0 →
    (fn = 9 ∨ fn = 11 → n = false) →
    let X := fixOf (.fin n m e)
    let c := fdec fp32 (approximate fn x).1
    let C := fixOf c
    let finite := ∃ n' m' e', c = .fin n' m' e'
    (approximate fn x).2 = 0 ∧
    (fn = 8 → finite → (C * X - 2 ^ 640).natAbs ≤ ulpFix (2 ^ 640 / X.natAbs) * X.natAbs) ∧
    (fn = 9 → let b : Int := 2 * ulpFix (isqrt (2 ^ 960 / X.natAbs))
      finite ∧ (C - b) * (C - b) * X ≤ 2 ^ 960 ∧ 2 ^ 960 ≤ (C + b) * (C + b) * X) ∧
    (fn = 12 ∨ fn = 13 → 2 ^ 335 < X.natAbs → finite ∧ C.natAbs ≤ 2 ^ 320) ∧
    ((fn = 12 ∨ fn = 13 → X.natAbs ≤ 2 ^ 335) → ∀ lo hi, exactBounds fn n m e = some (lo, hi) →
      let b : Int := approxBound fn (min lo.natAbs hi.natAbs) (inHalfTwo m e)
      lo ≤ hi → 4 * (hi - lo) ≤ b → finite → hi - C ≤ b ∧ C - lo ≤ b)

/-- R246 to R249, R166. -/
def Obligations.Conversions : Prop :=
  (∀ (s : State) (it : Issue) (g : Gang) (d a b : Reg) (rnd : RMod), Issues s it g →
    let mode := dynMode g
    let m := modeOf g rnd
    let W := fun (r : Reg) (l : Nat) => (getReg g r.toNat l).toNat
    let P := fun (l : Nat) => (getReg g (a.toNat + 1) l ++ getReg g a.toNat l : DWord)
    let S := fun (r : Reg) (l : Nat) => fdec fp32 (W r l)
    let D := fun (l : Nat) => fdec fp64 (P l).toNat
    let half := fun (f : Fmt) (l h : Nat) => fdec f (W a l / 2 ^ (16 * h) % 2 ^ 16)
    let byte := fun (f : Fmt) (l j : Nat) => fdec f (W a l / 2 ^ (8 * j) % 2 ^ 8)
    let R := fun (i : Instr) (f : Nat → LaneOut) => FpResult s it g (exec i s) f
    let ext := fun (k : BitVec 4) (fl : BitVec 2) => Instr.fpExtendedRoundingForm .conv k d a b rnd fl
    let two := fun (f : Fmt) (md : RMode) (sat : Bool) (k : Nat) (l : Nat) =>
      let x := fconv f md sat (S a l)
      let y := fconv f md sat (S b l)
      ((x.1 + 2 ^ k * y.1, x.2 ||| y.2) : Nat × FlagSet)
    let low := fun (v : Nat × FlagSet) (l : Nat) => out1 d (v.1 + 2 ^ 16 * (W d l / 2 ^ 16 % 2 ^ 16), v.2)
    let high := fun (v : Nat × FlagSet) (l : Nat) => out1 d (W d l % 2 ^ 16 + 2 ^ 16 * v.1, v.2)
    let wide := fun (f : Fmt) (l : Nat) =>
      let x := fconv fp32 .rn false (half f l 0)
      let y := fconv fp32 .rn false (half f l 1)
      out2 d (x.1 + 2 ^ 32 * y.1, x.2 ||| y.2)
    let quad := fun (f : Fmt) (l : Nat) =>
      let r := fun j => fconv fp32 .rn false (byte f l j)
      (⟨(List.range 4).map fun j => (d.toNat + j, BitVec.ofNat 32 (r j).1), (r 0).2 ||| (r 1).2 ||| (r 2).2 ||| (r 3).2⟩ : LaneOut)
    let int32 := fun (r : Int × FlagSet) => (⟨[(d.toNat, BitVec.ofInt 32 r.1)], r.2⟩ : LaneOut)
    let int64 := fun (r : Int × FlagSet) => (⟨wordsInto d 2 (BitVec.ofInt 64 r.1).toNat, r.2⟩ : LaneOut)
    R (.f2d d a) (fun l => out2 d (fconv fp64 .rn false (S a l))) ∧
    R (.d2f d a) (fun l => out1 d (fconv fp32 mode false (D l))) ∧
    R (ext 1 1) (fun l => out1 d (fconv fp32 m true (D l))) ∧
    R (.f2h d a b) (fun l => out1 d (two fp16 mode false 16 l)) ∧ R (ext 2 1) (fun l => out1 d (two fp16 m true 16 l)) ∧
    R (.f2bf d a b) (fun l => out1 d (two bf16 mode false 16 l)) ∧ R (ext 4 1) (fun l => out1 d (two bf16 m true 16 l)) ∧
    R (.h2f d a) (wide fp16) ∧ R (.bf2f d a) (wide bf16) ∧
    R (.f2e4 d a b) (fun l => low (two e4m3 mode false 8 l) l) ∧ R (ext 6 1) (fun l => low (two e4m3 m true 8 l) l) ∧
    R (ext 6 2) (fun l => high (two e4m3 m false 8 l) l) ∧ R (ext 6 3) (fun l => high (two e4m3 m true 8 l) l) ∧
    R (.f2e5 d a b) (fun l => low (two e5m2 mode false 8 l) l) ∧ R (ext 7 1) (fun l => low (two e5m2 m true 8 l) l) ∧
    R (ext 7 2) (fun l => high (two e5m2 m false 8 l) l) ∧ R (ext 7 3) (fun l => high (two e5m2 m true 8 l) l) ∧
    R (.e42f d a) (quad e4m3) ∧ R (.e52f d a) (quad e5m2) ∧
    R (.f2i d a) (fun l => int32 (ftoInt mode (-2 ^ 31) (2 ^ 31 - 1) (S a l))) ∧
    R (.f2u d a) (fun l => int32 (ftoInt mode 0 (2 ^ 32 - 1) (S a l))) ∧
    R (.d2i d a rnd) (fun l => int32 (ftoInt m (-2 ^ 31) (2 ^ 31 - 1) (D l))) ∧
    R (.d2u d a rnd) (fun l => int32 (ftoInt m 0 (2 ^ 32 - 1) (D l))) ∧
    R (.f2l d a rnd) (fun l => int64 (ftoInt m (-2 ^ 63) (2 ^ 63 - 1) (S a l))) ∧
    R (.f2ul d a rnd) (fun l => int64 (ftoInt m 0 (2 ^ 64 - 1) (S a l))) ∧
    R (.d2l d a rnd) (fun l => int64 (ftoInt m (-2 ^ 63) (2 ^ 63 - 1) (D l))) ∧
    R (.d2ul d a rnd) (fun l => int64 (ftoInt m 0 (2 ^ 64 - 1) (D l))) ∧
    R (.i2f d a) (fun l => out1 d (froundInt fp32 mode (getReg g a.toNat l).toInt 0)) ∧
    R (.u2f d a) (fun l => out1 d (froundInt fp32 mode (W a l) 0)) ∧
    R (.i2d d a) (fun l => out2 d (froundInt fp64 mode (getReg g a.toNat l).toInt 0)) ∧
    R (.u2d d a) (fun l => out2 d (froundInt fp64 mode (W a l) 0)) ∧
    R (.l2f d a rnd) (fun l => out1 d (froundInt fp32 m (P l).toInt 0)) ∧
    R (.ul2f d a rnd) (fun l => out1 d (froundInt fp32 m (P l).toNat 0)) ∧
    R (.l2d d a rnd) (fun l => out2 d (froundInt fp64 m (P l).toInt 0)) ∧
    R (.ul2d d a rnd) (fun l => out2 d (froundInt fp64 m (P l).toNat 0))) ∧
  (∀ (mode : RMode) (lo hi : Int) (x : FVal), lo ≤ 0 → 0 ≤ hi →
    let r := ftoInt mode lo hi x
    lo ≤ r.1 ∧ r.1 ≤ hi ∧ (x.isNan = true → r = (0, fNV)) ∧
      (x = .inf true → r = (lo, fNV)) ∧ (x = .inf false → r = (hi, fNV)) ∧ (r.2 = 0 ∨ r.2 = fNX ∨ r.2 = fNV))

/-- R250, R252, R177, R166. -/
def Obligations.AnchoredAccumulators : Prop :=
  ∀ (s : State) (it : Issue) (g : Gang) (d a b : Reg), Issues s it g →
    let mode := dynMode g
    let Q := fun (r : Reg) (l : Nat) => (getReg g (r.toNat + 3) l ++ getReg g (r.toNat + 2) l ++ (getReg g (r.toNat + 1) l ++
      getReg g r.toNat l) : QWord).toInt
    let A := fun l => (getReg g b.toNat l).toInt
    let ok := fun l => -2048 ≤ A l ∧ A l ≤ 2047
    let R := fun (i : Instr) (f : Nat → LaneOut) => FpResult s it g (exec i s) f
    let quad := fun (v : Int) (fl : FlagSet) => (⟨wordsInto d 4 (BitVec.ofInt 128 v).toNat, fl⟩ : LaneOut)
    let one := fun (v : Nat → FVal) (l : Nat) =>
      if ok l then quad (anchorAdd (Q d l) (A l) (v l)).1 (anchorAdd (Q d l) (A l) (v l)).2 else ⟨[], fNV⟩
    let half := fun (f : Fmt) (h l : Nat) => fdec f ((getReg g a.toNat l).toNat / 2 ^ (16 * h) % 2 ^ 16)
    let two := fun (f : Fmt) (l : Nat) =>
      let x := anchorAdd (Q d l) (A l) (half f 0 l)
      let y := anchorAdd x.1 (A l) (half f 1 l)
      if ok l then quad y.1 (x.2 ||| y.2) else ⟨[], fNV⟩
    let sum := fun l => (((List.range 32).filter fun j => (execMask g it).getLsbD j && (!g.prot || j % 2 == l % 2)).map (Q a)).sum
    let total := fun (x : Int) => quad x (if x < -2 ^ 127 ∨ 2 ^ 127 - 1 < x then fAO else 0)
    let cvt := fun (f : Fmt) (l : Nat) => outF f d (if ok l then froundInt f mode (Q a l) (A l) else (f.nan, fNV))
    R (.aaddf d a b) (one fun l => fdec fp32 (getReg g a.toNat l).toNat) ∧
    R (.aaddd d a b) (one fun l => fdec fp64 (getReg g (a.toNat + 1) l ++ getReg g a.toNat l).toNat) ∧
    R (.aaddh d a b) (two fp16) ∧
    R (.aaddbf d a b) (two bf16) ∧
    R (.aaddq d a) (fun l => total (Q d l + Q a l)) ∧
    R (.ared d a) (fun l => total (sum l)) ∧
    R (.acvtf d a b) (cvt fp32) ∧
    R (.acvtd d a b) (cvt fp64)

/-- R238, with R166. -/
def Obligations.ExtendedRoundingForms : Prop :=
  ∀ (maj : FpMajor) (op : BitVec 4) (d a b : Reg) (i : Instr),
    decodeRaw (encA3 false (encFpMajor maj) op d a b) 0 = some i → (fpForm maj op).isSome → op ≠ 0xF#4 →
    ∃ F : Gang → LaneMask → RMode → Nat → LaneOut,
      (∀ g m mode w, F { g with fpctl := w } m mode = F g m mode) ∧
      ∀ (s : State) (it : Issue) (g : Gang) (rnd : RMod), Issues s it g →
        FpResult s it g (exec i s) (F g (execMask g it) (dynMode g)) ∧
        FpResult s it g (exec (.fpExtendedRoundingForm maj op d a b rnd 0) s) (F g (execMask g it) (modeOf g rnd))

/-- R163: the rounding on which every floating-point result rests, without sticky bits. -/
def Obligations.RoundingModes : Prop :=
  ∀ (mode : RMode) (neg : Bool) (m sh : Nat) (e : Int), 1 ≤ sh →
    let r := roundAt mode neg m e (e + sh) false
    let n := r.1
    (r.2 = true ↔ m ≠ n * 2 ^ sh) ∧ m < (n + 1) * 2 ^ sh ∧ n * 2 ^ sh < m + 2 ^ sh ∧
    (mode = .rz → n * 2 ^ sh ≤ m) ∧
    (mode = .rp → if neg then n * 2 ^ sh ≤ m else m ≤ n * 2 ^ sh) ∧
    (mode = .rm → if neg then m ≤ n * 2 ^ sh else n * 2 ^ sh ≤ m) ∧
    (mode = .rn → 2 * m ≤ (2 * n + 1) * 2 ^ sh ∧ 2 * (n * 2 ^ sh) ≤ 2 * m + 2 ^ sh ∧
      (2 * m = (2 * n + 1) * 2 ^ sh ∨ 2 * (n * 2 ^ sh) = 2 * m + 2 ^ sh → n % 2 = 0))

/-- R143, R144, R236, R381 to R384, R386, R389; log 16 for the rings' places, log 46 for a new region's balance, log 49 for the conditions of
REGION.CREATE and log 99 for the bus test after repair, the model's choices. -/
def Obligations.FirmwareFrame : Prop :=
  (∀ (s : State) (tag : BitVec 16) (status : Nat) (detail : DWord),
    let n := 2 ^ (s.dev.logN.toNat + 4)
    let v := complete s tag status detail
    let place := 2 ^ 48 + (s.dev.cqBase + BitVec.ofNat 64 (16 * s.dev.cqIndex)).toNat
    v.dev.cqIndex = (s.dev.cqIndex + 1) % n ∧ v.dev.sqHead = s.dev.sqHead ∧ v.dev.current = none ∧ v.dev.serving = none ∧
    v.dev.cqPhase = (if s.dev.cqIndex + 1 < n then s.dev.cqPhase else !s.dev.cqPhase) ∧
    { v with mem := s.mem, dev := s.dev, now := s.now } = s ∧
    (∀ a, (a < place ∨ place + 16 ≤ a) → memByte v a = memByte s a) ∧
    (linkUp s 0 = true → place + 16 ≤ 2 ^ 51 → status < 2 ^ 15 → rawBytes v place 16 =
      bytesOf 2 tag.toNat ++ bytesOf 2 (status + if s.dev.cqPhase then 2 ^ 15 else 0) ++ bytesOf 4 0 ++ bytesOf 8 detail.toNat)) ∧
  (∀ (s : State) (x : BitVec 512), s.dev.current = none → s.dev.serving = none → s.dev.qEn = true → s.dev.sqHead ≠ s.dev.sqTail →
    nextEntry s = some x → decodeCommandRaw x = none →
      let head := BitVec.ofNat 32 ((s.dev.sqHead.toNat + 1) % 2 ^ (s.dev.logN.toNat + 4))
      serveTurn s = .next (complete { s with dev := { s.dev with sqHead := head, serving := some x } } (x.extractLsb' 16 16) 1 0)) ∧
  ∀ (s : State) (h : CmdHead) (root saveBase saveSize poolBase image rcb desc va keys buf page data : DWord) (pages n : Word)
    (owner slot fdom key : Byte) (nonce : BitVec 256), s.dev.current = none →
    let R := fun (i : Instr) (t : State) (status : Nat) (detail : DWord) => exec i s = .next (complete t h.tag status detail)
    let whole := [Instr.contextCreate h root saveBase saveSize poolBase pages, .keyLoad h slot keys, .capacityMap h buf,
      .poisonClear h page data key]
    let within := [Instr.preempt h rcb, .resume h rcb, .springBind h image]
    let ctx := h.ctx.toNat
    let under := fun r q => (regionsUnder s r).contains q
    (s.dev.boot ≠ 2 → ∀ i ∈ whole ++ within ++ [.regionCreate h image rcb, .launch h desc, .pageMigrate h va owner, .errorQuery h buf n fdom],
      R i s 5 0) ∧
    (s.dev.boot = 0 → R (.attest h buf nonce) s 5 0) ∧
    (s.dev.boot = 2 → h.ctx ≠ 0 → ∀ i ∈ whole, R i s 1 0) ∧
    (s.dev.boot = 2 → context? s ctx = none → (∀ i ∈ within, R i s 2 0) ∧
      (R (.launch h desc) s (if desc.toNat % 64 = 0 then 2 else 1) 0) ∧
      R (.pageMigrate h va owner) s (if owner.toNat ≤ 7 then 2 else 1) 0) ∧
    (h.ctx ≠ 0 → R (.deviceInit h) s 1 0) ∧
    (h.ctx = 0 → ∃ t, R (.deviceInit h) t (if t.dev.boot = 2 then 0 else 3)
        (BitVec.ofNat 64 ((t.dev.busRetired.map fun m => ((List.range 64).filter fun b => m.getLsbD b).length).sum)) ∧
      { t with dev := s.dev } = s ∧ t.dev.digest = initDigest t.dev ∧
      let conn := fun g p => if p < 64 then 64 * g + p else 1024 + 2 * g + (p - 64)
      let faults := fun r b g => (List.range 66).filter fun p => s.dev.busFaults.any fun f =>
        f.1 == r && f.2.1 == b && (f.2.2.1 == conn g p || f.2.2.2 == conn g p)
      let gone := fun r => (List.range 64).filter fun b => (List.range 16).any fun g => decide (3 ≤ (faults r b g).length)
      (t.dev.boot = 2 ∨ t.dev.boot = 3) ∧
      let good := fun r b g => (List.range 66).filter fun p => !((faults r b g).take 2).contains p
      let used := fun r b x => ∃ g j p, g < 16 ∧ j < 64 ∧ (good r b g)[j]? = some p ∧ conn g p = x
      (t.dev.boot = 2 ↔ (∀ r, r < 4 → (gone r).length ≤ 8) ∧ ∀ f ∈ s.dev.badBuses, f.1 < 4 → f.2.1 < 64 →
        f.2.1 ∈ gone f.1 ∨ ¬(used f.1 f.2.1 f.2.2.1 ∧ used f.1 f.2.1 f.2.2.2)) ∧
      ∀ r, r < 4 → t.dev.busMap.getD r [] = (List.range 64).filter (fun b => !(gone r).contains b) ∧ (∀ b, b < 64 → ((t.dev.busRetired.getD r 0).getLsbD b = true ↔ b ∈ gone r) ∧
          ∀ g, g < 16 → (readK 0#16 ((r * 64 + b) * 16 + g) t.dev.repair).toNat =
            (match (faults r b g)[0]? with | some p => 128 + p | none => 0) + 256 * (match (faults r b g)[1]? with | some p => 128 + p | none => 0)) ∧
        ∀ k, k < 64 → ((t.dev.populated.getD r 0).getLsbD k = true ↔ (gone r).length ≤ 8 ∧ k < 64 - (gone r).length)) ∧
    (s.dev.boot = 2 → h.ctx = 0 → root.toNat % 2 ^ 20 = 0 → populated s root.toNat = true → saveBase.toNat % 4096 = 0 → saveSize ≠ 0 →
      saveSize.toNat % (6 * 2 ^ 20) = 0 → poolBase.toNat % 4096 = 0 →
      let k := s.contexts.length + 1
      R (.contextCreate h root saveBase saveSize poolBase pages) { s with contexts := s.contexts ++
        [⟨k, root.toNat, saveBase.toNat, saveSize.toNat / (6 * 2 ^ 20), [], (List.range pages.toNat).map fun j => poolBase.toNat + 4096 * j⟩] }
        0 (BitVec.ofNat 64 k)) ∧
    (s.dev.boot = 2 → (context? s ctx).isSome →
      (image.toNat % 8 = 0 → rcb.toNat % 128 = 0 → populated s rcb.toNat = true →
        (hostRead s image 128 = none → R (.regionCreate h image rcb) s 4 0) ∧
        ∀ bs, hostRead s image 128 = some bs →
          (rcbBad s (parseRcb ctx rcb.toNat bs) bs = true → R (.regionCreate h image rcb) s 3 0) ∧
          let held := holdsWalk s ((List.range 128).map (rcb.toNat + ·))
          (rcbBad s (parseRcb ctx rcb.toNat bs) bs = false → held = true → exec (.regionCreate h image rcb) s = .next s) ∧
          (rcbBad s (parseRcb ctx rcb.toNat bs) bs = false → held = false → ∃ q,
            R (.regionCreate h image rcb) (breakPins { rawWrite s rcb.toNat bs with regions := s.regions ++ [q] }) 0 0 ∧
            { q with suspended := false, balance := [] } = parseRcb ctx rcb.toNat bs ∧ q.parent = natOfBytes (bs.take 8) ∧
            (∀ k r, k < 6 → r < 4 → q.balance.getD (4 * k + r) 0 = (q.budget.getD k 0 : Nat)))) ∧
      (desc.toNat % 64 = 0 → (readLaunch s ctx desc = none → R (.launch h desc) s 3 5) ∧
        ∀ d, readLaunch s ctx desc = some d →
          let st := launchStatus s ctx none d.region d
          (st ≠ 0 → R (.launch h desc) s 3 (BitVec.ofNat 64 st)) ∧
          (st = 0 → ∃ t g, R (.launch h desc) t 0 0 ∧ t.grids = s.grids ++ [g] ∧ g.region = d.region ∧ g.ctx = ctx ∧ g.entry = d.entry ∧
            g.codeBase = d.codeBase ∧ g.dims = d.dims ∧ g.device = false ∧ g.launchFloor = 0 ∧ t.mem = s.mem ∧
            (region? t d.region).map (·.queue) = (region? s d.region).map fun r => r.queue ++ [.fresh g.uid 0])) ∧
      (regionIn s ctx rcb = none → R (.preempt h rcb) s 3 0 ∧ R (.resume h rcb) s 3 0) ∧
      ∀ r, regionIn s ctx rcb = some r →
        (∃ v, exec (.preempt h rcb) s = .next v ∧ v.gangs = s.gangs ∧
          ∀ q, (region? v q).map (·.suspended) = (region? s q).map fun x => x.suspended || under r.pa q) ∧
        ((∀ c ∈ s.cohorts, c.resident = true → under r.pa c.region = false) → ∃ t, R (.preempt h rcb) t 0 0) ∧
        ∃ t, R (.resume h rcb) t 0 0 ∧ { t with regions := s.regions } = s ∧
          ∀ q, (region? t q).map (·.suspended) = (region? s q).map fun x => x.suspended && !under r.pa q)

/-- R11, R28 to R30, R38, R338, R339, R385, R387, R388, R390; log 13 for the place of sealed images, log 16 for host buffers, log 41 for the
record of corrected errors, log 42 for POISON.CLEAR and log 48 for PAGE.MIGRATE, the model's choices. -/
def Obligations.FirmwareCommands : Prop :=
  ∀ (s : State) (h : CmdHead) (image va keys buf page data : DWord) (n : Word) (owner slot fdom key : Byte) (nonce : BitVec 256),
    s.dev.current = none → s.dev.boot = 2 →
    let R := fun (i : Instr) (t : State) (status : Nat) (detail : DWord) => exec i s = .next (complete t h.tag status detail)
    let ctx := h.ctx.toNat
    let host := fun (a : DWord) => 2 ^ 48 + a.toNat
    (∀ c, context? s ctx = some c → owner.toNat ≤ 7 →
      let P := Instr.pageMigrate h va owner
      (2 ^ 56 ≤ va.toNat → R P s 3 0) ∧
      (va.toNat < 2 ^ 56 → ∀ f l, walk s c.root va = .fault f l → R P s 3 0) ∧
      ∀ level entry e, va.toNat < 2 ^ 56 → walk s c.root va = .leaf level entry e →
        (ownerOf s e = owner.toNat → R P s 0 0) ∧
        (ownerOf s e ≠ owner.toNat → level ≠ 3 → R P s 3 0) ∧
        (ownerOf s e ≠ owner.toNat → level = 3 →
          let es := leafEntries entry e
          let held := holdsWalk s (entryBytes es) || awaitsParty s es .partner
          (owner ≠ 0 → linkUp s (owner.toNat - 1) = false → R P s 3 0x22) ∧
          (owner = 0 ∨ linkUp s (owner.toNat - 1) = true →
            (pteOwn e = false → awayReady s ctx va = none → exec P s = .next s) ∧
            (pteOwn e = false → owner = 1 → awayReady s ctx va = some es → R P (giveAway s ctx va es none 0) 0 0) ∧
            (pteOwn e = false → 2 ≤ owner.toNat → awayReady s ctx va = some es → ∃ f u, R P (giveAway u ctx va es (some f) (owner.toNat - 1)) 0 0 ∧
              { u with fresh := s.fresh } = s ∧ 2 ^ 51 + (owner.toNat - 2) * 2 ^ 48 ≤ f ∧ f < 2 ^ 51 + (owner.toNat - 1) * 2 ^ 48 ∧
              f % (if ptePS e then 65536 else 4096) = 0) ∧
            (pteOwn e = true → held = true → exec P s = .next s) ∧
            (pteOwn e = true → held = false → ∀ sub, bringHome s ctx va e = .failed sub → R P s 3 (BitVec.ofNat 64 sub)) ∧
            (pteOwn e = true → held = false → owner = 0 → ∀ t, bringHome s ctx va e = .done t →
              R P (breakPins (noteHanded { t with now := t.now + 1 } es .device)) 0 0)))) ∧
    ((context? s ctx).isSome →
      let a := image.toNat
      let bad := fun code spring slot => BitVec.ofNat 64 (code * 2 ^ 16 + spring * 2 ^ 8 + slot)
      let fits := a % 4096 = 0 ∧ ∀ k, k < 9 → populated s (a + 4096 * k) = true
      (¬fits → R (.springBind h image) s 3 (bad 1 0 0)) ∧
      (fits → (∀ x, verifyImage (sealedImage s a) = some x → R (.springBind h image) s 3 (bad x.1 x.2.1 x.2.2)) ∧
        ∀ p, verifyImage (sealedImage s a) = none → sealPlace s (reachOf a) = some p → ∃ t,
          R (.springBind h image) t 0 (BitVec.ofNat 64 p) ∧ t.sealed = (p, ctx) :: s.sealed ∧ rawBytes t p 36864 = rawBytes s a 36864 ∧
            ∀ q, (q < p ∨ p + 36864 ≤ q) → memByte t q = memByte s q)) ∧
    (h.ctx = 0 → slot.toNat ≤ 63 → keys.toNat % 8 = 0 →
      (hostRead s keys 64 = none → R (.keyLoad h slot keys) s 4 0) ∧
      ∀ bs, hostRead s keys 64 = some bs → ∃ t, R (.keyLoad h slot keys) t 0 0 ∧
        (∀ k, keyPair t k = if k = slot.toNat then (if natOfBytes bs = 0 then none else some (BitVec.ofNat 512 (natOfBytes bs))) else keyPair s k) ∧
        (∀ l, l ∈ t.llc ↔ l ∈ s.llc ∧ l.slot.toNat ≠ slot.toNat) ∧ { t with keys := s.keys, llc := s.llc, regions := s.regions } = s ∧
        t.regions.map (fun r => { r with balance := [] }) = s.regions.map (fun r => { r with balance := [] }) ∧
        ((∀ l ∈ s.llc, l.dirty = true → l.slot.toNat ≠ slot.toNat) → t.regions = s.regions)) ∧
    (h.ctx = 0 → buf.toNat % 8 = 0 →
      (hostReach s buf.toNat 208 = false → R (.attest h buf nonce) s 4 0) ∧
      (hostReach s buf.toNat 208 = true → ∃ t, R (.attest h buf nonce) t 0 0 ∧
        let report := bytesOf 4 1 ++ bytesOf 4 0 ++ bytesOf 32 nonce.toNat ++ bytesOf 64 s.dev.digest.toNat ++
          bytesOf 8 ((s.keys.map fun p => 2 ^ p.1).sum) ++ bytesOf 32 Config.publicKey.toNat
        rawBytes t (host buf) 208 = report ++ bytesOf 64 (Config.sign report).toNat ∧ { t with mem := s.mem } = s) ∧
      (hostReach s buf.toNat 128 = false → R (.capacityMap h buf) s 4 0) ∧
      (hostReach s buf.toNat 128 = true → ∃ t, R (.capacityMap h buf) t 0 0 ∧ { t with mem := s.mem } = s ∧
        rawBytes t (host buf) 128 = (List.range 4).flatMap fun r => bytesOf 8 (s.dev.populated.getD r 0).toNat ++
          bytesOf 8 (s.dev.busRetired.getD r 0).toNat ++ bytesOf 8 (s.dev.reserved.getD r (0, 0)).1 ++ bytesOf 8 (s.dev.reserved.getD r (0, 0)).2)) ∧
    (buf.toNat % 64 = 0 → n ≠ 0 → n.toNat ≤ 65536 → (fdom = 0xFF ∨ h.ctx ≠ 0 ∧ fdom.toNat ≤ 15) → (h.ctx ≠ 0 → (context? s ctx).isSome) →
      let u := if h.ctx = 0 then noteCorrected s else s
      let p := fun r : ErrRec => r.ctx == h.ctx && (h.ctx == 0 || fdom == 0xFF#8 || r.fdom == fdom)
      let out := (u.errors.filter p).take n.toNat
      (hostReach u buf.toNat (64 * out.length) = false → R (.errorQuery h buf n fdom) u 4 0) ∧
      (hostReach u buf.toNat (64 * out.length) = true → ∃ t, R (.errorQuery h buf n fdom) t 0 (BitVec.ofNat 64 out.length) ∧
        rawBytes t (host buf) (64 * out.length) = out.flatMap recordBytes ∧
        t.errors.filter p = (u.errors.filter p).drop n.toNat ∧ (t.errors.filter fun r => !p r) = u.errors.filter fun r => !p r)) ∧
    (h.ctx = 0 → page.toNat % 4096 = 0 → data.toNat % 8 = 0 → key.toNat ≤ 63 →
      let C := Instr.poisonClear h page data key
      (populated s page.toNat = false ∨ keyPair s key.toNat = none → R C s 3 0) ∧
      (populated s page.toNat = true → (keyPair s key.toNat).isSome →
        (data ≠ 0 → hostRead s data 4096 = none → R C s 4 0) ∧
        ∀ bs, (if data = 0 then bs = List.replicate 4096 0#8 else hostRead s data 4096 = some bs) →
          favourBlocks s none ((List.range 4096).map (page.toNat + ·)) [] = false → (∀ g ∈ s.gangs, g.span.pins = [] ∧ g.span.moves = []) →
          ((poisonBit s page.toNat).1 < page.toNat ∨ page.toNat + 4096 ≤ (poisonBit s page.toNat).1) →
          ∃ t, R C t 0 0 ∧ readBytes t key.toNat page.toNat 4096 = bs ∧ pagePoisoned t page.toNat = false ∧
            ∀ l, l / 32 = page.toNat / 4096 → l ∉ t.linePoison))

/-- R34 to R36, R60, R61, R379 to R381, R387; log 43 for what RESET keeps, log 44 for HOST_CXL_MEM_ACCESS, log 61 for poison under a partner's
write, log 66 for the frame taken and log 67 for the frames given, the model's choices. -/
def Obligations.HostSide : Prop :=
  (∀ (s : State), ∃ v, exec .reset s = .next v ∧ v.mem = s.mem ∧ v.links = s.links ∧ v.dev.boot = 1 ∧ v.dev.qEn = false ∧
      v.dev.sqBase = 0 ∧ v.dev.cqBase = 0 ∧ v.dev.sqHead = 0 ∧ v.dev.sqTail = 0 ∧ v.dev.cqIndex = 0 ∧ v.dev.current = none ∧ v.dev.serving = none ∧
      v.gangs = [] ∧ v.cohorts = [] ∧ v.grids = [] ∧ v.regions = [] ∧ v.contexts = [] ∧ v.keys = [] ∧ v.llc = [] ∧ v.copies = [] ∧
      v.errors = [] ∧ v.sealed = [] ∧ v.dev.digest = Config.sha512 (Config.romImage ++ Config.fuses) ∧
      ∀ c, (coreOf v c).l1 = [] ∧ (coreOf v c).engine = [] ∧ (coreOf v c).acc = [] ∧ (coreOf v c).bars = []) ∧
  (∀ (s : State) (x : DWord) (w : Word) (off : Nat),
    let d := s.dev
    let n := if d.qEn = true ∨ 6 ≤ x.toNat % 16 then d.logN else BitVec.ofNat 4 (x.toNat % 16)
    let D := fun (i : Instr) (e : Device) => exec i s = .next { s with dev := e }
    (linkUp s 0 = false → exec (.sqtailDoorbell w) s = .next s ∧ exec (.hostRegisterWrite off x) s = .next s) ∧
    (linkUp s 0 = true →
      D (.sqtailDoorbell w) (if w.toNat < 2 ^ (d.logN.toNat + 4) then { d with sqTail := w } else d) ∧
      D (.hostRegisterWrite 0 x) (if d.qEn then d else { d with sqBase := x }) ∧
      D (.hostRegisterWrite 8 x) (if d.qEn then d else { d with cqBase := x }) ∧
      D (.hostRegisterWrite 0x10 x) { d with qEn := x.getLsbD 8, logN := n } ∧
      (d.qEn = false → ∃ v, exec (.hostRegisterWrite 0 x) s = .next v ∧
        (hostRegisterRead v 0).toNat + 2 ^ 32 * (hostRegisterRead v 4).toNat = x.toNat) ∧
      exec (.hostRegisterWrite 0x14 x) s = exec (.sqtailDoorbell (x.extractLsb' 0 32)) s ∧
      (off ∉ [0, 8, 0x10, 0x14] → exec (.hostRegisterWrite off x) s = .next s))) ∧
  (∀ (s : State) (port rate width mode flit pa : Nat) (up : Bool),
    exec (.flitRetry port flit) s = .next s ∧ exec (.partnerSnoop pa) s = .next s ∧
    (6 < port → exec (.linkTraining port up rate width mode) s = .next s) ∧
    (port ≤ 6 → ∃ v, exec (.linkTraining port up rate width mode) s = .next v ∧ { v with links := s.links } = s ∧
      (linkUp v port = true ↔ up = true ∧ (rate = 64 ∨ rate = 32) ∧ (width = 16 ∨ width = 8) ∧ mode = 256) ∧
      ∀ q, q ≠ port → linkUp v q = linkUp s q)) ∧
  (∀ (s : State) (agent : Byte) (pa len : Nat) (bs : List Byte),
    let R := Instr.hostCxlMemAccess agent pa none len
    let read := (List.range len).map (pa + ·)
    (linkUp s agent.toNat = false → exec R s = .next s ∧ exec (.hostCxlMemAccess agent pa (some bs) 0) s = .next s) ∧
    (∀ i b, i < len → b = pa + i →
      (populated s b = false ∨ inReserved s b = true ∨
        (∃ x ∈ leavesOver s read, pteOwn x.2.2.2 = true ∧ ownerPort s (pteFrame x.2.2.2) ≠ agent.toNat) ∨
        (agent ≠ 0 ∧ ∀ x ∈ leavesOver s read, leafMaps x.2.2.1 x.2.2.2 b = false)) →
      exec R s = .next s ∧ (bs.length = len → exec (.hostCxlMemAccess agent pa (some bs) 0) s = .next s)) ∧
    (linkUp s agent.toNat = true → mayReach s agent.toNat read = true →
      (handAllAway s agent.toNat (deviceLeaves s read) = none → exec R s = .next s) ∧
      (deviceLeaves s read = [] → exec R s = .next (partnerAccess s read)) ∧
      ∀ ctx va es, deviceLeaves s read = [(ctx, va, 3)] → awayReady s ctx va = some es →
        exec R s = .next (partnerAccess (giveAway s ctx va es none agent.toNat) read)) ∧
    (linkUp s agent.toNat = true → NoPins s →
      let bytes := (List.range bs.length).map (pa + ·)
      mayReach s agent.toNat bytes = true → deviceLeaves s bytes = [] → holdsWalk s bytes = false → ∃ v, exec (.hostCxlMemAccess agent pa (some bs) len) s = .next v ∧ rawBytes v pa bs.length = bs ∧
        (∀ a, (a < pa ∨ pa + bs.length ≤ a) → memByte v a = memByte s a) ∧ v.gangs = s.gangs ∧
        ∀ l, l ∈ v.linePoison ↔ l ∈ s.linePoison ∧ ¬(pa ≤ 128 * l ∧ 128 * l + 128 ≤ pa + bs.length))) ∧
  (∀ (s : State) (ctx : Nat) (va : DWord) (link : LinkResult),
    let H := Instr.ownershipHandover ctx va link
    (handReq? s ctx (pageKey s ctx va) = none → exec H s = .next s) ∧
    ∀ r c entry e, handReq? s ctx (va.toNat / 4096) = some r → context? s ctx = some c → walk s c.root va = .leaf 3 entry e →
      pteOwn e = true → ptePS e = false →
      let lk := if linkUp s (ownerPort s (pteFrame e)) then link else .failed
      (holdsWalk s ((List.range 8).map (entry + ·)) = true → exec H s = .next s) ∧
      ((entry, Party.partner) ∈ s.handedOver → exec H s = .next s) ∧
      ∀ u ok, askMove s ctx r.page (handRegion s r) e [entry] lk = (u, ok) →
      { u with regions := s.regions, sent := s.sent, waiting := s.waiting } = s ∧
      (isDram (pteFrame e) = true → u = s ∧ ok = true) ∧
      (pteAt s entry = e → holdsWalk s ((List.range 8).map (entry + ·)) = false → (entry, Party.partner) ∉ s.handedOver → NoPins s →
      (ok = false → exec H s = .next u) ∧
      (ok = true → ∀ sub, handOver u ctx va lk = .failed sub → r.cmds = [] → ∃ v, exec H s = .next v ∧ v.mem = s.mem ∧
        handReq? v ctx (va.toNat / 4096) = none ∧
        ∀ u ∈ r.waiters, ∀ g, gang? s u = some g → ∃ k, gang? v u = some k ∧ k.ownerFail = setK r.page sub g.ownerFail ∧ { k with ownerFail := g.ownerFail } = g) ∧
      (lk ≠ .failed → isDram (pteFrame e) = true → ∃ v, exec H s = .next v ∧
        pteAt v entry = e &&& ~~~0x0200000000000000#64 ∧ handReq? v ctx (va.toNat / 4096) = none ∧ (entry, Party.device) ∈ v.handedOver ∧
        ∀ a, ¬(entry ≤ a ∧ a < entry + 8) → memByte v a = memByte s a) ∧
      (ok = true → lk = .ok → isDram (pteFrame e) = false → (∀ l, l < 32 → lineOf (pteFrame e) + l ∉ s.linePoison) →
        ∀ f, poolFrame c.pool 1 = some f → f < 2 ^ 40 → (keyPair s (pteKey e)).isSome → (entry + 8 ≤ f ∨ f + 4096 ≤ entry) →
        ∃ v, exec H s = .next v ∧ pteFrame (pteAt v entry) = f ∧ pteOwn (pteAt v entry) = false ∧
          readBytes v (pteKey e) f 4096 = rawBytes s (pteFrame e) 4096 ∧ handReq? v ctx (va.toNat / 4096) = none ∧
          ∃ k, context? v ctx = some k ∧ k.pool = c.pool.filter fun x => !(f ≤ x && x < f + 4096)))) ∧
  ∀ (s : State) (ctx : Nat) (va : DWord) (moveTo : Option Nat) (c : Context) (entry : Nat) (e : DWord),
    context? s ctx = some c → walk s c.root va = .leaf 3 entry e → pteOwn e = false → ptePS e = false → pteAt s entry = e → IdleSpans s →
    ((entry, Party.device) ∈ s.handedOver ∨ holdsWalk s ((List.range 8).map (entry + ·)) = true →
      exec (.handoverFromDevice ctx va moveTo) s = .next s) ∧
    ((entry, Party.device) ∉ s.handedOver → holdsWalk s ((List.range 8).map (entry + ·)) = false →
      (∀ g ∈ s.gangs, accStLines s g.uid = []) →
      (moveTo = none → ∃ v, exec (.handoverFromDevice ctx va moveTo) s = .next v ∧ pteAt v entry = e ||| 0x0200000000000000#64 ∧
        (∀ a, ¬(entry ≤ a ∧ a < entry + 8) → memByte v a = memByte s a) ∧
        (entry, Party.partner) ∈ v.handedOver ∧ ∀ q l, l ∈ (coreOf v q).l1 → l ∈ (coreOf s q).l1 ∧ l.line / 32 ≠ pteFrame e / 4096) ∧
      ∀ f, moveTo = some f → windowFrame s 1 f = true → isDram entry = true → ∃ v, exec (.handoverFromDevice ctx va moveTo) s = .next v ∧
        pteOwn (pteAt v entry) = true ∧ pteFrame (pteAt v entry) = f ∧ rawBytes v f 4096 = readBytes s (pteKey e) (pteFrame e) 4096 ∧
        ∃ k, context? v ctx = some k ∧ k.pool = c.pool ++ [pteFrame e])

/-- R62, R68 to R70, R77, R79, R150, R269, R358, R361, R367, R375, R377; log 82 for code 6 after a delivery at a wait, log 30 for the favour at a
span start, the model's choices. -/
def Obligations.BetweenInstructions : Prop :=
  (∀ (s : State) (uid : Nat) (g : Gang) (two : Bool), gang? s uid = some g →
    let due := if two then Instr.twoPhaseCommit uid else .spanCommit uid
    let other := if two then Instr.spanCommit uid else .twoPhaseCommit uid
    let reaches := ((g.span.ver.map fun p => lineOf p.1).eraseDups.map fun l => reachOf (lineBase l)).eraseDups
    (commitDue g = none → exec due s = .next s) ∧
    ∀ code, commitDue g = some code → NoPins s → (two = true ↔ 2 ≤ reaches.length) → exec other s = .next s ∧
      (commitSpan s uid code = .wait → exec due s = .next s) ∧ (∀ t, commitSpan s uid code = .failed t → exec due s = .next t) ∧
      (g.span.ver ≠ [] → g.span.begun = true → (g.span.ver.map (·.1)).Nodup → accStLines s uid = [] → staleReads s g.span = [] →
        staleSignature s g.span = false → g.span.touched = [] →
        favourBlocks s (some uid) (g.span.ver.map (·.1)) [] = false →
        (∀ p ∈ g.span.ver, isDram p.1 = true → (keyPair s (pteKey ((getK (p.1 / 4096) g.span.leaves).getD 0))).isSome) →
        ∃ v k csn, exec due s = .next v ∧ gang? v uid = some k ∧ k.regs = g.regs ∧ k.span.ver = [] ∧ k.span.reads = [] ∧
          k.span.count = 0 ∧ k.span.lastEnd = code ∧ k.span.restarts = 0 ∧ g.floor < k.floor ∧ csnClock csn = k.floor ∧
          (∀ p ∈ g.span.ver, readByte v (pteKey ((getK (p.1 / 4096) g.span.leaves).getD 0)) p.1 = p.2 ∧
            readK 0 (lineOf p.1) v.wStamp = csn ∧ csnClock (readK 0 (lineOf p.1) s.wStamp) < k.floor ∧
            csnClock (readK 0 (lineOf p.1) s.rStamp) < k.floor) ∧
          (∀ a, (∀ p ∈ g.span.ver, lineOf p.1 ≠ lineOf a) → memByte v a = memByte s a) ∧
          (∀ r, r ∈ reaches → r < 4 → k.floor ≤ v.weirClock.getD r 0) ∧ v.psn = s.psn + (if two then 1 else 0) ∧
          ∀ a h, a ≠ uid → gang? s a = some h → conflicts h.span (g.span.ver.map (·.1)) [] = [] → h.span.ovf = false → gang? v a = some h)) ∧
  (∀ (s : State),
    let ok := fun u => ((gang? s u).map fun g => g.span.count == 0 && !g.ended && cohortResident s g).getD false
    (s.favoured.isSome ∨ (∀ u ∈ s.favourQueue, ok u = false) → exec .favourGrant s = .next s) ∧
    ∀ before u after, s.favoured = none → s.favourQueue = before ++ u :: after → (∀ x ∈ before, ok x = false) → ok u = true →
      exec .favourGrant s = .next { s with favoured := some u, favourQueue := s.favourQueue.filter (· != u) }) ∧
  (∀ (s : State) (uid : Nat) (g : Gang), gang? s uid = some g → g.ended = false →
    let i := Instr.spanInstructionLimit uid
    (g.span.count < 65536 → exec i s = .next s) ∧
    (∀ x, 65536 ≤ g.span.count → g.span.tx = some x →
      let t := txRestart s uid 2 (some 3)
      (g.trap.queue = [] ∨ g.trap.nest = true → exec i s = .next t) ∧ exec i s = .next ((deliverQueued t uid x.split).getD t)) ∧
    (65536 ≤ g.span.count → g.span.tx = none → (∀ t, commitSpan s uid 3 = .done t → exec i s = .next t) ∧
      (∀ t, commitSpan s uid 3 = .failed t → exec i s = .next t) ∧ (commitSpan s uid 3 = .wait → exec i s = .next s))) ∧
  (∀ (s : State) (uid n : Nat) (g : Gang) (sl : Slice), gang? s uid = some g → (∀ h ∈ s.gangs, h.uid = uid → h = g) → g.slices[n]? = some sl →
    (sl.back < 64 → exec (.pathRotation uid n) s = .next s) ∧
    ∀ p m r, 64 ≤ sl.back → sl.ended = false → sl.held = false → sl.stack = .pending p m :: r →
      m &&& nibble g.live n &&& nibble g.launchMask n ≠ 0#4 →
      ∃ v k x, exec (.pathRotation uid n) s = .next v ∧ OnlyGang s v uid k ∧ k.slices[n]? = some x ∧ x.pc = p ∧ x.path = m ∧
        x.back = 0 ∧ x.stack = .pending sl.pc sl.path :: r ∧ k.regs = g.regs) ∧
  (∀ (s : State) (core part uid n n' split : Nat) (g : Gang) (rest : List (Nat × Nat)), growersOf s core part = (uid, n) :: rest →
    gang? s uid = some g → g.sched.wait = .grow n' split →
    (freeGranules s core part < n / 8 - g.alloc / 8 → exec (.regsGrowGrant core part) s = .next s) ∧
    (n / 8 - g.alloc / 8 ≤ freeGranules s core part → ∃ v k, exec (.regsGrowGrant core part) s = .next v ∧ gang? v uid = some k ∧
      k.alloc = n ∧ k.sched.wait = .none ∧ (∀ r l, r < g.alloc → l < 32 → getReg k r l = getReg g r l) ∧
      (∀ r l, g.alloc ≤ r → l < 32 → getReg k r l = 0) ∧ (coreOf v core).growers = (coreOf s core).growers.filter (·.1 != uid) ∧
      v.mem = s.mem ∧ ∀ a, a ≠ uid → gang? v a = gang? s a)) ∧
  (∀ (s : State) (uid : Nat) (g : Gang), gang? s uid = some g →
    (g.trap.queue = [] ∨ g.trap.nest = true ∨ g.sched.heldBy ≠ none → exec (.asyncErrorDelivery uid) s = .next s) ∧
    ∀ t rest core obj split, g.trap.queue = t :: rest → g.trap.nest = false → g.ended = false → cohortResident s g = true →
      g.sched.wait = .barrier core obj split → g.sched.heldBy = none → g.trap.pending = none → g.trap.replay = none →
      handlerUsable g = true → g.freeze = false →
      ∃ v k, exec (.asyncErrorDelivery uid) s = .next v ∧ gang? v uid = some k ∧ k.trap.cause = BitVec.zeroExtend 32 t.cause ∧
        k.trap.info = t.info ∧ k.trap.async = true ∧ k.trap.nest = true ∧ k.trap.queue = rest ∧ k.trap.qovf = g.trap.lost ∧
        k.trap.pc = splitPc g split ∧ k.span.lastEnd = 6 ∧ k.sched.wait = .none ∧ k.regs = g.regs ∧ v.mem = s.mem ∧
        ∀ i x, g.slices[i]? = some x → x.split = split → x.ended = false → x.held = false → nibble (splitMask g split) i ≠ 0#4 →
          ∃ y, k.slices[i]? = some y ∧ y.pc = g.trap.base) ∧
  ∀ (s : State),
    let U := fun l => exec (.uncorrectableError l) s
    (∀ core line, ∃ v, U (.l1Line core line) = .next v ∧ (∀ x, x ∈ (coreOf v core).l1 ↔ x ∈ (coreOf s core).l1 ∧ x.line ≠ line) ∧ v.mem = s.mem) ∧
    (∀ core slot, ∃ v, U (.dbcBlock core slot) = .next v ∧ (∀ x, x ∈ (coreOf v core).dbc ↔ x ∈ (coreOf s core).dbc ∧ x.slot ≠ slot) ∧ v.mem = s.mem) ∧
    (∀ line, ∃ v, U (.llcCommitted line) = .next v ∧ line ∈ v.linePoison ∧ (populated s (128 * line) = true → pagePoisoned v (128 * line) = true)) ∧
    (∀ uid line g, gang? s uid = some g → (line ∉ g.span.ver.map (fun p => lineOf p.1) → U (.llcVersion uid line) = .next s) ∧
      (line ∈ g.span.ver.map (fun p => lineOf p.1) → g.span.pins = [] → g.span.tx = none → ∃ v k, U (.llcVersion uid line) = .next v ∧ gang? v uid = some k ∧
        k.span.ver = [] ∧ k.regs = g.span.chk.regs ∧ v.mem = s.mem)) ∧
    (∀ u wg off c w, cohort? s u = some c → c.wgs[wg]? = some w → ∃ v, U (.localWord u wg off) = .next v ∧
      localPoisoned v u wg (off / 4 * 4) 4 = true ∧ ∀ x o, localByte v u x o = localByte s u x o) ∧
    (∀ uid reg lane g, gang? s uid = some g → reg < g.alloc → lane < 32 → ∃ v k, U (.register uid reg lane) = .next v ∧ OnlyGang s v uid k ∧
      regPoisoned k reg lane = true ∧ { k with regPoison := g.regPoison } = g) ∧
    (∀ core row col, row < 256 → col < 256 → ∃ v, U (.accCell core row col) = .next v ∧ (row * 256 + col) ∈ (coreOf v core).accPoison ∧
      (coreOf v core).acc = (coreOf s core).acc) ∧
    (∀ core panel slot, slot < 256 → ∃ v, U (.wbufColumn core panel slot) = .next v ∧ (panel * 256 + slot) ∈ (coreOf v core).wbufPoison ∧
      (coreOf v core).wbuf = (coreOf s core).wbuf) ∧
    ∀ n, exec (.correctedSoftError n) s = .next { s with corrected := s.corrected + n }

/-- R61, R145, R159, R351, R353 to R357, R360; log 3 for the place of a due event and log 4 for the counts of time, the model's choices. -/
def Obligations.Scheduling : Prop :=
  (∀ (s : State) (reach : Nat), reach < 4 → s.periodStart.length = 4 →
    (s.clock < s.periodStart.getD reach 0 + 65536 → exec (.meteringPeriod reach) s = .next s) ∧
    (s.periodStart.getD reach 0 + 65536 ≤ s.clock → ∃ v, exec (.meteringPeriod reach) s = .next v ∧
      { v with regions := s.regions, periodStart := s.periodStart, waiting := s.waiting, sent := s.sent } = s ∧
      v.periodStart.getD reach 0 = s.periodStart.getD reach 0 + 65536 ∧ (∀ q, q ≠ reach → v.periodStart.getD q 0 = s.periodStart.getD q 0) ∧
      (∀ a r, region? s a = some r → ∃ q, region? v a = some q ∧ { q with balance := r.balance } = r ∧
        ∀ k m, k < 6 → m < 4 → (m ≠ reach ∨ ∀ w ∈ s.waiting, w.reach ≠ reach) → q.balance.getD (4 * k + m) 0 =
          if m = reach then min (r.balance.getD (4 * k + m) 0) 0 + (r.budget.getD k 0 : Nat) else r.balance.getD (4 * k + m) 0) ∧
      ((∀ w ∈ s.waiting, w.reach ≠ reach) → v.waiting = s.waiting ∧ v.sent = s.sent) ∧
      ∀ w ws, s.waiting.filter (fun x => x.reach == reach) = w :: ws → stillAsks s w.who = true → w.act < 6 →
        (∀ h ∈ holders s w.region (.budget w.act), h.budget.getD w.act 0 = 0 ∨
          0 < min (h.balance.getD (4 * w.act + reach) 0) 0 + ((h.budget.getD w.act 0 : Nat) : Int)) →
        ⟨w.who, w.act, w.line⟩ ∈ v.sent ∧ w ∉ v.waiting)) ∧
  (∀ (s : State) (core : Nat), let c := coreOf s core
    (coreCycle s core < c.creditStart + 65536 → exec (.clockCreditPeriod core) s = .next s) ∧
    (c.creditStart + 65536 ≤ coreCycle s core → ∃ v, exec (.clockCreditPeriod core) s = .next v ∧ { v with cores := s.cores } = s ∧
      let n := (coreCycle s core - c.creditStart) / 65536
      coreOf v core = { c with credit := if n = 1 then c.gated else 0, gated := 0, creditStart := c.creditStart + 65536 * n } ∧ ∀ q, q ≠ core → coreOf v q = coreOf s q) ∧
    let act := activeOn s core
    (coreCycle s core < c.lostStart + 4096 → exec (.lostLocalityWindow core) s = .next s) ∧
    (c.lostStart + 4096 ≤ coreCycle s core → ∃ v, exec (.lostLocalityWindow core) s = .next v ∧ v.mem = s.mem ∧
      (coreOf v core).lostCount = 0 ∧
      (coreOf v core).lostStart = c.lostStart + 4096 * ((coreCycle s core - c.lostStart) / 4096) ∧
      (c.lostCount ≤ 256 ∨ act.length < 2 → v.gangs = s.gangs) ∧
      ∀ g l, 256 < c.lostCount → 2 ≤ act.length → parkable s core 0 = g :: l → gang? s g.uid = some g → ∃ k, gang? v g.uid = some k ∧
        k.sched.active = false ∧ { k with sched := g.sched } = g ∧ ∀ a, a ≠ g.uid → gang? v a = gang? s a)) ∧
  (∀ (s : State) (uid : Nat) (g : Gang), gang? s uid = some g →
    let now := coreCycle s g.core
    let old := cohortResident s g = true ∧ parkedReady g = true ∧ g.sched.aged = none ∧ g.sched.readySince + 65536 < now
    (¬old → exec (.gangAging uid) s = .next s) ∧
    (old → ∃ v, exec (.gangAging uid) s = .next v ∧ OnlyGang s v uid { g with sched := { g.sched with aged := some (g.sched.readySince + 65537) } }) ∧
    ((∀ t, g.sched.protUntil = some t → now < t) → exec (.protectionEnd uid) s = .next s) ∧
    (∀ t, g.sched.protUntil = some t → t ≤ now → ∃ v, exec (.protectionEnd uid) s = .next v ∧
      OnlyGang s v uid { g with sched := { g.sched with protUntil := none } }) ∧
    (g.lease.winCount < 4096 → exec (.leaseMeasurementWindow uid) s = .next s) ∧
    let d := g.lease.winLines.length
    let up := fun x => (x + 15) / 16 * 16
    let first := if d = 0 then g.lease.meas else up ((5 * d + 3) / 4)
    let second := if appliedLease g.lease < 8 * g.lease.lost then up ((5 * max first g.lease.meas + 3) / 4) else first
    let m := min (max second 16) 2048
    let l := { g.lease with meas := m, lost := 0, winCount := 0, winLines := [] }
    (4096 ≤ g.lease.winCount → (g.lease.meas % 16 = 0 → m % 16 = 0) ∧ ∃ v, exec (.leaseMeasurementWindow uid) s = .next v ∧
      OnlyGang s v uid { g with lease := { l with changed := g.lease.changed || decide (m ≠ g.lease.meas) } })) ∧
  (∀ (s t : State) (i : Instr), dueEvent s = some i → exec i s = .next t → step s = .next (atRest t)) ∧
  ∀ (s : State) (core : Nat), ∃ v, exec (.admissionDecision core) s = .next v ∧ v.mem = s.mem ∧ v.cohorts = s.cohorts ∧
    ((s.gangs.map (·.uid)).Nodup →
      (∀ u g, gang? s u = some g → ∃ k, gang? v u = some k ∧ { k with sched := g.sched, lease := g.lease } = g ∧
        k.sched.wait = g.sched.wait ∧
        (g ∈ residents s core → g.lease.changed = true → k.lease.apDecl = g.lease.decl ∧ k.lease.apMode = g.lease.mode ∧ k.lease.changed = false) ∧
        (g ∉ residents s core ∨ g.lease.changed = false → k.lease = g.lease) ∧ (g.core ≠ core → k = g) ∧
        (g.sched.active = false → k.sched.active = true → g ∈ scheduled s core ∧ parkedReady g = true)) ∧
      (∀ k ∈ scheduled v core, parkedReady k = true → fitsBeside k (activeOn v core) = false) ∧
      ((∀ g ∈ residents s core, g.lease.changed = false ∧ g.sched.aged = none) → leaseSum (activeOn s core) ≤ 1792 →
        (∀ g ∈ activeOn s core, ∃ k, gang? v g.uid = some k ∧ k.sched.active = true) ∧
        (leaseSum (activeOn v core) ≤ 1792 ∨ (activeOn v core).length = 1)))

/-- R99, R301, R304, R305, R307, R309, R311, R373; log 11 for a chunk that fails and log 34 for streams decoded whole, the model's choices. -/
def Obligations.CopySteps : Prop :=
  let failed := fun (s v : State) (c : CopyCmd) (sub addr : Nat) =>
    v.copies = s.copies.filter (fun x => x.uid != c.uid) ∧ v.mem = s.mem ∧
    (∀ e ∈ (basinOf v c.basin).score, e.owner ≠ c.uid) ∧
    (∀ r ∈ (coreOf s c.core).records, r.slot = c.slot → r.stamp = c.uid → { r with state := 3 } ∈ (coreOf v c.core).records) ∧
    ∀ g, gang? s c.gang = some g → g.ended = false → g.trap.queue.length < 4 →
      let t : Trap := ⟨cCOPY, BitVec.ofNat 32 (c.next * 4096 + sub), some (BitVec.ofNat 64 addr), some (BitVec.ofNat 32 c.addr), none⟩
      gang? v c.gang = some { g with trap := { g.trap with queue := g.trap.queue ++ [t] } }
  (∀ (s : State) (u : Nat),
    let E := exec (.copyChunk u) s
    (copy? s u = none → E = .next s) ∧
    ∀ c, copy? s u = some c →
      let link := c.answer
      let restored := ∀ h, cohort? s c.cohort = some h → h.refills = []
      (c.total ≤ c.next ∨ c.follow ≠ .none ∨ ¬restored → E = .next s) ∧
      (c.next < c.total → c.follow = .none → restored → c.engine = none →
        (mayStart s c = false ∨ freeEngine s c.basin = none → E = .next s) ∧
        ∀ e, mayStart s c = true → freeEngine s c.basin = some e → E = .next (setCopy s { c with engine := some e })) ∧
      (c.next < c.total → c.follow = .none → restored → c.engine.isSome →
        let k := parseCmd c.bytes
        let size := (k.ordinals c.next).length * k.dsz
        (∀ f, planOf s c link k = .error f → ∃ v, E = .next v ∧ failed s v c f.1 f.2) ∧
        ∀ p, planOf s c link k = .ok p →
          (∀ f, planCheck s c k p.pieces = .fail f → ∃ v, E = .next v ∧ failed s v c f.1 f.2) ∧
          (∀ f, planCheck s c k p.pieces = .ok → p.bad = some f → ∃ v, E = .next v ∧ failed s v c f.1 f.2) ∧
          (∀ a, planCheck s c k p.pieces = .own a → ∃ v r, E = .next v ∧ v.mem = s.mem ∧ v.gangs = s.gangs ∧ v.copies = s.copies ∧
            handReq? v c.ctx (pageKey s c.ctx (BitVec.ofNat 64 a)) = some r ∧ (u, BitVec.ofNat 64 a) ∈ r.cmds) ∧
          (planCheck s c k p.pieces = .ok → p.bad = none →
            let xs := dedupLines (srcXlats s c k p.pieces)
            let may := mayAsk s (.command u) c.region .copy (c.core / 64) 0
            let asked := (ask s (.command u) c.region .copy (c.core / 64) 0 0).1
            let t := (askReads asked (.command u) c.region xs).1
            let all := (askReads asked (.command u) c.region xs).2
            (may = false → ∃ v, E = .next v ∧ { v with waiting := s.waiting } = s) ∧
            (may = true → all = false → E = .next t) ∧
            (may = true → all = true → ∀ f, planReads t c link k p.pieces = some f → ∃ v, E = .next v ∧ failed s v c f.1 f.2) ∧
            (may = true → all = true → planReads t c link k p.pieces = none → NoPins s →
              let bytes := p.pieces.flatMap fun q => ((List.range q.out.length).zip q.out).map fun y => (wrapAddr k.dloc (q.dst + y.1), y.2)
              let place := fun a => byteCheck t c .store k.dloc a
              let global := fun a x => (∃ y ∈ bytes, y.1 = a) ∧ place a = .glob x
              (∀ a x, global a x → setAD t x true = t ∧ (isDram x.pa = true → (keyPair s (pteKey x.pte)).isSome)) →
              (∀ a b x y, global a x → global b y → lineOf x.pa = lineOf y.pa → pteKey x.pte = pteKey y.pte) →
              (∀ x ∈ xs, setAD t x false = t) →
              favourBlocks t none (globalBytes t c .store k.dloc (bytes.map (·.1)) |>.map (·.pa)) [] = false →
              let at' := fun (v : State) (r : ByteRes) => match r with
                | .glob x => readByte v (pteKey x.pte) x.pa
                | .loc l => localByte v c.cohort l.wg l.off
                | _ => 0
              let same := fun (r q : ByteRes) => match r, q with
                | .glob x, .glob y => x.pa = y.pa
                | .loc l, .loc m => l.wg = m.wg ∧ l.off = m.off
                | _, _ => False
              ∃ v, E = .next v ∧
                (∀ (i : Nat) w, bytes[i]? = some w → (∀ (j : Nat) y, i < j → bytes[j]? = some y → ¬same (place w.1) (place y.1)) →
                  at' v (place w.1) = w.2) ∧
                (∀ a, (∀ b x, global b x → lineOf x.pa ≠ lineOf a) → memByte v a = memByte s a) ∧
                (k.dloc = true → ∀ wg off, (∀ y ∈ bytes, ∀ l, place y.1 = .loc l → ¬(l.wg = wg ∧ l.off = off)) →
                  localByte v c.cohort wg off = localByte s c.cohort wg off) ∧
                (∃ csn, ∀ a x, global a x → readK 0 (lineOf x.pa) v.wStamp = csn ∧ c.kickFloor < csnClock csn ∧ csnClock c.csn < csnClock csn) ∧
                let low := c.bar.isSome ∧ ∀ q, c.bar = some q → ∃ b, barObj s q.1 q.2 = some b ∧ b.bytes - (size : Int) < -2 ^ 31
                (k.follow = true → c.next + 1 = c.total → (∃ x, copy? v u = some x ∧ x.follow = .due ∧ x.next = c.next) ∧
                  ∀ r ∈ (coreOf s c.core).records, r.slot = c.slot → r.stamp = u →
                    { r with flags := c.flags ||| p.flags, sat := min 65535 (c.sat + p.sat) } ∈ (coreOf v c.core).records) ∧
                (¬(k.follow = true ∧ c.next + 1 = c.total) →
                  let sat := min 65535 (c.sat + p.sat)
                  (low → copy? v u = none ∧ ∀ r ∈ (coreOf s c.core).records, r.slot = c.slot → r.stamp = u →
                    { r with flags := c.flags ||| p.flags, sat, state := 3 } ∈ (coreOf v c.core).records) ∧
                  (¬low →
                    (∀ core obj b, c.bar = some (core, obj) → barObj s core obj = some b → ∃ st, b.stamp ≤ st ∧
                      barObj v core obj = barObj (barSettle s core obj { b with bytes := b.bytes - (size : Int), stamp := st }) core obj) ∧
                    (∀ r ∈ (coreOf s c.core).records, r.slot = c.slot → r.stamp = u →
                      let state := if c.next + 1 = c.total then 2 else r.state
                      ({ r with done := c.next + 1, flags := c.flags ||| p.flags, sat, state } : CopyRec) ∈ (coreOf v c.core).records) ∧
                    (c.next + 1 < c.total → ∃ x, copy? v u = some x ∧ x.next = c.next + 1 ∧ x.follow = .none ∧ x.engine = c.engine) ∧
                    (c.next + 1 = c.total → copy? v u = none ∧ (∀ e ∈ (basinOf v c.basin).score, e.owner ≠ u) ∧
                      ∀ g, gang? s c.gang = some g → ∃ h, gang? v c.gang = some h ∧
                        ∀ i, i < 8 → (c.flags ||| p.flags).getLsbD i = true → h.fpflags.getLsbD i = true))))))) ∧
  (∀ (s : State) (c : CopyCmd) (link : LinkResult), let k := parseCmd c.bytes
    isCopy k = true → ∃ p, planOf s c link k = .ok p ∧ p.bad = none ∧ p.pieces.length = (k.ordinals c.next).length ∧
      ∀ (i o : Nat), (k.ordinals c.next)[i]? = some o → ∃ q, p.pieces[i]? = some q ∧ q.dst = k.dstAddr o ∧
        q.src = (k.srcAddr o).map (fun a => (a, k.ssz)) ∧
        q.out = bytesOf k.dsz (match k.srcAddr o with
          | none => 0
          | some a => (convElem k (natOfBytes (chunkBytes s c link k.sloc a k.ssz))).1)) ∧
  (∀ (k : Cmd) (i0 i1 i2 i3 : Nat), i0 < k.win0 → i1 < k.win1 → i2 < k.win2 → i3 < k.win3 →
    let f := if k.trans then i1 else i0
    let g := if k.trans then i0 else i1
    let row := g + k.wg * (i2 + k.win2 * i3)
    let o := f + k.wf * row
    o < k.elems ∧ k.dstAddr o = wrapAddr k.dloc (k.dst + row * k.pitch + f * k.dsz) ∧
    (k.srcAddr o = none ↔ k.org0 + i0 < 0 ∨ k.ext0 ≤ k.org0 + i0 ∨ k.org1 + i1 < 0 ∨ k.ext1 ≤ k.org1 + i1) ∧
    ∀ p0 p1 : Nat, k.org0 + i0 = p0 → k.org1 + i1 = p1 → p0 < k.ext0 → p1 < k.ext1 →
      k.srcAddr o = some (wrapAddr k.sloc (k.src + p0 * k.ssz + p1 * k.sstr1 + i2 * k.sstr2 + i3 * k.sstr3))) ∧
  ∀ (s : State) (u : Nat),
    let E := exec (.followOnOffer u) s
    (copy? s u = none → E = .next s) ∧
    ∀ c, copy? s u = some c →
      let k := parseCmd c.bytes
      (c.follow ≠ .due → E = .next s) ∧
      (c.follow = .due → (∀ g, gang? s c.gang = some g → g.ended = true ∨ followOk s g k = false) →
        (∃ v, E = .next v ∧ v.copies = s.copies.filter (fun x => x.uid != u) ∧ v.mem = s.mem) ∧
        ∀ g, gang? s c.gang = some g → g.ended = false → ∃ v, E = .next v ∧ failed s v c 0x44 c.addr) ∧
      ∀ g, c.follow = .due → gang? s c.gang = some g → g.ended = false → followOk s g k = true →
        let op := mkOp s g (.mma (followFunc k) (followFlags k)) 0 ((followLow k).zeroExtend 64) (followArw k)
        ∃ v, E = .next v ∧ (coreOf v g.core).offers = (coreOf s g.core).offers ++ [{ op with follow := some u }] ∧
          copy? v u = some { c with follow := .offered } ∧ v.gangs = s.gangs ∧ v.mem = s.mem ∧
          ∀ q, q ≠ g.core → coreOf v q = coreOf s q

/-- R321, R323 to R328; log 45 for the tie edges of a negated triangle. -/
def Obligations.RasterSteps : Prop :=
  (∀ (s : State) (core : Nat), rasterHead s core = none →
    ∀ i ∈ [Instr.rasterBinning core, .fragmentGangLaunch core, .fragmentBlend core, .tileWriteBack core], exec i s = .next s) ∧
  (∀ (s : State) (core : Nat) (c : RasterCmd), rasterHead s core = some c → c.core = core →
    let r := (coreOf s core).raster
    let R := fun (v : State) => (coreOf v core).raster
    let ended := fun (t v : State) =>
      (R v).queue = (R t).queue.drop 1 ∧ (R v).phase = .idle ∧ (R v).frags = [] ∧ (R v).tileMem = [] ∧ v.mem = t.mem
    let opens := fun (v : State) (d : RasterCmd) (tiles : List Nat) =>
      (R v).tileMem = [] ∧ (R v).touched = [] ∧ (R v).loaded = false ∧ rasterHead v core = some { d with tiles := tiles.drop 1 } ∧
      (tiles = [] → (R v).phase = .done ∧ (R v).frags = []) ∧
      ∀ n rest, tiles = n :: rest → (R v).phase = .shading ∧ (R v).tile = n ∧ (R v).frags = tileFrags d n
    (let x := accList (readTri (unitView c) c) s (List.range c.nprim);
      let E := exec (.rasterBinning core) s;
      (c.binned = true → E = .next s) ∧ (∀ t, c.binned = false → x = .wait t → E = .next (keepAsks s t)) ∧
      (∀ t ts, c.binned = false → x = .ok t ts → rasterHead t core = some c →
        let d := { c with tris := ts.filterMap id, binned := true }
        let tiles := (List.range (tilesAcross c * tilesDown c)).filter fun n => !(tileFrags d n).isEmpty
        ∃ v, E = .next v ∧ v.mem = t.mem ∧ v.gangs = t.gangs ∧ opens v { d with tiles } tiles) ∧
      ∀ t k i a, c.binned = false → x = .bad t k i a → ∃ v, E = .next v ∧ ended s v) ∧
    (let E := exec (.fragmentGangLaunch core) s;
      ((r.phase ≠ .shading ∨ ∀ f ∈ r.frags, f.grid.isSome) → E = .next s) ∧
      ∀ (i : Nat) f t, r.phase = .shading → r.frags[i]? = some f → f.grid = none →
        (∀ (j : Nat) g, j < i → r.frags[j]? = some g → g.grid.isSome) → c.tris.find? (fun x => x.1 == f.tri) = some t →
        c.coarse ∈ [1, 2, 4] →
        ∃ v gr, E = .next v ∧ v.grids = s.grids ++ [gr] ∧ gr.region = c.region ∧ gr.ctx = c.ctx ∧ gr.codeBase = c.kernel ∧
          gr.entry = c.entry ∧ gr.wgs = 1 ∧ gr.granules = c.granules ∧ gr.localBytes = 0 ∧ gr.lmode = .measured ∧
          gr.prot = heldProt s c.region ∧ gr.pol = heldPol s c.region ∧ v.mem = s.mem ∧ v.gangs = s.gangs ∧
          (region? v c.region).map (·.queue) = (region? s c.region).map (fun q => q.queue ++ [.fresh gr.uid 0]) ∧
          (R v).frags[i]? = some { f with grid := some gr.uid } ∧
          ∀ q, q < 16 → (gr.masks.getLsbD q = true ↔ ∃ p ∈ f.pixels, groupOf c.coarse p.1 p.2 = q) ∧
            (gr.masks.getLsbD q = true →
              let px := 4 * (f.block % 65536) + c.coarse * (q % (4 / c.coarse))
              let py := 4 * (f.block / 65536) + c.coarse * (q / (4 / c.coarse))
              let es := edges t (256 * px + 128 * c.coarse) (256 * py + 128 * c.coarse)
              readK 0 q gr.laneRegs = BitVec.ofNat 32 (py * 65536 + px) ∧ readK 0 (96 + q) gr.laneRegs = BitVec.ofNat 32 t.1 ∧
              ∀ j, j < 2 → readK 0 (32 + 32 * j + q) gr.laneRegs =
                interpolate es (area t) ((List.range 3).map fun n => fdec fp32 (t.2.2.1.getD (2 * n + j) 0).toNat))) ∧
    (let E := exec (.fragmentBlend core) s;
      (blendNext s r.frags = none → E = .next s) ∧
      ∀ i f out floor, blendNext s r.frags = some (i, f, out, floor) →
        (r.loaded = false →
          (∀ t, readIn s c r.tile = .wait t → E = .next (keepAsks s t)) ∧
          (∀ t m, readIn s c r.tile = .ok t m → (m.map (·.1)).Nodup → ∃ v, E = .next v ∧ v.mem = t.mem ∧ (R v).loaded = true ∧
            (∀ p ∈ m, readK 0 p.1 (R v).tileMem = p.2) ∧ ∀ k, k ∉ m.map (·.1) → readK 0 k (R v).tileMem = 0) ∧
          ∀ t k n a, readIn s c r.tile = .bad t k n a → ∃ v, E = .next v ∧ ended s v) ∧
        (r.loaded = true → f.pixels.Nodup → (out.map fun o => (o.1, o.2.1)).Nodup →
          (∀ p ∈ f.pixels, p.1 / 4 = f.block % 65536 ∧ p.2 / 4 = f.block / 65536) →
          let hit := fun (p : Nat × Nat) (o : Nat × Nat × Word) =>
            p ∈ f.pixels ∧ o ∈ out ∧ o.1 = groupOf c.coarse p.1 p.2 ∧ o.2.1 < c.surf.d.chans
          ∃ v, E = .next v ∧ v.mem = s.mem ∧ v.gangs = s.gangs ∧
            (∀ p o, hit p o → readK 0 (tileKey o.2.1 p.1 p.2) (R v).tileMem =
              blendSample c.blend c.surf.d.bits (readK 0 (tileKey o.2.1 p.1 p.2) r.tileMem) o.2.2) ∧
            (∀ k, (∀ p o, hit p o → tileKey o.2.1 p.1 p.2 ≠ k) → readK 0 k (R v).tileMem = readK 0 k r.tileMem) ∧
            (∀ n, n ∈ (R v).touched ↔ n ∈ r.touched ∨ ∃ p o, hit p o ∧ n = p.2 * 65536 + p.1) ∧
            (R v).frags[i]? = some { f with blended := true, out := some out } ∧
            rasterHead v core = some { c with stamp := max c.stamp floor, wrote := true })) ∧
    (let E := exec (.tileWriteBack core) s;
      let all := ∀ f ∈ r.frags, f.blended = true;
      let x := tilePins c r s (dirtyBlocks c r.touched) [];
      ((r.phase = .idle ∨ r.phase = .shading ∧ ¬all) → E = .next s) ∧
      (r.phase = .shading → all → r.touched = [] → ∃ v, E = .next v ∧ v.mem = s.mem ∧ opens v c c.tiles) ∧
      (r.phase = .shading → all → r.touched ≠ [] →
        (∀ t, x = .wait t → E = .next (keepAsks s t)) ∧
        (∀ t k i a, x = .bad t k i a → ∃ v, E = .next v ∧ ended s v) ∧
        ∀ t pins, x = .ok t pins →
          (∀ p ∈ pins, ∀ w, w ∈ p.writes ↔ w.1 < 16 ∧ ((4 * p.by' + w.1 / 4) * 65536 + 4 * p.bx + w.1 % 4) ∈ r.touched ∧
            w.2 = readK 0 (tileKey p.chan (4 * p.bx + w.1 % 4) (4 * p.by' + w.1 / 4)) r.tileMem) ∧
          (writeTile t c pins = none → E = .next (keepAsks s t)) ∧
          ∀ u csn, writeTile t c pins = some (u, csn) → rasterHead u core = some c → ∃ v, E = .next v ∧ v.mem = u.mem ∧
            opens v { c with stamp := max c.stamp (csnClock csn), wrote := true } c.tiles) ∧
      (r.phase = .done →
        (c.doneVa = 0 → ∃ v, E = .next v ∧ ended s v) ∧
        (c.doneVa ≠ 0 → r.ownerFail = [] →
          let add := completionAdd s (.unit core) c.ctx c.region c.doneVa (if c.wrote then c.stamp else c.floor) none
          (∀ t, add = .wait t → E = .next t) ∧ ∀ t, add = .done t → ∃ v, E = .next v ∧ ended t v)))) ∧
  (∀ (c : RasterCmd) (tile x y n : Nat), 0 < c.surf.d.width →
    ((∃ f ∈ tileFrags c tile, f.tri = n ∧ (x, y) ∈ f.pixels ∧ f.block = y / 4 * 65536 + x / 4) ↔
      (∃ t ∈ c.tris, t.1 = n ∧ covered t x y = true) ∧ x / 32 = tile % tilesAcross c ∧ y / 32 = tile / tilesAcross c ∧
        c.sx0 ≤ x ∧ x < c.sx1 ∧ c.sy0 ≤ y ∧ y < c.sy1 ∧ x < c.surf.d.width ∧ y < c.surf.d.height)) ∧
  (∀ (ax ay bx by' cx cy dx dy : Int) (as : List Word) (x y : Nat),
    let c := edge ax ay bx by' cx cy
    let d := edge ax ay bx by' dx dy
    let t : Tri := (0, [ax, ay, bx, by', cx, cy], as, decide (c < 0))
    let u : Tri := (1, [ax, ay, bx, by', dx, dy], as, decide (d < 0))
    let inner := fun (t : Tri) => ∀ i, i < 2 → 0 < (edges t (256 * x + 128) (256 * y + 128)).getD i 0
    edge ax ay bx by' (256 * x + 128) (256 * y + 128) = 0 → inner t → inner u → (c < 0 ∧ 0 < d ∨ d < 0 ∧ 0 < c) →
    (covered t x y = true ↔ covered u x y = false)) ∧
  ∀ (n old : Nat) (o : Word), blendSample 0 n old o = min o.toNat (2 ^ n - 1) ∧
    blendSample 1 n old o = min (old + o.toNat) (2 ^ n - 1) ∧ blendSample 2 n old o = max old (min o.toNat (2 ^ n - 1))

/-- R229, R235, R344 to R348, R358, R359, R371 to R373; log 14 for what is saved, log 39 for reservations, log 51 for the stall, log 52 for the
recheck, log 85 for raster commands at retirement and log 86 for a migrating cohort's queue, the model's choices. -/
def Obligations.Cohorts : Prop :=
  let freed := fun (v : State) (c : Cohort) =>
    (∀ e ∈ (basinOf v c.basin).score, e.cohort ≠ c.uid) ∧ (∀ x ∈ v.copies, x.cohort ≠ c.uid) ∧
      ∀ w ∈ c.wgs, ∀ n ∈ w.names, barObj v w.core n.2 = none
  let stopped := fun (s v : State) (c : Cohort) (k : Stop) =>
    cohort? v c.uid = some { c with stop := some k, stopAt := s.nextUid,
                                    saveSlot := if c.saveSlot.isSome then c.saveSlot else freeSaveSlot s c.ctx } ∧ v.gangs = s.gangs ∧ v.mem = s.mem ∧
      v.cores = s.cores
  let restored := fun (s v : State) (c : Cohort) (basin : Nat) =>
    ∃ d cores, fitCores s s c.region (cohortDemand s c) basin = some cores ∧ cohort? v c.uid = some d ∧ d.resident = true ∧
      d.basin = basin ∧ d.stop = none ∧ d.wgs.map (·.core) = cores ∧ v.mem = s.mem ∧
      d.refills = ((s.gangs.filter fun g => g.cohort == c.uid && !g.ended).flatMap fun g => g.grant.fills.reverse.map fun f => (g.uid, f)) ∧
      d.saveSlot = (if d.refills = [] then none else c.saveSlot) ∧
      (∀ a g, gang? s a = some g → g.cohort = c.uid → ∃ k, gang? v a = some k ∧ k.regs = g.regs ∧ k.slices = g.slices ∧
        k.alloc = g.alloc ∧ k.trap = g.trap ∧ k.live = g.live ∧ k.acq = (if d.refills = [] then s.now else g.acq) ∧ k.core = cores.getD g.wg g.core) ∧
      ((s.gangs.map (·.uid)).Nodup → (c.savedRows.map fun r => (r.1, r.2.1, r.2.2.1)).Nodup →
        (∀ r ∈ c.savedRows, r.2.2.1 < 256 ∧ ∀ g, gang? s r.1 = some g → r.2.1 < g.grant.rows) →
        ∀ r ∈ c.savedRows, ∀ k, gang? v r.1 = some k → k.cohort = c.uid → k.ended = false →
          accGet (coreOf v k.core) k.grant r.2.1 r.2.2.1 = r.2.2.2.1) ∧
      ∀ (i : Nat) w n, c.wgs[i]? = some w → (w.savedBars.map (·.1)).Nodup → n ∈ w.savedBars → ∃ core obj,
        boundObj v c.uid i n.1 = some (core, obj) ∧ barObj v core obj = some n.2
  (∀ (s : State) (u : Nat), let E := exec (.cohortRetire u) s;
    (cohort? s u = none → E = .next s) ∧
    ∀ c, cohort? s u = some c →
      ((c.resident = false ∨ cohortDone s c = false) → E = .next s) ∧
      (cohortDone s c = true ↔ (∀ g ∈ s.gangs, g.cohort = u → g.ended = true) ∧ cohortQuiet s u = true ∧
        (∀ x ∈ s.copies, x.cohort ≠ u) ∧ ∀ k ∈ s.cores, ∀ q ∈ k.2.raster.queue, q.cohort ≠ u) ∧
      ∀ gr, c.resident = true → cohortDone s c = true → grid? s c.grid = some gr →
        let gone := fun (v : State) (mem : List (Nat × Byte)) => E = .next v ∧ cohort? v u = none ∧ v.mem = mem ∧ freed v c ∧
          (∀ g ∈ v.gangs, g.cohort ≠ u) ∧
          grid? v c.grid = if gr.retired + 1 < gridCohorts gr then some { gr with retired := gr.retired + 1 } else none
        (gr.retired + 1 < gridCohorts gr ∨ gr.doneVa = 0 → ∃ v, gone v s.mem) ∧
        (gridCohorts gr ≤ gr.retired + 1 → gr.doneVa ≠ 0 →
          let add := completionAdd s (.grid gr.uid) gr.ctx gr.region gr.doneVa gr.stamp gr.doneFail
          (∀ t, add = .wait t → E = .next t) ∧ (∀ t, add = .done t → ∃ v, gone v t.mem) ∧ ∀ t, add = .fault t → ∃ v, gone v s.mem)) ∧
  (∀ (s : State) (who : Asker) (ctx region stamp : Nat) (va : DWord) (fail : Option Nat) (x : Xlat), va.toNat % 8 = 0 →
    checkAccess s ctx region .store va = .ok x → PlainRead s x → setAD s x true = s → NoPins s → (askLine s who region x).2 = true →
    favourBlocks s none ((List.range 8).map (x.pa + ·)) [] = false → (isDram x.pa = true → (keyPair s (pteKey x.pte)).isSome) →
    ∃ t, completionAdd s who ctx region va stamp fail = .done t ∧
      readBytes t (pteKey x.pte) x.pa 8 = bytesOf 8 (natOfBytes (readBytes s (pteKey x.pte) x.pa 8) + 1) ∧
      ∀ a, lineOf a ≠ lineOf x.pa → memByte t a = memByte s a) ∧
  (∀ (s : State), let E := exec .cohortPlacement s;
    (∀ pa b, dueReservation s = some (pa, b) →
      E = .next (modRegion s pa fun r => { r with reserved := some b, reservedAt := s.now }) ∧
      ∃ r ∈ s.regions, r.pa = pa ∧ (headOf r).isSome ∧ r.reserved = none ∧ ∀ q, q < 64 → headFits s s r q = false) ∧
    (dueReservation s = none → ∀ pa b c cs, duePreemption s = some (pa, b, c :: cs) → (s.cohorts.map (·.uid)).Nodup →
      (∃ v, E = .next v ∧ stopped s v c .requeue ∧ ∀ r, region? s pa = some r → region? v pa = some { r with clearing := some b }) ∧
      (∀ d ∈ c :: cs, d ∈ s.cohorts ∧ d.resident = true ∧ d.basin = b ∧ elapsed s d = true ∧ heldPrio s d.region < heldPrio s pa) ∧
      ∃ r ∈ s.regions, r.pa = pa ∧ (headOf r).isSome ∧ ∀ q, q < 64 → headFits s s r q = false) ∧
    (dueReservation s = none → duePreemption s = none →
      (nextRegion s = none → E = .next s) ∧
      ∀ t pa, nextRegion s = some (t, pa) → { t with regions := s.regions, turns := s.turns } = s ∧ mayPlace t pa = true ∧
        (∀ q ∈ s.regions, (findBasin s q).isSome → heldPrio s q.pa ≤ heldPrio s pa) ∧
        ∀ r b u k rest gr cores, region? t pa = some r → findBasin t r = some b → r.queue = .fresh u k :: rest → r.suspended = false →
          grid? t u = some gr → fitCores t t pa (headDemand t (.fresh u k)) b = some cores →
          ∃ v c gs q, E = .next v ∧ v.mem = t.mem ∧ v.cohorts = t.cohorts ++ [c] ∧ v.gangs = t.gangs ++ gs ∧ c.number = k ∧
            c.grid = u ∧ c.region = gr.region ∧ c.basin = b ∧ c.resident = true ∧ c.wgs.map (·.core) = cores ∧
            (∀ w ∈ c.wgs, w.names = [] ∧ w.mem = []) ∧ gs.length = cores.length * gangsPerWg gr.prot gr.wgdim ∧
            (∀ g ∈ gs, g.cohort = c.uid ∧ g.alloc = 8 * gr.granules ∧ g.sched.active = false ∧ g.sched.wait = .none ∧ g.ended = false ∧
              cores[g.wg]? = some g.core ∧ (∀ sl ∈ g.slices, sl.pc = gr.codeBase + BitVec.ofNat 64 (12 * gr.entry.toNat)) ∧
              (gr.raster = none → ∀ i l, 2 ≤ i → l < 32 → getReg g i l = 0)) ∧
            region? v pa = some q ∧ q.queue = (if k + 1 < gridCohorts gr then .fresh u (k + 1) :: rest else rest) ∧ q.reserved = none ∧ q.clearing = none ∧
            q.deficit = if q.queue = [] then 0 else r.deficit - (headDemand t (.fresh u k)).gangs)) ∧
  (∀ (s : State) (region basin : Nat) (d : Demand) (cores : List Nat), fitCores s s region d basin = some cores →
    cores.length = d.wgs.length ∧ cores.Pairwise (· < ·) ∧
    ∀ (i core : Nat) l, cores[i]? = some core → d.wgs[i]? = some l → core / 4 = basin ∧ (heldMask s region).getLsbD core = true ∧
      resourcesFit s core region l d.bytes = true ∧ quotasFit s core region l d.bytes = true) ∧
  (∀ (s : State) (core : Nat), let E := exec (.growthStall core) s;
    ((∃ g ∈ residents s core, canIssue g = true) → E = .next s) ∧
    (stalledGrower s core = none → E = .next s) ∧
    ∀ g before c, (∀ h ∈ residents s core, canIssue h = false) → stalledGrower s core = some (g, before) →
      let ok := fun (d : Cohort) => d ∈ cohortsOn s core ∧ d.uid ≠ g.cohort ∧ removable s d = true ∧ d.uid ≠ 0 ∧
        ∀ u ∈ before, ∀ h, gang? s u = some h → h.cohort ≠ d.uid
      (∀ d ∈ s.cohorts, d.uid ≠ 0) → cohort? s c.uid = some c → ok c →
      (∀ d, ok d → d ≠ c → lexLt [d.age, d.uid] [c.age, c.uid] = true) →
        (c.stop.isSome → E = .next s) ∧ (c.stop = none → ∃ v, E = .next v ∧ stopped s v c .requeue)) ∧
  (∀ (s : State) (u : Nat) (c : Cohort), cohort? s u = some c → let E := exec (.thermalMigration u) s;
    let due := c.resident = true ∧ c.stop = none ∧ elapsed s c = true ∧ (∀ t, c.recheck = some t → t ≤ cohortCycle s c) ∧
      ∃ w ∈ c.wgs, (coreOf s w.core).hot.getD s.dev.hotThreshold < (coreOf s w.core).temp ∧ Config.residency < residencyOn s w
    let room := coolerRoom s c = true ∧ (c.saveSlot.isSome ∨ (freeSaveSlot s c.ctx).isSome)
    (¬due → E = .next s) ∧
    (due → room → ∃ v, E = .next v ∧ stopped s v c .migrate) ∧
    (due → ¬room → E = .next (modCohort s u fun x => { x with recheck := some (cohortCycle s c + 65536) }))) ∧
  (∀ (s : State) (u : Nat), let E := exec (.preemption u) s;
    (cohort? s u = none → E = .next s) ∧
    ∀ c, cohort? s u = some c →
      ((c.resident = false ∨ c.stop = none ∨ cohortQuiet s u = false) → E = .next s) ∧
      (∀ t, c.resident = true → c.stop.isSome → cohortQuiet s u = true → stopSpans s u = (t, false) → E = .next t) ∧
      ∀ t d, c.resident = true → c.stop.isSome → cohortQuiet s u = true → stopSpans s u = (t, true) → cohort? t u = some d →
        ∃ v e, E = .next v ∧ cohort? v u = some e ∧ e.resident = false ∧ e.saveSlot = d.saveSlot ∧ freed v d ∧ v.mem = t.mem ∧
          (d.stop = some .migrate → e.stop = some .migrate ∧ (region? v d.region).map (·.queue) = (region? t d.region).map (·.queue)) ∧
          (d.stop ≠ some .migrate → e.stop = none ∧
            (region? v d.region).map (·.queue) = (region? t d.region).map fun r => requeue t r.queue u) ∧
          (∀ a g, gang? t a = some g → (g.cohort ≠ u → gang? v a = some g) ∧ (g.cohort = u → ∃ k, gang? v a = some k ∧
            k.sched.active = false ∧ k.trap.queue = g.trap.queue ∧ k.trap.frame = g.trap.frame ∧
            { k with bars := g.bars, trap := g.trap, sched := g.sched } = g)) ∧
          (∀ a g row col, gang? t a = some g → g.cohort = u → g.ended = false → row < g.grant.rows → col < 256 →
            accGet (coreOf t g.core) g.grant row col ≠ 0 →
            (g.uid, row, col, accGet (coreOf t g.core) g.grant row col, (coreOf t g.core).accPoison.contains (accKey g.grant row col)) ∈
              e.savedRows) ∧
          (∀ (i : Nat) w, d.wgs[i]? = some w → ∃ w', e.wgs[i]? = some w' ∧ w'.mem = w.mem ∧ w'.names = [] ∧
            ∀ n b, n ∈ w.names → barObj t w.core n.2 = some b → (n.1, b) ∈ w'.savedBars) ∧
          ∀ x ∈ t.copies, x.cohort = u → { x with engine := none, pos := none, bar := none } ∈ e.savedCmds) ∧
  ∀ (s : State) (u basin : Nat), let E := exec (.cohortRestore u basin) s;
    (cohort? s u = none → E = .next s) ∧
    ∀ c, cohort? s u = some c →
      (c.resident = true → (c.stop.isSome ∨ c.refills = []) → E = .next s) ∧
      (c.resident = true → c.stop = none → ∀ a f rest k, c.refills = (a, f) :: rest → gang? s a = some k →
        (∀ va, refillOwn s k f = some va → ∃ v r, E = .next v ∧ v.cohorts = s.cohorts ∧ v.mem = s.mem ∧
          handReq? v c.ctx (pageKey s c.ctx va) = some r ∧ a ∈ r.waiters) ∧
        (refillOwn s k f = none → ∀ t, askLines s (.restore u) c.region (refillXlats s k f) = (t, false) → E = .next t) ∧
        (refillOwn s k f = none → ∀ t, askLines s (.restore u) c.region (refillXlats s k f) = (t, true) → ∃ v d, E = .next v ∧
          cohort? v u = some d ∧ d.refills = rest ∧ d.saveSlot = (if rest = [] then none else c.saveSlot) ∧
          { d with refills := c.refills, saveSlot := c.saveSlot, savedRows := c.savedRows, savedRecs := c.savedRecs, savedCmds := c.savedCmds } = c ∧
          (rest = [] → d.savedRows = [] ∧ ∀ b g, gang? s b = some g → g.cohort = u → ∃ h, gang? v b = some h ∧ h.regs = g.regs ∧ s.now ≤ h.acq) ∧
          (let pieces := linesOf f.va (if f.kind = 0 then 144 else 4);
            f.kind = 0 ∨ f.kind = 2 → (∀ q ∈ pieces, ∃ x, laneCheck t k .load 1 q.1 = .ok x ∧ setAD t x false = t) →
            let bytes := pieces.flatMap (fun q => match laneCheck t k .load 1 q.1 with
              | .ok x => readBytes t (pteKey x.pte) x.pa q.2
              | _ => []);
            (f.kind = 0 → ∀ (i : Nat) b, bytes[i]? = some b → readK 0 (192 * slotKey k.grant f.panel f.index + i) (coreOf v k.core).wbuf = b) ∧
            (f.kind = 2 → scaleGet (coreOf v k.core) k.grant f.index = wordAt bytes 0)))) ∧
      (c.resident = false → (∃ r, region? s c.region = some r ∧ r.suspended = true) → E = .next s) ∧
      (c.resident = false → (∀ r, region? s c.region = some r → r.suspended = false) →
        (c.stop = some .migrate →
          (migrationBasin s c = none → E = .next (modRegion (modCohort s u fun x => { x with stop := none }) c.region fun r =>
            { r with queue := requeue s r.queue u })) ∧
          ∀ b, migrationBasin s c = some b → (b ≠ basin → E = .next s) ∧
            (b = basin → ∃ v, E = .next v ∧ restored s v c basin)) ∧
        (c.stop ≠ some .migrate →
          (nextRegion s = none → E = .next s) ∧
          ∀ t pa r, nextRegion s = some (t, pa) → region? t pa = some r →
            (¬(headOf r = some (.saved u) ∧ findBasin t r = some basin) → E = .next s) ∧
            (headOf r = some (.saved u) → findBasin t r = some basin → ∃ v q, E = .next v ∧ restored t v c basin ∧
              region? v pa = some q ∧ q.queue = r.queue.drop 1 ∧ q.reserved = none)))
end

