-- ==== Sys2Proof/Laws/Encode.lean ====
section
/-! SUPPORT. What each field reads in a word that an encoder of one of the formats made (R187, R190, R193). -/

set_option Elab.async false

namespace Sys2Proof

theorem exl {a b k w : Nat} (x : BitVec a) (y : BitVec b) (h : b ≤ k) :
    (x ++ y).extractLsb' k w = x.extractLsb' (k - b) w := by
  apply BitVec.eq_of_getLsbD_eq; intro i hi
  simp only [BitVec.getLsbD_extractLsb', BitVec.getLsbD_append, hi, decide_true, Bool.true_and]
  rw [if_neg (by omega)]; congr 1; omega

theorem exr {a b k w : Nat} (x : BitVec a) (y : BitVec b) (h : k + w ≤ b) :
    (x ++ y).extractLsb' k w = y.extractLsb' k w := by
  apply BitVec.eq_of_getLsbD_eq; intro i hi
  simp only [BitVec.getLsbD_extractLsb', BitVec.getLsbD_append, hi, decide_true, Bool.true_and]
  rw [if_pos (by omega)]

theorem getLsbD_appendL {a b k : Nat} (x : BitVec a) (y : BitVec b) (h : b ≤ k) :
    (x ++ y).getLsbD k = x.getLsbD (k - b) := by
  rw [BitVec.getLsbD_append, if_neg (by omega)]

theorem getLsbD_appendR {a b k : Nat} (x : BitVec a) (y : BitVec b) (h : k < b) :
    (x ++ y).getLsbD k = y.getLsbD k := by
  rw [BitVec.getLsbD_append, if_pos h]

theorem exall {w : Nat} (x : BitVec w) : x.extractLsb' 0 w = x := by simp

@[simp] theorem fMajor_encA3 (c : Bool) (maj : BitVec 6) (func : BitVec 4) (d a b : Reg) : fMajor (encA3 c maj func d a b) = maj := by
  unfold fMajor encA3; rw [exl _ _ (by decide), exl _ _ (by decide), exl _ _ (by decide), exl _ _ (by decide), exr _ _ (by decide)]; exact exall _

@[simp] theorem fFunc_encA3 (c : Bool) (maj : BitVec 6) (func : BitVec 4) (d a b : Reg) : fFunc (encA3 c maj func d a b) = func := by
  unfold fFunc encA3; rw [exl _ _ (by decide), exl _ _ (by decide), exl _ _ (by decide), exr _ _ (by decide)]; exact exall _

@[simp] theorem fD_encA3 (c : Bool) (maj : BitVec 6) (func : BitVec 4) (d a b : Reg) : fD (encA3 c maj func d a b) = d := by
  unfold fD encA3; rw [exl _ _ (by decide), exl _ _ (by decide), exr _ _ (by decide)]; exact exall _

@[simp] theorem fA_encA3 (c : Bool) (maj : BitVec 6) (func : BitVec 4) (d a b : Reg) : fA (encA3 c maj func d a b) = a := by
  unfold fA encA3; rw [exl _ _ (by decide), exr _ _ (by decide)]; exact exall _

@[simp] theorem fB_encA3 (c : Bool) (maj : BitVec 6) (func : BitVec 4) (d a b : Reg) : fB (encA3 c maj func d a b) = b := by
  unfold fB encA3; rw [exr _ _ (by decide)]; exact exall _

@[simp] theorem fChain_encA3 (c : Bool) (maj : BitVec 6) (func : BitVec 4) (d a b : Reg) : fChain (encA3 c maj func d a b) = c := by
  unfold fChain encA3; rw [getLsbD_appendL _ _ (by decide), getLsbD_appendL _ _ (by decide), getLsbD_appendL _ _ (by decide), getLsbD_appendL _ _ (by decide), getLsbD_appendL _ _ (by decide)]; cases c <;> rfl

@[simp] theorem fMajor_encI (c : Bool) (maj : BitVec 6) (d a : Reg) (imm : BitVec 11) : fMajor (encI c maj d a imm) = maj := by
  unfold fMajor encI; rw [exl _ _ (by decide), exl _ _ (by decide), exl _ _ (by decide), exr _ _ (by decide)]; exact exall _

@[simp] theorem fID_encI (c : Bool) (maj : BitVec 6) (d a : Reg) (imm : BitVec 11) : fID (encI c maj d a imm) = d := by
  unfold fID encI; rw [exl _ _ (by decide), exl _ _ (by decide), exr _ _ (by decide)]; exact exall _

@[simp] theorem fIA_encI (c : Bool) (maj : BitVec 6) (d a : Reg) (imm : BitVec 11) : fIA (encI c maj d a imm) = a := by
  unfold fIA encI; rw [exl _ _ (by decide), exr _ _ (by decide)]; exact exall _

@[simp] theorem bits0_encI (c : Bool) (maj : BitVec 6) (d a : Reg) (imm : BitVec 11) : ((encI c maj d a imm).extractLsb' 0 11 : BitVec 11) = imm := by
  unfold encI; rw [exr _ _ (by decide)]; exact exall _

@[simp] theorem fChain_encI (c : Bool) (maj : BitVec 6) (d a : Reg) (imm : BitVec 11) : fChain (encI c maj d a imm) = c := by
  unfold fChain encI; rw [getLsbD_appendL _ _ (by decide), getLsbD_appendL _ _ (by decide), getLsbD_appendL _ _ (by decide), getLsbD_appendL _ _ (by decide)]; cases c <;> rfl

@[simp] theorem fMajor_encL (c : Bool) (maj : BitVec 6) (d : Reg) (imm : BitVec 18) : fMajor (encL c maj d imm) = maj := by
  unfold fMajor encL; rw [exl _ _ (by decide), exl _ _ (by decide), exr _ _ (by decide)]; exact exall _

@[simp] theorem fID_encL (c : Bool) (maj : BitVec 6) (d : Reg) (imm : BitVec 18) : fID (encL c maj d imm) = d := by
  unfold fID encL; rw [exl _ _ (by decide), exr _ _ (by decide)]; exact exall _

@[simp] theorem bits0_encL (c : Bool) (maj : BitVec 6) (d : Reg) (imm : BitVec 18) : ((encL c maj d imm).extractLsb' 0 18 : BitVec 18) = imm := by
  unfold encL; rw [exr _ _ (by decide)]; exact exall _

@[simp] theorem fChain_encL (c : Bool) (maj : BitVec 6) (d : Reg) (imm : BitVec 18) : fChain (encL c maj d imm) = c := by
  unfold fChain encL; rw [getLsbD_appendL _ _ (by decide), getLsbD_appendL _ _ (by decide), getLsbD_appendL _ _ (by decide)]; cases c <;> rfl

@[simp] theorem fMajor_encS (c : Bool) (func : BitVec 6) (d : Reg) (csr : BitVec 12) : fMajor (encS c func d csr) = 0x21#6 := by
  unfold fMajor encS; rw [exl _ _ (by decide), exl _ _ (by decide), exl _ _ (by decide), exr _ _ (by decide)]; exact exall _

@[simp] theorem bits19_encS (c : Bool) (func : BitVec 6) (d : Reg) (csr : BitVec 12) : ((encS c func d csr).extractLsb' 19 6 : BitVec 6) = func := by
  unfold encS; rw [exl _ _ (by decide), exl _ _ (by decide), exr _ _ (by decide)]; exact exall _

@[simp] theorem bits12_encS (c : Bool) (func : BitVec 6) (d : Reg) (csr : BitVec 12) : ((encS c func d csr).extractLsb' 12 7 : BitVec 7) = d := by
  unfold encS; rw [exl _ _ (by decide), exr _ _ (by decide)]; exact exall _

@[simp] theorem bits0_encS (c : Bool) (func : BitVec 6) (d : Reg) (csr : BitVec 12) : ((encS c func d csr).extractLsb' 0 12 : BitVec 12) = csr := by
  unfold encS; rw [exr _ _ (by decide)]; exact exall _

@[simp] theorem fChain_encS (c : Bool) (func : BitVec 6) (d : Reg) (csr : BitVec 12) : fChain (encS c func d csr) = c := by
  unfold fChain encS; rw [getLsbD_appendL _ _ (by decide), getLsbD_appendL _ _ (by decide), getLsbD_appendL _ _ (by decide), getLsbD_appendL _ _ (by decide)]; cases c <;> rfl

@[simp] theorem fMajor_encT (c : Bool) (maj : BitVec 6) (la func : BitVec 4) (a b : Reg) (flags : BitVec 3) : fMajor (encT c maj la func a b flags) = maj := by
  unfold fMajor encT; rw [exl _ _ (by decide), exl _ _ (by decide), exl _ _ (by decide), exl _ _ (by decide), exl _ _ (by decide), exr _ _ (by decide)]; exact exall _

@[simp] theorem bits21_encT (c : Bool) (maj : BitVec 6) (la func : BitVec 4) (a b : Reg) (flags : BitVec 3) : ((encT c maj la func a b flags).extractLsb' 21 4 : BitVec 4) = la := by
  unfold encT; rw [exl _ _ (by decide), exl _ _ (by decide), exl _ _ (by decide), exl _ _ (by decide), exr _ _ (by decide)]; exact exall _

@[simp] theorem bits17_encT (c : Bool) (maj : BitVec 6) (la func : BitVec 4) (a b : Reg) (flags : BitVec 3) : ((encT c maj la func a b flags).extractLsb' 17 4 : BitVec 4) = func := by
  unfold encT; rw [exl _ _ (by decide), exl _ _ (by decide), exl _ _ (by decide), exr _ _ (by decide)]; exact exall _

@[simp] theorem bits10_encT (c : Bool) (maj : BitVec 6) (la func : BitVec 4) (a b : Reg) (flags : BitVec 3) : ((encT c maj la func a b flags).extractLsb' 10 7 : BitVec 7) = a := by
  unfold encT; rw [exl _ _ (by decide), exl _ _ (by decide), exr _ _ (by decide)]; exact exall _

@[simp] theorem bits3_encT (c : Bool) (maj : BitVec 6) (la func : BitVec 4) (a b : Reg) (flags : BitVec 3) : ((encT c maj la func a b flags).extractLsb' 3 7 : BitVec 7) = b := by
  unfold encT; rw [exl _ _ (by decide), exr _ _ (by decide)]; exact exall _

@[simp] theorem bits0_encT (c : Bool) (maj : BitVec 6) (la func : BitVec 4) (a b : Reg) (flags : BitVec 3) : ((encT c maj la func a b flags).extractLsb' 0 3 : BitVec 3) = flags := by
  unfold encT; rw [exr _ _ (by decide)]; exact exall _

@[simp] theorem fChain_encT (c : Bool) (maj : BitVec 6) (la func : BitVec 4) (a b : Reg) (flags : BitVec 3) : fChain (encT c maj la func a b flags) = c := by
  unfold fChain encT; rw [getLsbD_appendL _ _ (by decide), getLsbD_appendL _ _ (by decide), getLsbD_appendL _ _ (by decide), getLsbD_appendL _ _ (by decide), getLsbD_appendL _ _ (by decide), getLsbD_appendL _ _ (by decide)]; cases c <;> rfl

@[simp] theorem bit0_encT (c : Bool) (maj : BitVec 6) (la func : BitVec 4) (a b : Reg) (flags : BitVec 3) : (encT c maj la func a b flags).getLsbD 0 = flags.getLsbD 0 := by
  unfold encT; rw [getLsbD_appendR _ _ (by decide)]

@[simp] theorem bit2_encT (c : Bool) (maj : BitVec 6) (la func : BitVec 4) (a b : Reg) (flags : BitVec 3) : (encT c maj la func a b flags).getLsbD 2 = flags.getLsbD 2 := by
  unfold encT; rw [getLsbD_appendR _ _ (by decide)]

@[simp] theorem fMajor_encMWord (c : Bool) (maj : BitVec 6) (x : Bool) (la : BitVec 4) (d : Reg) (base : BitVec 4) (off : Reg) (sz : BitVec 2) : fMajor (encMWord c maj x la d base off sz) = maj := by
  unfold fMajor encMWord; rw [exl _ _ (by decide), exl _ _ (by decide), exl _ _ (by decide), exl _ _ (by decide), exl _ _ (by decide), exl _ _ (by decide), exr _ _ (by decide)]; exact exall _

@[simp] theorem bits20_encMWord (c : Bool) (maj : BitVec 6) (x : Bool) (la : BitVec 4) (d : Reg) (base : BitVec 4) (off : Reg) (sz : BitVec 2) : ((encMWord c maj x la d base off sz).extractLsb' 20 4 : BitVec 4) = la := by
  unfold encMWord; rw [exl _ _ (by decide), exl _ _ (by decide), exl _ _ (by decide), exl _ _ (by decide), exr _ _ (by decide)]; exact exall _

@[simp] theorem bits13_encMWord (c : Bool) (maj : BitVec 6) (x : Bool) (la : BitVec 4) (d : Reg) (base : BitVec 4) (off : Reg) (sz : BitVec 2) : ((encMWord c maj x la d base off sz).extractLsb' 13 7 : BitVec 7) = d := by
  unfold encMWord; rw [exl _ _ (by decide), exl _ _ (by decide), exl _ _ (by decide), exr _ _ (by decide)]; exact exall _

@[simp] theorem bits9_encMWord (c : Bool) (maj : BitVec 6) (x : Bool) (la : BitVec 4) (d : Reg) (base : BitVec 4) (off : Reg) (sz : BitVec 2) : ((encMWord c maj x la d base off sz).extractLsb' 9 4 : BitVec 4) = base := by
  unfold encMWord; rw [exl _ _ (by decide), exl _ _ (by decide), exr _ _ (by decide)]; exact exall _

@[simp] theorem bits2_encMWord (c : Bool) (maj : BitVec 6) (x : Bool) (la : BitVec 4) (d : Reg) (base : BitVec 4) (off : Reg) (sz : BitVec 2) : ((encMWord c maj x la d base off sz).extractLsb' 2 7 : BitVec 7) = off := by
  unfold encMWord; rw [exl _ _ (by decide), exr _ _ (by decide)]; exact exall _

@[simp] theorem bits0_encMWord (c : Bool) (maj : BitVec 6) (x : Bool) (la : BitVec 4) (d : Reg) (base : BitVec 4) (off : Reg) (sz : BitVec 2) : ((encMWord c maj x la d base off sz).extractLsb' 0 2 : BitVec 2) = sz := by
  unfold encMWord; rw [exr _ _ (by decide)]; exact exall _

@[simp] theorem fChain_encMWord (c : Bool) (maj : BitVec 6) (x : Bool) (la : BitVec 4) (d : Reg) (base : BitVec 4) (off : Reg) (sz : BitVec 2) : fChain (encMWord c maj x la d base off sz) = c := by
  unfold fChain encMWord; rw [getLsbD_appendL _ _ (by decide), getLsbD_appendL _ _ (by decide), getLsbD_appendL _ _ (by decide), getLsbD_appendL _ _ (by decide), getLsbD_appendL _ _ (by decide), getLsbD_appendL _ _ (by decide), getLsbD_appendL _ _ (by decide)]; cases c <;> rfl

@[simp] theorem bit24_encMWord (c : Bool) (maj : BitVec 6) (x : Bool) (la : BitVec 4) (d : Reg) (base : BitVec 4) (off : Reg) (sz : BitVec 2) : (encMWord c maj x la d base off sz).getLsbD 24 = x := by
  unfold encMWord; rw [getLsbD_appendL _ _ (by decide), getLsbD_appendL _ _ (by decide), getLsbD_appendL _ _ (by decide), getLsbD_appendL _ _ (by decide), getLsbD_appendL _ _ (by decide), getLsbD_appendR _ _ (by decide)]; cases x <;> rfl

@[simp] theorem xOp_encExt (op : BitVec 8) (md : BitVec 3) (cc : Reg) (fl : BitVec 2) : xOp (encExt op md cc fl) = op := by
  unfold xOp encExt; rw [exl _ _ (by decide), exl _ _ (by decide), exl _ _ (by decide), exl _ _ (by decide)]; exact exall _

@[simp] theorem xMod_encExt (op : BitVec 8) (md : BitVec 3) (cc : Reg) (fl : BitVec 2) : xMod (encExt op md cc fl) = md := by
  unfold xMod encExt; rw [exl _ _ (by decide), exl _ _ (by decide), exl _ _ (by decide), exr _ _ (by decide)]; exact exall _

@[simp] theorem xC_encExt (op : BitVec 8) (md : BitVec 3) (cc : Reg) (fl : BitVec 2) : xC (encExt op md cc fl) = cc := by
  unfold xC encExt; rw [exl _ _ (by decide), exl _ _ (by decide), exr _ _ (by decide)]; exact exall _

@[simp] theorem xFl_encExt (op : BitVec 8) (md : BitVec 3) (cc : Reg) (fl : BitVec 2) : xFl (encExt op md cc fl) = fl := by
  unfold xFl encExt; rw [exl _ _ (by decide), exr _ _ (by decide)]; exact exall _

@[simp] theorem low_zeros {n w : Nat} (x : BitVec w) : (0#n ++ x).extractLsb' 0 w = x := by
  rw [exr _ _ (by omega)]; exact exall x

@[simp] theorem low_zeros3 (x : BitVec 3) : ((0#9 ++ x : BitVec 12).extractLsb' 0 3 : BitVec 3) = x := low_zeros x
@[simp] theorem low_zeros2 (x : BitVec 2) : ((0#10 ++ x : BitVec 12).extractLsb' 0 2 : BitVec 2) = x := low_zeros x
@[simp] theorem low_zeros7 (x : Reg) : ((0#5 ++ x : BitVec 12).extractLsb' 0 7 : BitVec 7) = x := low_zeros x
@[simp] theorem low_zeros4 (x : BitVec 4) : ((0#4 ++ x : BitVec 8).extractLsb' 0 4 : BitVec 4) = x := low_zeros x

@[simp] theorem elem24_encMWord (c : Bool) (maj : BitVec 6) (x : Bool) (la : BitVec 4) (d : Reg) (base : BitVec 4) (off : Reg)
    (sz : BitVec 2) : (encMWord c maj x la d base off sz)[24] = x := by
  rw [← BitVec.getLsbD_eq_getElem]; exact bit24_encMWord ..

@[simp] theorem elem0_encT (c : Bool) (maj : BitVec 6) (la func : BitVec 4) (a b : Reg) (flags : BitVec 3) :
    (encT c maj la func a b flags)[0] = flags[0] := by
  rw [← BitVec.getLsbD_eq_getElem, ← BitVec.getLsbD_eq_getElem]; exact bit0_encT ..

@[simp] theorem low_encI (c : Bool) (maj : BitVec 6) (d a : Reg) (imm : BitVec 5) :
    ((encI c maj d a (0#6 ++ imm)).extractLsb' 0 5 : BitVec 5) = imm := by
  unfold encI; rw [exr _ _ (by decide)]; exact low_zeros imm

@[simp] theorem trapNumber_encA3 (c : Bool) (maj : BitVec 6) (func : BitVec 4) (d : Reg) (n : BitVec 14) :
    ((encA3 c maj func d (n.extractLsb' 7 7) (n.extractLsb' 0 7)).extractLsb' 0 14 : BitVec 14) = n := by
  unfold encA3
  apply BitVec.eq_of_getLsbD_eq; intro i hi
  rw [BitVec.getLsbD_extractLsb', BitVec.getLsbD_append, BitVec.getLsbD_append]
  by_cases h : i < 7
  · rw [if_pos (by omega), BitVec.getLsbD_extractLsb']
    simp only [hi, h, decide_true, Bool.true_and, Nat.zero_add]
  · rw [if_neg (by omega), if_pos (by omega), BitVec.getLsbD_extractLsb']
    have e : 7 + (i - 7) = i := by omega
    have h2 : i - 7 < 7 := by omega
    simp only [hi, h2, e, decide_true, Bool.true_and, Nat.zero_add]

@[simp] theorem majorFunc_spring (s : BitVec 6) :
    ((0xF#4 ++ s.extractLsb' 4 2 : BitVec 6).extractLsb' 0 2 : BitVec 2) = s.extractLsb' 4 2 := by
  rw [exr _ _ (by decide)]; exact exall _

theorem springSlot (s : BitVec 6) : s.extractLsb' 4 2 ++ s.extractLsb' 0 4 = s := by
  apply BitVec.eq_of_getLsbD_eq; intro i hi
  rw [BitVec.getLsbD_append]
  by_cases h : i < 4
  · rw [if_pos h, BitVec.getLsbD_extractLsb']
    simp only [h, decide_true, Bool.true_and, Nat.zero_add]
  · rw [if_neg h, BitVec.getLsbD_extractLsb']
    have h2 : i - 4 < 2 := by omega
    have e : 4 + (i - 4) = i := by omega
    simp only [h2, e, decide_true, Bool.true_and]

@[simp] theorem decScope_encScope (s : Scope) : decScope (encScope s) = s := by cases s <;> rfl
@[simp] theorem decMod_encMod (m : RMod) : decMod (encMod m) = m := by cases m <;> rfl
@[simp] theorem decLease_encLease (m : LeaseMode) : decLease (encLease m) = m := by cases m <;> rfl
@[simp] theorem decOrd_encOrd (o : AtomOrd) : decOrd (encOrd o) = o := by cases o <;> rfl
@[simp] theorem decAtomOp_encAtomOp (o : AtomOp) : decAtomOp (encAtomOp o) = some o := by cases o <;> rfl

end Sys2Proof
end

