-- ==== Sys2Proof/Laws/Exec.lean ====
section
/-! SUPPORT. The meaning that `exec` calls for each constructor. -/

namespace Sys2Proof.Machine

@[simp] theorem exec_reset (st : State) : exec .reset st = execReset st := rfl
@[simp] theorem exec_linkTraining (port : Nat) (up : Bool) (rate : Nat) (width : Nat) (mode : Nat) (st : State) : exec (.linkTraining port up rate width mode) st = execLinkTraining port up rate width mode st := rfl
@[simp] theorem exec_sqtailDoorbell (v : Word) (st : State) : exec (.sqtailDoorbell v) st = execSqtailDoorbell v st := rfl
@[simp] theorem exec_hostRegisterWrite (off : Nat) (v : DWord) (st : State) : exec (.hostRegisterWrite off v) st = execHostRegisterWrite off v st := rfl
@[simp] theorem exec_deviceInit (h : CmdHead) (st : State) : exec (.deviceInit h) st = execDeviceInit h st := rfl
@[simp] theorem exec_contextCreate (h : CmdHead) (root saveBase saveSize poolBase : DWord) (poolPages : Word) (st : State) : exec (.contextCreate h root saveBase saveSize poolBase poolPages) st = execContextCreate h root saveBase saveSize poolBase poolPages st := rfl
@[simp] theorem exec_regionCreate (h : CmdHead) (image rcb : DWord) (st : State) : exec (.regionCreate h image rcb) st = execRegionCreate h image rcb st := rfl
@[simp] theorem exec_launch (h : CmdHead) (desc : DWord) (st : State) : exec (.launch h desc) st = execLaunch h desc st := rfl
@[simp] theorem exec_preempt (h : CmdHead) (rcb : DWord) (st : State) : exec (.preempt h rcb) st = execPreempt h rcb st := rfl
@[simp] theorem exec_resume (h : CmdHead) (rcb : DWord) (st : State) : exec (.resume h rcb) st = execResume h rcb st := rfl
@[simp] theorem exec_pageMigrate (h : CmdHead) (va : DWord) (owner : Byte) (st : State) : exec (.pageMigrate h va owner) st = execPageMigrate h va owner st := rfl
@[simp] theorem exec_springBind (h : CmdHead) (image : DWord) (st : State) : exec (.springBind h image) st = execSpringBind h image st := rfl
@[simp] theorem exec_keyLoad (h : CmdHead) (slot : Byte) (keys : DWord) (st : State) : exec (.keyLoad h slot keys) st = execKeyLoad h slot keys st := rfl
@[simp] theorem exec_attest (h : CmdHead) (buf : DWord) (nonce : BitVec 256) (st : State) : exec (.attest h buf nonce) st = execAttest h buf nonce st := rfl
@[simp] theorem exec_errorQuery (h : CmdHead) (buf : DWord) (n : Word) (fdom : Byte) (st : State) : exec (.errorQuery h buf n fdom) st = execErrorQuery h buf n fdom st := rfl
@[simp] theorem exec_capacityMap (h : CmdHead) (buf : DWord) (st : State) : exec (.capacityMap h buf) st = execCapacityMap h buf st := rfl
@[simp] theorem exec_poisonClear (h : CmdHead) (page data : DWord) (key : Byte) (st : State) : exec (.poisonClear h page data key) st = execPoisonClear h page data key st := rfl
@[simp] theorem exec_ownershipHandover (ctx : Nat) (va : DWord) (link : LinkResult) (st : State) : exec (.ownershipHandover ctx va link) st = execOwnershipHandover ctx va link st := rfl
@[simp] theorem exec_handoverFromDevice (ctx : Nat) (va : DWord) (moveTo : Option Nat) (st : State) : exec (.handoverFromDevice ctx va moveTo) st = execHandoverFromDevice ctx va moveTo st := rfl
@[simp] theorem exec_spanCommit (g : Nat) (st : State) : exec (.spanCommit g) st = execSpanCommit g st := rfl
@[simp] theorem exec_twoPhaseCommit (g : Nat) (st : State) : exec (.twoPhaseCommit g) st = execTwoPhaseCommit g st := rfl
@[simp] theorem exec_favourGrant (st : State) : exec .favourGrant st = execFavourGrant st := rfl
@[simp] theorem exec_spanInstructionLimit (g : Nat) (st : State) : exec (.spanInstructionLimit g) st = execSpanInstructionLimit g st := rfl
@[simp] theorem exec_pathRotation (g slice : Nat) (st : State) : exec (.pathRotation g slice) st = execPathRotation g slice st := rfl
@[simp] theorem exec_meteringPeriod (reach : Nat) (st : State) : exec (.meteringPeriod reach) st = execMeteringPeriod reach st := rfl
@[simp] theorem exec_copyChunk (cmd : Nat) (st : State) : exec (.copyChunk cmd) st = execCopyChunk cmd st := rfl
@[simp] theorem exec_followOnOffer (cmd : Nat) (st : State) : exec (.followOnOffer cmd) st = execFollowOnOffer cmd st := rfl
@[simp] theorem exec_matrixAccept (core pos : Nat) (st : State) : exec (.matrixAccept core pos) st = execMatrixAccept core pos st := rfl
@[simp] theorem exec_matrixComplete (core pos : Nat) (st : State) : exec (.matrixComplete core pos) st = execMatrixComplete core pos st := rfl
@[simp] theorem exec_scaleEntryArrival (core entry : Nat) (st : State) : exec (.scaleEntryArrival core entry) st = execScaleEntryArrival core entry st := rfl
@[simp] theorem exec_rasterBinning (core : Nat) (st : State) : exec (.rasterBinning core) st = execRasterBinning core st := rfl
@[simp] theorem exec_fragmentGangLaunch (core : Nat) (st : State) : exec (.fragmentGangLaunch core) st = execFragmentGangLaunch core st := rfl
@[simp] theorem exec_fragmentBlend (core : Nat) (st : State) : exec (.fragmentBlend core) st = execFragmentBlend core st := rfl
@[simp] theorem exec_tileWriteBack (core : Nat) (st : State) : exec (.tileWriteBack core) st = execTileWriteBack core st := rfl
@[simp] theorem exec_cohortRetire (cohort : Nat) (st : State) : exec (.cohortRetire cohort) st = execCohortRetire cohort st := rfl
@[simp] theorem exec_cohortPlacement (st : State) : exec .cohortPlacement st = execCohortPlacement st := rfl
@[simp] theorem exec_growthStall (core : Nat) (st : State) : exec (.growthStall core) st = execGrowthStall core st := rfl
@[simp] theorem exec_thermalMigration (cohort : Nat) (st : State) : exec (.thermalMigration cohort) st = execThermalMigration cohort st := rfl
@[simp] theorem exec_preemption (cohort : Nat) (st : State) : exec (.preemption cohort) st = execPreemption cohort st := rfl
@[simp] theorem exec_cohortRestore (cohort basin : Nat) (st : State) : exec (.cohortRestore cohort basin) st = execCohortRestore cohort basin st := rfl
@[simp] theorem exec_admissionDecision (core : Nat) (st : State) : exec (.admissionDecision core) st = execAdmissionDecision core st := rfl
@[simp] theorem exec_gangAging (g : Nat) (st : State) : exec (.gangAging g) st = execGangAging g st := rfl
@[simp] theorem exec_protectionEnd (g : Nat) (st : State) : exec (.protectionEnd g) st = execProtectionEnd g st := rfl
@[simp] theorem exec_leaseMeasurementWindow (g : Nat) (st : State) : exec (.leaseMeasurementWindow g) st = execLeaseMeasurementWindow g st := rfl
@[simp] theorem exec_lostLocalityWindow (core : Nat) (st : State) : exec (.lostLocalityWindow core) st = execLostLocalityWindow core st := rfl
@[simp] theorem exec_clockCreditPeriod (core : Nat) (st : State) : exec (.clockCreditPeriod core) st = execClockCreditPeriod core st := rfl
@[simp] theorem exec_accWinGrant (core : Nat) (st : State) : exec (.accWinGrant core) st = execAccWinGrant core st := rfl
@[simp] theorem exec_regsGrowGrant (core part : Nat) (st : State) : exec (.regsGrowGrant core part) st = execRegsGrowGrant core part st := rfl
@[simp] theorem exec_asyncErrorDelivery (g : Nat) (st : State) : exec (.asyncErrorDelivery g) st = execAsyncErrorDelivery g st := rfl
@[simp] theorem exec_uncorrectableError (loc : ErrLoc) (st : State) : exec (.uncorrectableError loc) st = execUncorrectableError loc st := rfl
@[simp] theorem exec_correctedSoftError (count : Nat) (st : State) : exec (.correctedSoftError count) st = execCorrectedSoftError count st := rfl
@[simp] theorem exec_nop (st : State) : exec .nop st = execNop st := rfl
@[simp] theorem exec_iadd (d a b : Reg) (st : State) : exec (.iadd d a b) st = execIadd d a b st := rfl
@[simp] theorem exec_isub (d a b : Reg) (st : State) : exec (.isub d a b) st = execIsub d a b st := rfl
@[simp] theorem exec_imul (d a b : Reg) (st : State) : exec (.imul d a b) st = execImul d a b st := rfl
@[simp] theorem exec_imulhi (d a b : Reg) (st : State) : exec (.imulhi d a b) st = execImulhi d a b st := rfl
@[simp] theorem exec_imulhiu (d a b : Reg) (st : State) : exec (.imulhiu d a b) st = execImulhiu d a b st := rfl
@[simp] theorem exec_imin (d a b : Reg) (st : State) : exec (.imin d a b) st = execImin d a b st := rfl
@[simp] theorem exec_imax (d a b : Reg) (st : State) : exec (.imax d a b) st = execImax d a b st := rfl
@[simp] theorem exec_iminu (d a b : Reg) (st : State) : exec (.iminu d a b) st = execIminu d a b st := rfl
@[simp] theorem exec_imaxu (d a b : Reg) (st : State) : exec (.imaxu d a b) st = execImaxu d a b st := rfl
@[simp] theorem exec_iabs (d a : Reg) (st : State) : exec (.iabs d a) st = execIabs d a st := rfl
@[simp] theorem exec_iadds (d a b : Reg) (st : State) : exec (.iadds d a b) st = execIadds d a b st := rfl
@[simp] theorem exec_isubs (d a b : Reg) (st : State) : exec (.isubs d a b) st = execIsubs d a b st := rfl
@[simp] theorem exec_idivu (d a b : Reg) (st : State) : exec (.idivu d a b) st = execIdivu d a b st := rfl
@[simp] theorem exec_iremu (d a b : Reg) (st : State) : exec (.iremu d a b) st = execIremu d a b st := rfl
@[simp] theorem exec_imad (d a b : Reg) (st : State) : exec (.imad d a b) st = execImad d a b st := rfl
@[simp] theorem exec_idiv (d a b : Reg) (st : State) : exec (.idiv d a b) st = execIdiv d a b st := rfl
@[simp] theorem exec_irem (d a b : Reg) (st : State) : exec (.irem d a b) st = execIrem d a b st := rfl
@[simp] theorem exec_iaddsu (d a b : Reg) (st : State) : exec (.iaddsu d a b) st = execIaddsu d a b st := rfl
@[simp] theorem exec_isubsu (d a b : Reg) (st : State) : exec (.isubsu d a b) st = execIsubsu d a b st := rfl
@[simp] theorem exec_and (d a b : Reg) (st : State) : exec (.and d a b) st = execAnd d a b st := rfl
@[simp] theorem exec_or (d a b : Reg) (st : State) : exec (.or d a b) st = execOr d a b st := rfl
@[simp] theorem exec_xor (d a b : Reg) (st : State) : exec (.xor d a b) st = execXor d a b st := rfl
@[simp] theorem exec_andn (d a b : Reg) (st : State) : exec (.andn d a b) st = execAndn d a b st := rfl
@[simp] theorem exec_not (d a : Reg) (st : State) : exec (.not d a) st = execNot d a st := rfl
@[simp] theorem exec_shl (d a b : Reg) (st : State) : exec (.shl d a b) st = execShl d a b st := rfl
@[simp] theorem exec_shr (d a b : Reg) (st : State) : exec (.shr d a b) st = execShr d a b st := rfl
@[simp] theorem exec_sar (d a b : Reg) (st : State) : exec (.sar d a b) st = execSar d a b st := rfl
@[simp] theorem exec_rol (d a b : Reg) (st : State) : exec (.rol d a b) st = execRol d a b st := rfl
@[simp] theorem exec_popc (d a : Reg) (st : State) : exec (.popc d a) st = execPopc d a st := rfl
@[simp] theorem exec_clz (d a : Reg) (st : State) : exec (.clz d a) st = execClz d a st := rfl
@[simp] theorem exec_brev (d a : Reg) (st : State) : exec (.brev d a) st = execBrev d a st := rfl
@[simp] theorem exec_bfe (d a b : Reg) (st : State) : exec (.bfe d a b) st = execBfe d a b st := rfl
@[simp] theorem exec_bfes (d a b : Reg) (st : State) : exec (.bfes d a b) st = execBfes d a b st := rfl
@[simp] theorem exec_bfi (d a b : Reg) (st : State) : exec (.bfi d a b) st = execBfi d a b st := rfl
@[simp] theorem exec_iadd64 (d a b : Reg) (st : State) : exec (.iadd64 d a b) st = execIadd64 d a b st := rfl
@[simp] theorem exec_isub64 (d a b : Reg) (st : State) : exec (.isub64 d a b) st = execIsub64 d a b st := rfl
@[simp] theorem exec_imul64 (d a b : Reg) (st : State) : exec (.imul64 d a b) st = execImul64 d a b st := rfl
@[simp] theorem exec_shl64 (d a b : Reg) (st : State) : exec (.shl64 d a b) st = execShl64 d a b st := rfl
@[simp] theorem exec_shr64 (d a b : Reg) (st : State) : exec (.shr64 d a b) st = execShr64 d a b st := rfl
@[simp] theorem exec_sar64 (d a b : Reg) (st : State) : exec (.sar64 d a b) st = execSar64 d a b st := rfl
@[simp] theorem exec_imin64 (d a b : Reg) (st : State) : exec (.imin64 d a b) st = execImin64 d a b st := rfl
@[simp] theorem exec_imax64 (d a b : Reg) (st : State) : exec (.imax64 d a b) st = execImax64 d a b st := rfl
@[simp] theorem exec_iminu64 (d a b : Reg) (st : State) : exec (.iminu64 d a b) st = execIminu64 d a b st := rfl
@[simp] theorem exec_imaxu64 (d a b : Reg) (st : State) : exec (.imaxu64 d a b) st = execImaxu64 d a b st := rfl
@[simp] theorem exec_imulw (d a b : Reg) (st : State) : exec (.imulw d a b) st = execImulw d a b st := rfl
@[simp] theorem exec_imulwu (d a b : Reg) (st : State) : exec (.imulwu d a b) st = execImulwu d a b st := rfl
@[simp] theorem exec_cmpeq (d a b : Reg) (st : State) : exec (.cmpeq d a b) st = execCmpeq d a b st := rfl
@[simp] theorem exec_cmpne (d a b : Reg) (st : State) : exec (.cmpne d a b) st = execCmpne d a b st := rfl
@[simp] theorem exec_cmplt (d a b : Reg) (st : State) : exec (.cmplt d a b) st = execCmplt d a b st := rfl
@[simp] theorem exec_cmple (d a b : Reg) (st : State) : exec (.cmple d a b) st = execCmple d a b st := rfl
@[simp] theorem exec_cmpltu (d a b : Reg) (st : State) : exec (.cmpltu d a b) st = execCmpltu d a b st := rfl
@[simp] theorem exec_cmpleu (d a b : Reg) (st : State) : exec (.cmpleu d a b) st = execCmpleu d a b st := rfl
@[simp] theorem exec_cmpeq64 (d a b : Reg) (st : State) : exec (.cmpeq64 d a b) st = execCmpeq64 d a b st := rfl
@[simp] theorem exec_cmplt64 (d a b : Reg) (st : State) : exec (.cmplt64 d a b) st = execCmplt64 d a b st := rfl
@[simp] theorem exec_cmpltu64 (d a b : Reg) (st : State) : exec (.cmpltu64 d a b) st = execCmpltu64 d a b st := rfl
@[simp] theorem exec_cmple64 (d a b : Reg) (st : State) : exec (.cmple64 d a b) st = execCmple64 d a b st := rfl
@[simp] theorem exec_cmpleu64 (d a b : Reg) (st : State) : exec (.cmpleu64 d a b) st = execCmpleu64 d a b st := rfl
@[simp] theorem exec_fcmpeq (d a b : Reg) (st : State) : exec (.fcmpeq d a b) st = execFcmpeq d a b st := rfl
@[simp] theorem exec_fcmpne (d a b : Reg) (st : State) : exec (.fcmpne d a b) st = execFcmpne d a b st := rfl
@[simp] theorem exec_fcmplt (d a b : Reg) (st : State) : exec (.fcmplt d a b) st = execFcmplt d a b st := rfl
@[simp] theorem exec_fcmple (d a b : Reg) (st : State) : exec (.fcmple d a b) st = execFcmple d a b st := rfl
@[simp] theorem exec_fcmpun (d a b : Reg) (st : State) : exec (.fcmpun d a b) st = execFcmpun d a b st := rfl
@[simp] theorem exec_dcmpeq (d a b : Reg) (st : State) : exec (.dcmpeq d a b) st = execDcmpeq d a b st := rfl
@[simp] theorem exec_dcmpne (d a b : Reg) (st : State) : exec (.dcmpne d a b) st = execDcmpne d a b st := rfl
@[simp] theorem exec_dcmplt (d a b : Reg) (st : State) : exec (.dcmplt d a b) st = execDcmplt d a b st := rfl
@[simp] theorem exec_dcmple (d a b : Reg) (st : State) : exec (.dcmple d a b) st = execDcmple d a b st := rfl
@[simp] theorem exec_dcmpun (d a b : Reg) (st : State) : exec (.dcmpun d a b) st = execDcmpun d a b st := rfl
@[simp] theorem exec_mov (d a : Reg) (st : State) : exec (.mov d a) st = execMov d a st := rfl
@[simp] theorem exec_sel (d a b : Reg) (st : State) : exec (.sel d a b) st = execSel d a b st := rfl
@[simp] theorem exec_rdind (d a : Reg) (st : State) : exec (.rdind d a) st = execRdind d a st := rfl
@[simp] theorem exec_wrind (a b : Reg) (st : State) : exec (.wrind a b) st = execWrind a b st := rfl
@[simp] theorem exec_mov64 (d a : Reg) (st : State) : exec (.mov64 d a) st = execMov64 d a st := rfl
@[simp] theorem exec_shflIdx (d a b : Reg) (st : State) : exec (.shflIdx d a b) st = execShflIdx d a b st := rfl
@[simp] theorem exec_shflUp (d a b : Reg) (st : State) : exec (.shflUp d a b) st = execShflUp d a b st := rfl
@[simp] theorem exec_shflDown (d a b : Reg) (st : State) : exec (.shflDown d a b) st = execShflDown d a b st := rfl
@[simp] theorem exec_shflXor (d a b : Reg) (st : State) : exec (.shflXor d a b) st = execShflXor d a b st := rfl
@[simp] theorem exec_voteBallot (d a : Reg) (st : State) : exec (.voteBallot d a) st = execVoteBallot d a st := rfl
@[simp] theorem exec_voteAny (d a : Reg) (st : State) : exec (.voteAny d a) st = execVoteAny d a st := rfl
@[simp] theorem exec_voteAll (d a : Reg) (st : State) : exec (.voteAll d a) st = execVoteAll d a st := rfl
@[simp] theorem exec_elect (d : Reg) (st : State) : exec (.elect d) st = execElect d st := rfl
@[simp] theorem exec_redadd (d a : Reg) (st : State) : exec (.redadd d a) st = execRedadd d a st := rfl
@[simp] theorem exec_redmin (d a : Reg) (st : State) : exec (.redmin d a) st = execRedmin d a st := rfl
@[simp] theorem exec_redmax (d a : Reg) (st : State) : exec (.redmax d a) st = execRedmax d a st := rfl
@[simp] theorem exec_redminu (d a : Reg) (st : State) : exec (.redminu d a) st = execRedminu d a st := rfl
@[simp] theorem exec_redmaxu (d a : Reg) (st : State) : exec (.redmaxu d a) st = execRedmaxu d a st := rfl
@[simp] theorem exec_redand (d a : Reg) (st : State) : exec (.redand d a) st = execRedand d a st := rfl
@[simp] theorem exec_redor (d a : Reg) (st : State) : exec (.redor d a) st = execRedor d a st := rfl
@[simp] theorem exec_redxor (d a : Reg) (st : State) : exec (.redxor d a) st = execRedxor d a st := rfl
@[simp] theorem exec_scanadd (d a : Reg) (st : State) : exec (.scanadd d a) st = execScanadd d a st := rfl
@[simp] theorem exec_fredadd (d a : Reg) (rnd : RMod) (st : State) : exec (.fredadd d a rnd) st = execFredadd d a rnd st := rfl
@[simp] theorem exec_fredmin (d a : Reg) (rnd : RMod) (st : State) : exec (.fredmin d a rnd) st = execFredmin d a rnd st := rfl
@[simp] theorem exec_fredmax (d a : Reg) (rnd : RMod) (st : State) : exec (.fredmax d a rnd) st = execFredmax d a rnd st := rfl
@[simp] theorem exec_iaddi (d a : Reg) (imm : BitVec 11) (st : State) : exec (.iaddi d a imm) st = execIaddi d a imm st := rfl
@[simp] theorem exec_andi (d a : Reg) (imm : BitVec 11) (st : State) : exec (.andi d a imm) st = execAndi d a imm st := rfl
@[simp] theorem exec_ori (d a : Reg) (imm : BitVec 11) (st : State) : exec (.ori d a imm) st = execOri d a imm st := rfl
@[simp] theorem exec_xori (d a : Reg) (imm : BitVec 11) (st : State) : exec (.xori d a imm) st = execXori d a imm st := rfl
@[simp] theorem exec_shli (d a : Reg) (imm : BitVec 5) (st : State) : exec (.shli d a imm) st = execShli d a imm st := rfl
@[simp] theorem exec_cmpeqi (d a : Reg) (imm : BitVec 11) (st : State) : exec (.cmpeqi d a imm) st = execCmpeqi d a imm st := rfl
@[simp] theorem exec_imuli (d a : Reg) (imm : BitVec 11) (st : State) : exec (.imuli d a imm) st = execImuli d a imm st := rfl
@[simp] theorem exec_movi (d : Reg) (imm : BitVec 18) (st : State) : exec (.movi d imm) st = execMovi d imm st := rfl
@[simp] theorem exec_movh (d : Reg) (imm : BitVec 18) (st : State) : exec (.movh d imm) st = execMovh d imm st := rfl
@[simp] theorem exec_movpc (d : Reg) (imm : BitVec 18) (st : State) : exec (.movpc d imm) st = execMovpc d imm st := rfl
@[simp] theorem exec_fadd (d a b : Reg) (st : State) : exec (.fadd d a b) st = execFadd d a b st := rfl
@[simp] theorem exec_fsub (d a b : Reg) (st : State) : exec (.fsub d a b) st = execFsub d a b st := rfl
@[simp] theorem exec_fmul (d a b : Reg) (st : State) : exec (.fmul d a b) st = execFmul d a b st := rfl
@[simp] theorem exec_ffma (d a b : Reg) (st : State) : exec (.ffma d a b) st = execFfma d a b st := rfl
@[simp] theorem exec_fnma (d a b : Reg) (st : State) : exec (.fnma d a b) st = execFnma d a b st := rfl
@[simp] theorem exec_fdiv (d a b : Reg) (st : State) : exec (.fdiv d a b) st = execFdiv d a b st := rfl
@[simp] theorem exec_fsqrt (d a : Reg) (st : State) : exec (.fsqrt d a) st = execFsqrt d a st := rfl
@[simp] theorem exec_fmin (d a b : Reg) (st : State) : exec (.fmin d a b) st = execFmin d a b st := rfl
@[simp] theorem exec_fmax (d a b : Reg) (st : State) : exec (.fmax d a b) st = execFmax d a b st := rfl
@[simp] theorem exec_fabs (d a : Reg) (st : State) : exec (.fabs d a) st = execFabs d a st := rfl
@[simp] theorem exec_fneg (d a : Reg) (st : State) : exec (.fneg d a) st = execFneg d a st := rfl
@[simp] theorem exec_frnd (d a : Reg) (st : State) : exec (.frnd d a) st = execFrnd d a st := rfl
@[simp] theorem exec_fclass (d a : Reg) (st : State) : exec (.fclass d a) st = execFclass d a st := rfl
@[simp] theorem exec_fscale (d a b : Reg) (st : State) : exec (.fscale d a b) st = execFscale d a b st := rfl
@[simp] theorem exec_fcopysign (d a b : Reg) (st : State) : exec (.fcopysign d a b) st = execFcopysign d a b st := rfl
@[simp] theorem exec_fminnum (d a b : Reg) (st : State) : exec (.fminnum d a b) st = execFminnum d a b st := rfl
@[simp] theorem exec_fmaxnum (d a b : Reg) (st : State) : exec (.fmaxnum d a b) st = execFmaxnum d a b st := rfl
@[simp] theorem exec_dadd (d a b : Reg) (st : State) : exec (.dadd d a b) st = execDadd d a b st := rfl
@[simp] theorem exec_dsub (d a b : Reg) (st : State) : exec (.dsub d a b) st = execDsub d a b st := rfl
@[simp] theorem exec_dmul (d a b : Reg) (st : State) : exec (.dmul d a b) st = execDmul d a b st := rfl
@[simp] theorem exec_dfma (d a b : Reg) (st : State) : exec (.dfma d a b) st = execDfma d a b st := rfl
@[simp] theorem exec_dnma (d a b : Reg) (st : State) : exec (.dnma d a b) st = execDnma d a b st := rfl
@[simp] theorem exec_ddiv (d a b : Reg) (st : State) : exec (.ddiv d a b) st = execDdiv d a b st := rfl
@[simp] theorem exec_dsqrt (d a : Reg) (st : State) : exec (.dsqrt d a) st = execDsqrt d a st := rfl
@[simp] theorem exec_dmin (d a b : Reg) (st : State) : exec (.dmin d a b) st = execDmin d a b st := rfl
@[simp] theorem exec_dmax (d a b : Reg) (st : State) : exec (.dmax d a b) st = execDmax d a b st := rfl
@[simp] theorem exec_dabs (d a : Reg) (st : State) : exec (.dabs d a) st = execDabs d a st := rfl
@[simp] theorem exec_dneg (d a : Reg) (st : State) : exec (.dneg d a) st = execDneg d a st := rfl
@[simp] theorem exec_drnd (d a : Reg) (st : State) : exec (.drnd d a) st = execDrnd d a st := rfl
@[simp] theorem exec_dclass (d a : Reg) (st : State) : exec (.dclass d a) st = execDclass d a st := rfl
@[simp] theorem exec_dscale (d a b : Reg) (st : State) : exec (.dscale d a b) st = execDscale d a b st := rfl
@[simp] theorem exec_dcopysign (d a b : Reg) (st : State) : exec (.dcopysign d a b) st = execDcopysign d a b st := rfl
@[simp] theorem exec_dminnum (d a b : Reg) (st : State) : exec (.dminnum d a b) st = execDminnum d a b st := rfl
@[simp] theorem exec_dmaxnum (d a b : Reg) (st : State) : exec (.dmaxnum d a b) st = execDmaxnum d a b st := rfl
@[simp] theorem exec_hadd2 (d a b : Reg) (st : State) : exec (.hadd2 d a b) st = execHadd2 d a b st := rfl
@[simp] theorem exec_hsub2 (d a b : Reg) (st : State) : exec (.hsub2 d a b) st = execHsub2 d a b st := rfl
@[simp] theorem exec_hmul2 (d a b : Reg) (st : State) : exec (.hmul2 d a b) st = execHmul2 d a b st := rfl
@[simp] theorem exec_hfma2 (d a b : Reg) (st : State) : exec (.hfma2 d a b) st = execHfma2 d a b st := rfl
@[simp] theorem exec_hmin2 (d a b : Reg) (st : State) : exec (.hmin2 d a b) st = execHmin2 d a b st := rfl
@[simp] theorem exec_hmax2 (d a b : Reg) (st : State) : exec (.hmax2 d a b) st = execHmax2 d a b st := rfl
@[simp] theorem exec_badd2 (d a b : Reg) (st : State) : exec (.badd2 d a b) st = execBadd2 d a b st := rfl
@[simp] theorem exec_bsub2 (d a b : Reg) (st : State) : exec (.bsub2 d a b) st = execBsub2 d a b st := rfl
@[simp] theorem exec_bmul2 (d a b : Reg) (st : State) : exec (.bmul2 d a b) st = execBmul2 d a b st := rfl
@[simp] theorem exec_bfma2 (d a b : Reg) (st : State) : exec (.bfma2 d a b) st = execBfma2 d a b st := rfl
@[simp] theorem exec_bmin2 (d a b : Reg) (st : State) : exec (.bmin2 d a b) st = execBmin2 d a b st := rfl
@[simp] theorem exec_bmax2 (d a b : Reg) (st : State) : exec (.bmax2 d a b) st = execBmax2 d a b st := rfl
@[simp] theorem exec_hdot2f (d a b : Reg) (rnd : RMod) (st : State) : exec (.hdot2f d a b rnd) st = execHdot2f d a b rnd st := rfl
@[simp] theorem exec_bdot2f (d a b : Reg) (rnd : RMod) (st : State) : exec (.bdot2f d a b rnd) st = execBdot2f d a b rnd st := rfl
@[simp] theorem exec_frcp (d a : Reg) (st : State) : exec (.frcp d a) st = execFrcp d a st := rfl
@[simp] theorem exec_frsqrt (d a : Reg) (st : State) : exec (.frsqrt d a) st = execFrsqrt d a st := rfl
@[simp] theorem exec_fexp2 (d a : Reg) (st : State) : exec (.fexp2 d a) st = execFexp2 d a st := rfl
@[simp] theorem exec_flog2 (d a : Reg) (st : State) : exec (.flog2 d a) st = execFlog2 d a st := rfl
@[simp] theorem exec_fsinpi (d a : Reg) (st : State) : exec (.fsinpi d a) st = execFsinpi d a st := rfl
@[simp] theorem exec_fcospi (d a : Reg) (st : State) : exec (.fcospi d a) st = execFcospi d a st := rfl
@[simp] theorem exec_frcpA (d a : Reg) (st : State) : exec (.frcpA d a) st = execFrcpA d a st := rfl
@[simp] theorem exec_frsqrtA (d a : Reg) (st : State) : exec (.frsqrtA d a) st = execFrsqrtA d a st := rfl
@[simp] theorem exec_fexp2A (d a : Reg) (st : State) : exec (.fexp2A d a) st = execFexp2A d a st := rfl
@[simp] theorem exec_flog2A (d a : Reg) (st : State) : exec (.flog2A d a) st = execFlog2A d a st := rfl
@[simp] theorem exec_fsinA (d a : Reg) (st : State) : exec (.fsinA d a) st = execFsinA d a st := rfl
@[simp] theorem exec_fcosA (d a : Reg) (st : State) : exec (.fcosA d a) st = execFcosA d a st := rfl
@[simp] theorem exec_ftanhA (d a : Reg) (st : State) : exec (.ftanhA d a) st = execFtanhA d a st := rfl
@[simp] theorem exec_f2d (d a : Reg) (st : State) : exec (.f2d d a) st = execF2d d a st := rfl
@[simp] theorem exec_d2f (d a : Reg) (st : State) : exec (.d2f d a) st = execD2f d a st := rfl
@[simp] theorem exec_f2h (d a b : Reg) (st : State) : exec (.f2h d a b) st = execF2h d a b st := rfl
@[simp] theorem exec_h2f (d a : Reg) (st : State) : exec (.h2f d a) st = execH2f d a st := rfl
@[simp] theorem exec_f2bf (d a b : Reg) (st : State) : exec (.f2bf d a b) st = execF2bf d a b st := rfl
@[simp] theorem exec_bf2f (d a : Reg) (st : State) : exec (.bf2f d a) st = execBf2f d a st := rfl
@[simp] theorem exec_f2e4 (d a b : Reg) (st : State) : exec (.f2e4 d a b) st = execF2e4 d a b st := rfl
@[simp] theorem exec_f2e5 (d a b : Reg) (st : State) : exec (.f2e5 d a b) st = execF2e5 d a b st := rfl
@[simp] theorem exec_e42f (d a : Reg) (st : State) : exec (.e42f d a) st = execE42f d a st := rfl
@[simp] theorem exec_e52f (d a : Reg) (st : State) : exec (.e52f d a) st = execE52f d a st := rfl
@[simp] theorem exec_f2i (d a : Reg) (st : State) : exec (.f2i d a) st = execF2i d a st := rfl
@[simp] theorem exec_f2u (d a : Reg) (st : State) : exec (.f2u d a) st = execF2u d a st := rfl
@[simp] theorem exec_i2f (d a : Reg) (st : State) : exec (.i2f d a) st = execI2f d a st := rfl
@[simp] theorem exec_u2f (d a : Reg) (st : State) : exec (.u2f d a) st = execU2f d a st := rfl
@[simp] theorem exec_d2i (d a : Reg) (rnd : RMod) (st : State) : exec (.d2i d a rnd) st = execD2i d a rnd st := rfl
@[simp] theorem exec_d2u (d a : Reg) (rnd : RMod) (st : State) : exec (.d2u d a rnd) st = execD2u d a rnd st := rfl
@[simp] theorem exec_i2d (d a : Reg) (st : State) : exec (.i2d d a) st = execI2d d a st := rfl
@[simp] theorem exec_u2d (d a : Reg) (st : State) : exec (.u2d d a) st = execU2d d a st := rfl
@[simp] theorem exec_f2l (d a : Reg) (rnd : RMod) (st : State) : exec (.f2l d a rnd) st = execF2l d a rnd st := rfl
@[simp] theorem exec_f2ul (d a : Reg) (rnd : RMod) (st : State) : exec (.f2ul d a rnd) st = execF2ul d a rnd st := rfl
@[simp] theorem exec_l2f (d a : Reg) (rnd : RMod) (st : State) : exec (.l2f d a rnd) st = execL2f d a rnd st := rfl
@[simp] theorem exec_ul2f (d a : Reg) (rnd : RMod) (st : State) : exec (.ul2f d a rnd) st = execUl2f d a rnd st := rfl
@[simp] theorem exec_d2l (d a : Reg) (rnd : RMod) (st : State) : exec (.d2l d a rnd) st = execD2l d a rnd st := rfl
@[simp] theorem exec_d2ul (d a : Reg) (rnd : RMod) (st : State) : exec (.d2ul d a rnd) st = execD2ul d a rnd st := rfl
@[simp] theorem exec_l2d (d a : Reg) (rnd : RMod) (st : State) : exec (.l2d d a rnd) st = execL2d d a rnd st := rfl
@[simp] theorem exec_ul2d (d a : Reg) (rnd : RMod) (st : State) : exec (.ul2d d a rnd) st = execUl2d d a rnd st := rfl
@[simp] theorem exec_fpExtendedRoundingForm (maj : FpMajor) (op : BitVec 4) (d a b : Reg) (rnd : RMod) (fl : BitVec 2) (st : State) : exec (.fpExtendedRoundingForm maj op d a b rnd fl) st = execFpExtendedRoundingForm maj op d a b rnd fl st := rfl
@[simp] theorem exec_aaddf (d a b : Reg) (st : State) : exec (.aaddf d a b) st = execAaddf d a b st := rfl
@[simp] theorem exec_aaddd (d a b : Reg) (st : State) : exec (.aaddd d a b) st = execAaddd d a b st := rfl
@[simp] theorem exec_aaddh (d a b : Reg) (st : State) : exec (.aaddh d a b) st = execAaddh d a b st := rfl
@[simp] theorem exec_aaddbf (d a b : Reg) (st : State) : exec (.aaddbf d a b) st = execAaddbf d a b st := rfl
@[simp] theorem exec_aaddq (d a : Reg) (st : State) : exec (.aaddq d a) st = execAaddq d a st := rfl
@[simp] theorem exec_ared (d a : Reg) (st : State) : exec (.ared d a) st = execAred d a st := rfl
@[simp] theorem exec_acvtf (d a b : Reg) (st : State) : exec (.acvtf d a b) st = execAcvtf d a b st := rfl
@[simp] theorem exec_acvtd (d a b : Reg) (st : State) : exec (.acvtd d a b) st = execAcvtd d a b st := rfl
@[simp] theorem exec_bra (off : BitVec 18) (st : State) : exec (.bra off) st = execBra off st := rfl
@[simp] theorem exec_brm (r : Reg) (off : BitVec 18) (st : State) : exec (.brm r off) st = execBrm r off st := rfl
@[simp] theorem exec_call (r : Reg) (off : BitVec 18) (st : State) : exec (.call r off) st = execCall r off st := rfl
@[simp] theorem exec_join (st : State) : exec .join st = execJoin st := rfl
@[simp] theorem exec_regang (st : State) : exec .regang st = execRegang st := rfl
@[simp] theorem exec_regangWg (st : State) : exec .regangWg st = execRegangWg st := rfl
@[simp] theorem exec_ret (a : Reg) (st : State) : exec (.ret a) st = execRet a st := rfl
@[simp] theorem exec_jmpi (a : Reg) (st : State) : exec (.jmpi a) st = execJmpi a st := rfl
@[simp] theorem exec_exit (st : State) : exec .exit st = execExit st := rfl
@[simp] theorem exec_yield (st : State) : exec .yield st = execYield st := rfl
@[simp] theorem exec_trap (n : BitVec 14) (st : State) : exec (.trap n) st = execTrap n st := rfl
@[simp] theorem exec_brk (n : BitVec 14) (st : State) : exec (.brk n) st = execBrk n st := rfl
@[simp] theorem exec_rtt (st : State) : exec .rtt st = execRtt st := rfl
@[simp] theorem exec_sysrd (d : Reg) (csr : BitVec 12) (st : State) : exec (.sysrd d csr) st = execSysrd d csr st := rfl
@[simp] theorem exec_sysrdCyclelo (d : Reg) (st : State) : exec (.sysrdCyclelo d) st = execSysrdCyclelo d st := rfl
@[simp] theorem exec_syswr (d : Reg) (csr : BitVec 12) (st : State) : exec (.syswr d csr) st = execSyswr d csr st := rfl
@[simp] theorem exec_syswrFpflags (d : Reg) (st : State) : exec (.syswrFpflags d) st = execSyswrFpflags d st := rfl
@[simp] theorem exec_syswrGangctl (d : Reg) (st : State) : exec (.syswrGangctl d) st = execSyswrGangctl d st := rfl
@[simp] theorem exec_fenceAcq (scope : Scope) (st : State) : exec (.fenceAcq scope) st = execFenceAcq scope st := rfl
@[simp] theorem exec_fenceRel (scope : Scope) (st : State) : exec (.fenceRel scope) st = execFenceRel scope st := rfl
@[simp] theorem exec_fenceSc (scope : Scope) (st : State) : exec (.fenceSc scope) st = execFenceSc scope st := rfl
@[simp] theorem exec_spanOpen (d : Reg) (st : State) : exec (.spanOpen d) st = execSpanOpen d st := rfl
@[simp] theorem exec_spanClose (st : State) : exec .spanClose st = execSpanClose st := rfl
@[simp] theorem exec_leaseSet (d : Reg) (mode : LeaseMode) (st : State) : exec (.leaseSet d mode) st = execLeaseSet d mode st := rfl
@[simp] theorem exec_leaseGet (d : Reg) (st : State) : exec (.leaseGet d) st = execLeaseGet d st := rfl
@[simp] theorem exec_regsGrow (d : Reg) (st : State) : exec (.regsGrow d) st = execRegsGrow d st := rfl
@[simp] theorem exec_regsShrink (d : Reg) (st : State) : exec (.regsShrink d) st = execRegsShrink d st := rfl
@[simp] theorem exec_gridLaunch (d s : Reg) (st : State) : exec (.gridLaunch d s) st = execGridLaunch d s st := rfl
@[simp] theorem exec_ld (m : MemOp) (st : State) : exec (.ld m) st = execLd m st := rfl
@[simp] theorem exec_lds (m : MemOp) (st : State) : exec (.lds m) st = execLds m st := rfl
@[simp] theorem exec_st (m : MemOp) (st : State) : exec (.st m) st = execSt m st := rfl
@[simp] theorem exec_stq (m : MemOp) (st : State) : exec (.stq m) st = execStq m st := rfl
@[simp] theorem exec_ldByp (m : MemOp) (st : State) : exec (.ldByp m) st = execLdByp m st := rfl
@[simp] theorem exec_ldAcq (scope : Scope) (m : MemOp) (st : State) : exec (.ldAcq scope m) st = execLdAcq scope m st := rfl
@[simp] theorem exec_stRel (scope : Scope) (m : MemOp) (st : State) : exec (.stRel scope m) st = execStRel scope m st := rfl
@[simp] theorem exec_atom (x : AtomArgs) (st : State) : exec (.atom x) st = execAtom x st := rfl
@[simp] theorem exec_ldl (m : MemOp) (st : State) : exec (.ldl m) st = execLdl m st := rfl
@[simp] theorem exec_stl (m : MemOp) (st : State) : exec (.stl m) st = execStl m st := rfl
@[simp] theorem exec_atoml (x : AtomArgs) (st : State) : exec (.atoml x) st = execAtoml x st := rfl
@[simp] theorem exec_prefL1 (m : MemOp) (st : State) : exec (.prefL1 m) st = execPrefL1 m st := rfl
@[simp] theorem exec_prefLlc (m : MemOp) (st : State) : exec (.prefLlc m) st = execPrefLlc m st := rfl
@[simp] theorem exec_surfLd (d a b : Reg) (st : State) : exec (.surfLd d a b) st = execSurfLd d a b st := rfl
@[simp] theorem exec_surfSt (d a b : Reg) (st : State) : exec (.surfSt d a b) st = execSurfSt d a b st := rfl
@[simp] theorem exec_surfStc (d a b : Reg) (st : State) : exec (.surfStc d a b) st = execSurfStc d a b st := rfl
@[simp] theorem exec_surfMv (d a b : Reg) (st : State) : exec (.surfMv d a b) st = execSurfMv d a b st := rfl
@[simp] theorem exec_tex (d a b : Reg) (st : State) : exec (.tex d a b) st = execTex d a b st := rfl
@[simp] theorem exec_rastKick (d a : Reg) (st : State) : exec (.rastKick d a) st = execRastKick d a st := rfl
@[simp] theorem exec_fgrid (d a b : Reg) (st : State) : exec (.fgrid d a b) st = execFgrid d a b st := rfl
@[simp] theorem exec_fgrid2d (d a b : Reg) (st : State) : exec (.fgrid2d d a b) st = execFgrid2d d a b st := rfl
@[simp] theorem exec_unpack (d a b : Reg) (st : State) : exec (.unpack d a b) st = execUnpack d a b st := rfl
@[simp] theorem exec_pack (d a b : Reg) (st : State) : exec (.pack d a b) st = execPack d a b st := rfl
@[simp] theorem exec_mma (la func : BitVec 4) (a b : Reg) (flags : BitVec 3) (st : State) : exec (.mma la func a b flags) st = execMma la func a b flags st := rfl
@[simp] theorem exec_mmaB (la func : BitVec 4) (a b : Reg) (flags : BitVec 3) (st : State) : exec (.mmaB la func a b flags) st = execMmaB la func a b flags st := rfl
@[simp] theorem exec_accWin (la : BitVec 4) (a : Reg) (st : State) : exec (.accWin la a) st = execAccWin la a st := rfl
@[simp] theorem exec_accZero (la : BitVec 4) (b : Reg) (st : State) : exec (.accZero la b) st = execAccZero la b st := rfl
@[simp] theorem exec_accLd (la : BitVec 4) (a b : Reg) (st : State) : exec (.accLd la a b) st = execAccLd la a b st := rfl
@[simp] theorem exec_accSt (la : BitVec 4) (a b : Reg) (st : State) : exec (.accSt la a b) st = execAccSt la a b st := rfl
@[simp] theorem exec_accTolm (la : BitVec 4) (a b : Reg) (st : State) : exec (.accTolm la a b) st = execAccTolm la a b st := rfl
@[simp] theorem exec_accFromlm (la : BitVec 4) (a b : Reg) (st : State) : exec (.accFromlm la a b) st = execAccFromlm la a b st := rfl
@[simp] theorem exec_accCvt (la : BitVec 4) (fmt : BitVec 2) (a b : Reg) (st : State) : exec (.accCvt la fmt a b) st = execAccCvt la fmt a b st := rfl
@[simp] theorem exec_scacc (la : BitVec 4) (zp : Bool) (a b : Reg) (st : State) : exec (.scacc la zp a b) st = execScacc la zp a b st := rfl
@[simp] theorem exec_tscaleBind (la : BitVec 4) (a b : Reg) (st : State) : exec (.tscaleBind la a b) st = execTscaleBind la a b st := rfl
@[simp] theorem exec_wbufLd (la : BitVec 4) (a b : Reg) (st : State) : exec (.wbufLd la a b) st = execWbufLd la a b st := rfl
@[simp] theorem exec_wbufLdsp (la : BitVec 4) (a b : Reg) (st : State) : exec (.wbufLdsp la a b) st = execWbufLdsp la a b st := rfl
@[simp] theorem exec_cpyKick (a b : Reg) (st : State) : exec (.cpyKick a b) st = execCpyKick a b st := rfl
@[simp] theorem exec_cpyStat (done : Bool) (b a : Reg) (st : State) : exec (.cpyStat done b a) st = execCpyStat done b a st := rfl
@[simp] theorem exec_barInit (bar : BarName) (b : Reg) (st : State) : exec (.barInit bar b) st = execBarInit bar b st := rfl
@[simp] theorem exec_barExpect (bar : BarName) (b : Reg) (st : State) : exec (.barExpect bar b) st = execBarExpect bar b st := rfl
@[simp] theorem exec_barArrive (bar : BarName) (st : State) : exec (.barArrive bar) st = execBarArrive bar st := rfl
@[simp] theorem exec_barWait (bar : BarName) (st : State) : exec (.barWait bar) st = execBarWait bar st := rfl
@[simp] theorem exec_barTest (b : Reg) (bar : BarName) (st : State) : exec (.barTest b bar) st = execBarTest b bar st := rfl
@[simp] theorem exec_spring (s : BitVec 6) (d a b : Reg) (st : State) : exec (.spring s d a b) st = execSpring s d a b st := rfl
@[simp] theorem exec_hostCxlMemAccess (agent : Byte) (pa : Nat) (wr : Option (List Byte)) (len : Nat) (st : State) : exec (.hostCxlMemAccess agent pa wr len) st = execHostCxlMemAccess agent pa wr len st := rfl
@[simp] theorem exec_partnerSnoop (pa : Nat) (st : State) : exec (.partnerSnoop pa) st = execPartnerSnoop pa st := rfl
@[simp] theorem exec_flitRetry (port : Nat) (flit : Nat) (st : State) : exec (.flitRetry port flit) st = execFlitRetry port flit st := rfl

end Sys2Proof.Machine
end

