-- ==== Sys2Proof/Laws/Store.lean ====
section
/-! SUPPORT. Laws of the sparse stores and of physical memory: a read after a write, and the canonical form that every write
keeps. -/

set_option Elab.async false

namespace Sys2Proof.Machine

/-! ## Sparse stores -/

@[simp] theorem getK_setK_self {α : Type} (k : Nat) (v : α) (l : List (Nat × α)) : getK k (setK k v l) = some v := by
  induction l with
  | nil => simp [setK, getK]
  | cons p r ih =>
    obtain ⟨k', v'⟩ := p
    simp only [setK]
    split
    · simp [getK]
    · split
      · simp [getK]
      · rename_i h; simp [getK, h, ih]

theorem getK_setK_ne {α : Type} {j k : Nat} (h : j ≠ k) (v : α) (l : List (Nat × α)) : getK j (setK k v l) = getK j l := by
  induction l with
  | nil => simp [setK, getK, Ne.symm h]
  | cons p r ih =>
    obtain ⟨k', v'⟩ := p
    simp only [setK]
    split
    · simp [getK, Ne.symm h]
    · split
      · rename_i e; subst e; simp [getK, Ne.symm h]
      · simp [getK, ih]

@[simp] theorem getK_delK_self {α : Type} (k : Nat) (l : List (Nat × α)) : getK k (delK k l) = none := by
  induction l with
  | nil => rfl
  | cons p r ih =>
    obtain ⟨k', v'⟩ := p
    simp only [delK]
    split
    · exact ih
    · rename_i h; simp [getK, h, ih]

theorem getK_delK_ne {α : Type} {j k : Nat} (h : j ≠ k) (l : List (Nat × α)) : getK j (delK k l) = getK j l := by
  induction l with
  | nil => rfl
  | cons p r ih =>
    obtain ⟨k', v'⟩ := p
    simp only [delK]
    split
    · rename_i e; subst e; simp [getK, Ne.symm h, ih]
    · simp [getK, ih]

@[simp] theorem readK_putK_self {α : Type} [DecidableEq α] (d : α) (k : Nat) (v : α) (l : List (Nat × α)) :
    readK d k (putK d k v l) = v := by
  unfold readK putK
  split
  · rename_i h; simp [h]
  · simp

theorem readK_putK_ne {α : Type} [DecidableEq α] {j k : Nat} (h : j ≠ k) (d v : α) (l : List (Nat × α)) :
    readK d j (putK d k v l) = readK d j l := by
  unfold readK putK
  split
  · rw [getK_delK_ne h]
  · rw [getK_setK_ne h]

theorem readK_putK {α : Type} [DecidableEq α] (d : α) (j k : Nat) (v : α) (l : List (Nat × α)) :
    readK d j (putK d k v l) = if j = k then v else readK d j l := by
  split
  · rename_i h; subst h; simp
  · rename_i h; exact readK_putK_ne h d v l

/-! ## The canonical form of memory -/

/-- Every address listed lies above a bound. -/
def Above (a : Nat) (m : List Host.Cell) : Prop := ∀ c ∈ m, a < c.1

theorem wf_cons (a : Nat) (b : Byte) (m : List Host.Cell) :
    Memory.wf ((a, b) :: m) = true ↔ b ≠ unwritten ∧ Above a m ∧ Memory.wf m = true := by
  induction m generalizing a b with
  | nil => simp [Memory.wf, Above]
  | cons c r ih =>
    obtain ⟨a', b'⟩ := c
    have h := ih a' b'
    simp only [Memory.wf, Bool.and_eq_true, decide_eq_true_eq, bne_iff_ne, ne_eq]
    rw [h]
    simp only [Above, List.mem_cons, forall_eq_or_imp]
    constructor
    · rintro ⟨⟨h1, h2⟩, h3, h4, h5⟩
      exact ⟨h2, ⟨h1, fun c hc => Nat.lt_trans h1 (h4 c hc)⟩, h3, h4, h5⟩
    · rintro ⟨h1, ⟨h2, _⟩, h3, h4, h5⟩
      exact ⟨⟨h2, h1⟩, h3, h4, h5⟩

theorem Above.setK {a k : Nat} {b : Byte} {m : List Host.Cell} (h : Above a m) (hk : a < k) : Above a (setK k b m) := by
  induction m with
  | nil => intro c hc; simp [Machine.setK] at hc; subst hc; exact hk
  | cons p r ih =>
    obtain ⟨k', v'⟩ := p
    have hr : Above a r := fun c hc => h c (List.mem_cons_of_mem _ hc)
    have h0 : a < k' := h (k', v') List.mem_cons_self
    simp only [Machine.setK]
    split
    · intro c hc
      rcases List.mem_cons.mp hc with rfl | hc
      · exact hk
      · exact h c hc
    · split
      · intro c hc
        rcases List.mem_cons.mp hc with rfl | hc
        · exact hk
        · exact hr c hc
      · intro c hc
        rcases List.mem_cons.mp hc with rfl | hc
        · exact h0
        · exact ih hr c hc

theorem wf_setK (k : Nat) (b : Byte) (hb : b ≠ unwritten) (m : List Host.Cell) (h : Memory.wf m = true) :
    Memory.wf (setK k b m) = true := by
  induction m with
  | nil => simp [setK, Memory.wf, hb]
  | cons p r ih =>
    obtain ⟨k', v'⟩ := p
    obtain ⟨h1, h2, h3⟩ := (wf_cons k' v' r).mp h
    simp only [setK]
    split
    · rename_i hlt
      refine (wf_cons _ _ _).mpr ⟨hb, ?_, h⟩
      intro c hc
      rcases List.mem_cons.mp hc with rfl | hc
      · exact hlt
      · exact Nat.lt_trans hlt (h2 c hc)
    · split
      · rename_i e; subst e
        exact (wf_cons _ _ _).mpr ⟨hb, h2, h3⟩
      · exact (wf_cons _ _ _).mpr ⟨h1, Above.setK h2 (by omega), ih h3⟩

theorem mem_delK {α : Type} {k : Nat} {m : List (Nat × α)} {c : Nat × α} (hc : c ∈ delK k m) : c ∈ m := by
  induction m with
  | nil => cases hc
  | cons p r ih =>
    obtain ⟨k', v'⟩ := p
    simp only [delK] at hc
    split at hc
    · exact List.mem_cons_of_mem _ (ih hc)
    · rcases List.mem_cons.mp hc with rfl | hc
      · exact List.mem_cons_self
      · exact List.mem_cons_of_mem _ (ih hc)

theorem wf_delK (k : Nat) (m : List Host.Cell) (h : Memory.wf m = true) : Memory.wf (delK k m) = true := by
  induction m with
  | nil => rfl
  | cons p r ih =>
    obtain ⟨k', v'⟩ := p
    obtain ⟨h1, h2, h3⟩ := (wf_cons k' v' r).mp h
    simp only [delK]
    split
    · exact ih h3
    · exact (wf_cons _ _ _).mpr ⟨h1, fun c hc => h2 c (mem_delK hc), ih h3⟩

/-- Writing a byte keeps the canonical form. -/
theorem wf_memPut (a : Nat) (b : Byte) (m : List Host.Cell) (h : Memory.wf m = true) : Memory.wf (memPut a b m) = true := by
  unfold memPut putK
  split
  · exact wf_delK a m h
  · rename_i hb; exact wf_setK a b hb m h

theorem wf_memPuts (a : Nat) (bs : List Byte) (m : List Host.Cell) (h : Memory.wf m = true) :
    Memory.wf (memPuts a bs m) = true := by
  induction bs generalizing a m with
  | nil => exact h
  | cons b bs ih => exact ih (a + 1) _ (wf_memPut a b m h)

theorem wf_setPagePoison (s : State) (pa : Nat) (v : Bool) (h : Memory.wf s.mem = true) :
    Memory.wf (setPagePoison s pa v).mem = true := wf_memPut _ _ _ h

theorem wf_rawWrite (s : State) (pa : Nat) (bs : List Byte) (h : Memory.wf s.mem = true) :
    Memory.wf (rawWrite s pa bs).mem = true := wf_memPuts _ _ _ h

theorem wf_retag (s : State) (k : BitVec 512) (line : Nat) (h : Memory.wf s.mem = true) :
    Memory.wf (retag s k line).mem = true := by
  unfold retag
  split
  · exact h
  · split
    · exact h
    · exact wf_memPuts _ _ _ h

theorem wf_writeByte (s : State) (key pa : Nat) (b : Byte) (h : Memory.wf s.mem = true) :
    Memory.wf (writeByte s key pa b).mem = true := by
  unfold writeByte
  apply wf_memPut
  split
  · split
    · exact wf_retag _ _ _ h
    · exact h
  · exact h

theorem wf_writeBytes (s : State) (key pa : Nat) (bs : List Byte) (h : Memory.wf s.mem = true) :
    Memory.wf (writeBytes s key pa bs).mem = true := by
  induction bs generalizing s pa with
  | nil => exact h
  | cons b bs ih => exact ih _ _ (wf_writeByte s key pa b h)

/-! ## Reads after writes -/

@[simp] theorem memByte_memPut (s : State) (a b : Nat) (v : Byte) :
    memByte { s with mem := memPut a v s.mem } b = if b = a then v else memByte s b := by
  unfold memByte memPut
  exact readK_putK _ _ _ _ _

theorem readK_memPuts (a : Nat) (bs : List Byte) (m : List Host.Cell) (x : Nat) :
    readK unwritten x (memPuts a bs m) =
      if a ≤ x ∧ x < a + bs.length then bs.getD (x - a) unwritten else readK unwritten x m := by
  induction bs generalizing a m with
  | nil => simp [memPuts]
  | cons b bs ih =>
    rw [memPuts, ih, memPut, readK_putK]
    by_cases hx : x = a
    · subst hx
      simp
    · by_cases h1 : a + 1 ≤ x ∧ x < a + 1 + bs.length
      · have h2 : a ≤ x ∧ x < a + (b :: bs).length := by simp; omega
        have e : x - a = x - (a + 1) + 1 := by omega
        rw [if_pos h1, if_pos h2, e]; simp
      · have h2 : ¬(a ≤ x ∧ x < a + (b :: bs).length) := by simp; omega
        rw [if_neg h1, if_neg h2, if_neg hx]

theorem memByte_rawWrite (s : State) (pa : Nat) (bs : List Byte) (x : Nat) :
    memByte (rawWrite s pa bs) x = if pa ≤ x ∧ x < pa + bs.length then bs.getD (x - pa) unwritten else memByte s x :=
  readK_memPuts _ _ _ _

end Sys2Proof.Machine
end

