-- ==== Sys2Proof/Laws/Regs.lean ====
section
/-! SUPPORT. Registers, lanes and the issuing gang: what one write of a register does, what a fold of writes over the lanes
of a mask does, and the outcome of each operand form of the vector instructions. -/

set_option Elab.async false

namespace Sys2Proof.Machine

/-! ## The issuing gang -/

theorem withGang_of {s : State} {it : Issue} {g : Gang} (h : Issues s it g) (f : Gang → Issue → Out) :
    withGang s f = f g it := by
  simp only [withGang, h.issuing, h.gang]

theorem gang?_uid {s : State} {u : Nat} {g : Gang} (h : gang? s u = some g) : g.uid = u := by
  have := List.find?_some h
  simpa using this

theorem find_replace (l : List Gang) (u : Nat) (g h : Gang) (hg : l.find? (fun k => k.uid == u) = some g) (hu : h.uid = u) :
    (l.map fun k => if k.uid = h.uid then h else k).find? (fun k => k.uid == u) = some h := by
  induction l with
  | nil => simp at hg
  | cons a r ih =>
    simp only [List.map_cons, List.find?_cons] at hg ⊢
    by_cases ha : a.uid = u
    · have e : a.uid = h.uid := by omega
      simp [e, hu]
    · have e : ¬ a.uid = h.uid := by omega
      have hb : (a.uid == u) = false := by simpa using ha
      rw [if_neg e, hb]
      rw [hb] at hg
      exact ih hg

theorem gang?_withGangState {s : State} {u : Nat} {g h : Gang} (hg : gang? s u = some g) (hu : h.uid = g.uid) :
    gang? (withGangState s h) u = some h :=
  find_replace s.gangs u g h hg (by rw [hu]; exact gang?_uid hg)

theorem setGang_eq (s : State) (h : Gang) : setGang s h = withGangState s h := rfl

/-! ## One register of one lane -/

theorem lane_key {r r' i i' : Nat} (hi : i < 32) (hi' : i' < 32) : r * 32 + i = r' * 32 + i' ↔ r = r' ∧ i = i' := by
  omega

theorem getReg_putReg (g : Gang) {r r' i i' : Nat} (v : Word) (hi : i < 32) (hi' : i' < 32) :
    getReg (putReg g r i v) r' i' = if r' = r ∧ i' = i then v else getReg g r' i' := by
  unfold getReg putReg
  simp only [readK_putK, lane_key hi' hi]

theorem regPoisoned_putReg (g : Gang) {r r' i i' : Nat} (v : Word) (hi : i < 32) (hi' : i' < 32) :
    regPoisoned (putReg g r i v) r' i' = if r' = r ∧ i' = i then false else regPoisoned g r' i' := by
  unfold regPoisoned putReg
  simp only []
  split
  · rename_i h
    have h2 : g.regPoison = [] := by simpa using h
    simp [h2]
  · by_cases e : r' * 32 + i' = r * 32 + i
    · rw [if_pos ((lane_key hi' hi).mp e)]
      simp [e]
    · rw [if_neg fun c => e ((lane_key hi' hi).mpr c)]
      rw [Bool.eq_iff_iff]
      simp [List.mem_filter, e]

theorem rest_putReg (g : Gang) (r i : Nat) (v : Word) :
    { putReg g r i v with regs := g.regs, regPoison := g.regPoison } = g := rfl

/-! ## Writes of one lane -/

/-- The keys of a list of register writes are distinct. -/
def DistinctRegs (l : List (Nat × Word)) : Prop := (l.map (·.1)).Nodup

theorem putWrites_kept (g : Gang) (i : Nat) (hi : i < 32) (l : List (Nat × Word)) (r j : Nat) (hj : j < 32)
    (h : ¬(j = i ∧ r ∈ l.map (·.1))) :
    getReg (putWrites g i l) r j = getReg g r j ∧ regPoisoned (putWrites g i l) r j = regPoisoned g r j := by
  induction l generalizing g with
  | nil => exact ⟨rfl, rfl⟩
  | cons p l ih =>
    have h1 : ¬(j = i ∧ r ∈ l.map (·.1)) := fun c => h ⟨c.1, by simp only [List.map_cons, List.mem_cons]; exact .inr c.2⟩
    have h2 : ¬(r = p.1 ∧ j = i) := fun c => h ⟨c.2, by simp [c.1]⟩
    obtain ⟨e1, e2⟩ := ih (putReg g p.1 i p.2) h1
    simp only [putWrites, List.foldl_cons] at e1 e2 ⊢
    rw [e1, e2, getReg_putReg _ _ hi hj, regPoisoned_putReg _ _ hi hj, if_neg h2, if_neg h2]
    exact ⟨rfl, rfl⟩

theorem putWrites_written (g : Gang) (i : Nat) (hi : i < 32) (l : List (Nat × Word)) (hd : DistinctRegs l) (p : Nat × Word)
    (hp : p ∈ l) : getReg (putWrites g i l) p.1 i = p.2 ∧ regPoisoned (putWrites g i l) p.1 i = false := by
  induction l generalizing g with
  | nil => cases hp
  | cons q l ih =>
    obtain ⟨hn, hd'⟩ := List.nodup_cons.mp hd
    rcases List.mem_cons.mp hp with rfl | hp
    · have h : ¬(i = i ∧ p.1 ∈ l.map (·.1)) := fun c => hn c.2
      obtain ⟨e1, e2⟩ := putWrites_kept (putReg g p.1 i p.2) i hi l p.1 i hi h
      simp only [putWrites, List.foldl_cons] at e1 e2 ⊢
      rw [e1, e2, getReg_putReg _ _ hi hi, regPoisoned_putReg _ _ hi hi]
      simp
    · exact ih (putReg g q.1 i q.2) hd' hp

theorem putWrites_rest (g : Gang) (i : Nat) (l : List (Nat × Word)) :
    { putWrites g i l with regs := g.regs, regPoison := g.regPoison } = g := by
  induction l generalizing g with
  | nil => rfl
  | cons p l ih =>
    have h := ih (putReg g p.1 i p.2)
    simp only [putWrites, List.foldl_cons] at h ⊢
    generalize hx : List.foldl _ _ l = x at h ⊢
    cases x
    simp only [putReg, Gang.mk.injEq] at h
    cases g
    simp_all

/-! ## Writes of the lanes of a mask -/

theorem mem_lanesOf {m : LaneMask} {i : Nat} : i ∈ lanesOf m ↔ i < 32 ∧ m.getLsbD i = true := by
  simp [lanesOf]

theorem nodup_lanesOf (m : LaneMask) : (lanesOf m).Nodup := List.Nodup.filter _ List.nodup_range

theorem foldWrites_kept (ws : Nat → List (Nat × Word)) (ls : List Nat) (hl : ∀ i ∈ ls, i < 32) (g : Gang) (r j : Nat)
    (hj : j < 32) (h : ¬(j ∈ ls ∧ r ∈ (ws j).map (·.1))) :
    getReg (ls.foldl (fun h i => putWrites h i (ws i)) g) r j = getReg g r j ∧
      regPoisoned (ls.foldl (fun h i => putWrites h i (ws i)) g) r j = regPoisoned g r j := by
  induction ls generalizing g with
  | nil => exact ⟨rfl, rfl⟩
  | cons i ls ih =>
    have hi : i < 32 := hl i List.mem_cons_self
    have h1 : ¬(j ∈ ls ∧ r ∈ (ws j).map (·.1)) := fun c => h ⟨List.mem_cons_of_mem _ c.1, c.2⟩
    have h2 : ¬(j = i ∧ r ∈ (ws i).map (·.1)) := fun c => h ⟨by rw [c.1]; exact List.mem_cons_self, by rw [c.1]; exact c.2⟩
    obtain ⟨e1, e2⟩ := ih (fun k hk => hl k (List.mem_cons_of_mem _ hk)) (putWrites g i (ws i)) h1
    obtain ⟨e3, e4⟩ := putWrites_kept g i hi (ws i) r j hj h2
    rw [List.foldl_cons, e1, e2, e3, e4]
    exact ⟨rfl, rfl⟩

theorem foldWrites_written (ws : Nat → List (Nat × Word)) (hd : ∀ i, DistinctRegs (ws i)) (ls : List Nat) (hn : ls.Nodup)
    (hl : ∀ i ∈ ls, i < 32) (g : Gang) (i : Nat) (hi : i ∈ ls) (p : Nat × Word) (hp : p ∈ ws i) :
    getReg (ls.foldl (fun h i => putWrites h i (ws i)) g) p.1 i = p.2 ∧
      regPoisoned (ls.foldl (fun h i => putWrites h i (ws i)) g) p.1 i = false := by
  induction ls generalizing g with
  | nil => cases hi
  | cons k ls ih =>
    obtain ⟨hk, hn'⟩ := List.nodup_cons.mp hn
    have hl' : ∀ i ∈ ls, i < 32 := fun j hj => hl j (List.mem_cons_of_mem _ hj)
    rw [List.foldl_cons]
    by_cases e : i ∈ ls
    · exact ih hn' hl' _ e
    · obtain rfl : i = k := by
        rcases List.mem_cons.mp hi with h | h
        · exact h
        · exact absurd h e
      have hi32 := hl i List.mem_cons_self
      obtain ⟨e1, e2⟩ := foldWrites_kept ws ls hl' (putWrites g i (ws i)) p.1 i hi32 (fun c => e c.1)
      rw [e1, e2]
      exact putWrites_written g i hi32 (ws i) (hd i) p hp

theorem foldWrites_rest (ws : Nat → List (Nat × Word)) (ls : List Nat) (g : Gang) :
    { ls.foldl (fun h i => putWrites h i (ws i)) g with regs := g.regs, regPoison := g.regPoison } = g := by
  induction ls generalizing g with
  | nil => rfl
  | cons i ls ih =>
    have h1 := ih (putWrites g i (ws i))
    have h2 := putWrites_rest g i (ws i)
    rw [List.foldl_cons]
    generalize List.foldl _ (putWrites g i (ws i)) ls = x at h1 ⊢
    generalize putWrites g i (ws i) = y at h1 h2
    cases x; cases y; cases g
    simp_all

/-- What a fold of writes over the executing lanes does. -/
theorem writes_fold (g : Gang) (m : LaneMask) (ws : Nat → List (Nat × Word)) (hd : ∀ i, DistinctRegs (ws i)) :
    Writes g ((lanesOf m).foldl (fun h i => putWrites h i (ws i)) g) m ws where
  written i hi hm p hp := foldWrites_written ws hd _ (nodup_lanesOf m) (fun _ h => (mem_lanesOf.mp h).1) g i
    (mem_lanesOf.mpr ⟨hi, hm⟩) p hp
  kept r i hi h := foldWrites_kept ws _ (fun _ h => (mem_lanesOf.mp h).1) g r i hi
    (fun c => h ⟨(mem_lanesOf.mp c.1).2, c.2⟩)
  rest := foldWrites_rest ws _ g

theorem Writes.uid {g h : Gang} {m : LaneMask} {ws : Nat → List (Nat × Word)} (w : Writes g h m ws) : h.uid = g.uid := by
  have := w.rest
  rw [← this]

/-- The outcome of a fold of writes over the executing lanes. -/
theorem computes_fold {s : State} {it : Issue} {g : Gang} (hi : Issues s it g) (ws : Nat → List (Nat × Word))
    (hd : ∀ i, DistinctRegs (ws i)) :
    Computes s it g (.next (setGang s ((lanesOf (execMask g it)).foldl (fun h i => putWrites h i (ws i)) g))) ws := by
  have w := writes_fold g (execMask g it) ws hd
  exact ⟨_, rfl, gang?_withGangState hi.gang w.uid, w⟩

theorem Computes1.congr {s : State} {it : Issue} {g : Gang} {o : Out} {d : Reg} {f f' : Nat → Word}
    (h : Computes1 s it g o d f) (e : ∀ l, f l = f' l) : Computes1 s it g o d f' := by
  rw [← funext e]
  exact h

theorem Computes2.congr {s : State} {it : Issue} {g : Gang} {o : Out} {d : Reg} {f f' : Nat → DWord}
    (h : Computes2 s it g o d f) (e : ∀ l, f l = f' l) : Computes2 s it g o d f' := by
  rw [← funext e]
  exact h

/-! ## Operand forms -/

theorem distinct1 (r : Nat) (v : Word) : DistinctRegs [(r, v)] := by simp [DistinctRegs]

theorem distinct2 (r : Nat) (v w : Word) : DistinctRegs [(r, v), (r + 1, w)] := by simp [DistinctRegs]

theorem computes1_of {s : State} {it : Issue} {g : Gang} (hi : Issues s it g) (d : Reg) (f : Nat → Word) :
    Computes1 s it g (.next (setGang s ((lanesOf (execMask g it)).foldl (fun h i => putReg h d.toNat i (f i)) g))) d f :=
  computes_fold hi (fun i => [(d.toNat, f i)]) fun _ => distinct1 _ _

theorem computes_writeLanes {s : State} {it : Issue} {g : Gang} (hi : Issues s it g) (d : Reg) (f : Gang → Nat → Word) :
    Computes1 s it g (writeLanes s d f) d (f g) := by
  unfold writeLanes overLanes
  rw [withGang_of hi]
  exact computes1_of hi d (f g)

theorem computes_writePairs {s : State} {it : Issue} {g : Gang} (hi : Issues s it g) (d : Reg) (f : Gang → Nat → DWord) :
    Computes2 s it g (writePairs s d f) d (f g) := by
  unfold writePairs overLanes
  rw [withGang_of hi]
  exact computes_fold hi (fun i => [(d.toNat, (f g i).extractLsb' 0 32), (d.toNat + 1, (f g i).extractLsb' 32 32)])
    fun _ => distinct2 _ _ _

theorem computes_lane1 {s : State} {it : Issue} {g : Gang} (hi : Issues s it g) (d a : Reg) (f : Word → Word) :
    Computes1 s it g (lane1 s d a f) d fun i => f (getReg g a.toNat i) := computes_writeLanes hi d _

theorem computes_lane2 {s : State} {it : Issue} {g : Gang} (hi : Issues s it g) (d a b : Reg) (f : Word → Word → Word) :
    Computes1 s it g (lane2 s d a b f) d fun i => f (getReg g a.toNat i) (getReg g b.toNat i) := computes_writeLanes hi d _

theorem computes_lane3 {s : State} {it : Issue} {g : Gang} (hi : Issues s it g) (d a b : Reg) (f : Word → Word → Word → Word) :
    Computes1 s it g (lane3 s d a b f) d fun i => f (getReg g d.toNat i) (getReg g a.toNat i) (getReg g b.toNat i) :=
  computes_writeLanes hi d _

theorem computes_pair2 {s : State} {it : Issue} {g : Gang} (hi : Issues s it g) (d a b : Reg) (f : DWord → DWord → DWord) :
    Computes2 s it g (pair2 s d a b f) d fun i => f (pairOf g a.toNat i) (pairOf g b.toNat i) := computes_writePairs hi d _

theorem computes_pairS {s : State} {it : Issue} {g : Gang} (hi : Issues s it g) (d a b : Reg) (f : DWord → Word → DWord) :
    Computes2 s it g (pairS s d a b f) d fun i => f (pairOf g a.toNat i) (getReg g b.toNat i) := computes_writePairs hi d _

theorem computes_pairW {s : State} {it : Issue} {g : Gang} (hi : Issues s it g) (d a b : Reg) (f : Word → Word → DWord) :
    Computes2 s it g (pairW s d a b f) d fun i => f (getReg g a.toNat i) (getReg g b.toNat i) := computes_writePairs hi d _

theorem computes_writeMask {s : State} {it : Issue} {g : Gang} (hi : Issues s it g) (d : Reg) (c : Gang → Nat → Bool) :
    Computes1 s it g (writeMask s d c) d fun _ => condMask g (execMask g it) (c g) := by
  unfold writeMask
  rw [withGang_of hi]
  exact computes1_of hi d _

theorem computes_gather {s : State} {it : Issue} {g : Gang} (hi : Issues s it g) (d : Reg) (f : Gang → LaneMask → Word) :
    Computes1 s it g (gather s d f) d fun _ => f g (execMask g it) := by
  unfold gather
  rw [withGang_of hi]
  exact computes1_of hi d _

theorem computes_reduce {s : State} {it : Issue} {g : Gang} (hi : Issues s it g) (d a : Reg) (f : Word → Word → Word)
    (unit : Word) :
    Computes1 s it g (reduce s d a f unit) d fun i =>
      (copyLanes g (execMask g it) i).foldl (fun acc j => f acc (getReg g a.toNat j)) unit := by
  unfold reduce
  rw [withGang_of hi]
  exact computes1_of hi d _

/-! ## Lane masks -/

theorem getLsbD_maskOf_aux (l : List Nat) (m : LaneMask) (k : Nat) (hk : k < 32) :
    (l.foldl (fun m i => m ||| (1#32 <<< i)) m).getLsbD k = (m.getLsbD k || decide (k ∈ l)) := by
  induction l generalizing m with
  | nil => simp
  | cons i l ih =>
    rw [List.foldl_cons, ih, BitVec.getLsbD_or]
    have h : (1#32 <<< i).getLsbD k = decide (k = i) := by
      rw [BitVec.getLsbD_shiftLeft, BitVec.getLsbD_one]
      by_cases e : k = i
      · subst e; simp [hk]
      · by_cases h2 : k < i
        · simp [h2, e]
        · have h3 : k - i ≠ 0 := by omega
          simp [h3, e]
    rw [h]
    simp only [List.mem_cons]
    by_cases e : k = i <;> simp [e]

theorem getLsbD_maskOf (l : List Nat) (k : Nat) (hk : k < 32) : (maskOf l).getLsbD k = decide (k ∈ l) := by
  unfold maskOf
  rw [getLsbD_maskOf_aux l _ k hk]
  simp

/-- A mask that `condMask` forms is the lane mask of R215. -/
theorem isLaneMask_condMask (g : Gang) (m : LaneMask) (c : Nat → Bool) : IsLaneMask g m c (condMask g m c) := by
  intro k hk
  unfold condMask visMask
  by_cases hp : g.prot = true
  · rw [if_pos hp, if_pos hp, getLsbD_maskOf _ _ hk]
    by_cases h16 : k < 16
    · have h2 : 2 * k < 32 := by omega
      rw [Bool.eq_iff_iff]
      simp only [List.mem_filter, List.mem_range, h16, decide_eq_true_eq, true_and, getLsbD_maskOf _ _ h2, mem_lanesOf,
        Bool.and_eq_true, h2, decide_true]
    · simp [h16]
  · rw [if_neg hp, if_neg hp, getLsbD_maskOf _ _ hk]
    rw [Bool.eq_iff_iff]
    simp only [List.mem_filter, mem_lanesOf, hk, true_and, decide_eq_true_eq, Bool.and_eq_true]

theorem computes_cond {s : State} {it : Issue} {g : Gang} (hi : Issues s it g) (d : Reg) (c : Gang → Nat → Bool) :
    ∃ v, IsLaneMask g (execMask g it) (c g) v ∧ Computes1 s it g (writeMask s d c) d fun _ => v :=
  ⟨_, isLaneMask_condMask g _ _, computes_writeMask hi d c⟩

/-! ## Floating-point outcomes -/

theorem foldl_map_flags (ls : List Nat) (f : Nat → LaneOut) (e : FlagSet) :
    (ls.map fun i => (i, f i)).foldl (fun (e : FlagSet) o => e ||| o.2.flags) e =
      ls.foldl (fun (e : FlagSet) i => e ||| (f i).flags) e := by
  induction ls generalizing e with
  | nil => rfl
  | cons i ls ih => exact ih _

theorem foldl_map_writes (ls : List Nat) (f : Nat → LaneOut) (g : Gang) :
    (ls.map fun i => (i, f i)).foldl (fun h o => putWrites h o.1 o.2.writes) g =
      ls.foldl (fun h i => putWrites h i (f i).writes) g := by
  induction ls generalizing g with
  | nil => rfl
  | cons i ls ih => exact ih _

/-- The outcome of `finishFp` when no lane raises an enabled exception. -/
theorem finishFp_computes {s : State} {it : Issue} {g : Gang} (hi : Issues s it g) (f : Nat → LaneOut)
    (hd : ∀ i, DistinctRegs (f i).writes) (ht : NoTrap g (execMask g it) f) :
    FpComputes s it g (finishFp s g ((lanesOf (execMask g it)).map fun i => (i, f i))) f := by
  have hbad : ((lanesOf (execMask g it)).map fun i => (i, f i)).filter (fun o => enabled g o.2.flags != 0#8) = [] := by
    rw [List.filter_eq_nil_iff]
    intro o ho
    obtain ⟨i, hi, rfl⟩ := List.mem_map.mp ho
    obtain ⟨h1, h2⟩ := mem_lanesOf.mp hi
    simp [ht i h1 h2]
  have w := writes_fold g (execMask g it) (fun i => (f i).writes) hd
  refine ⟨_, ?_, w⟩
  unfold finishFp
  simp only [hbad, List.isEmpty_nil, Bool.not_true, Bool.false_eq_true, if_false, foldl_map_flags, foldl_map_writes]
  have hfl : ((lanesOf (execMask g it)).foldl (fun h i => putWrites h i (f i).writes) g).fpflags = g.fpflags := by
    have := congrArg Gang.fpflags w.rest
    exact this
  rw [hfl]
  simp only [setIss, setGang, withGangState, hi.issuing, Option.map_some, flagsOf]

theorem filter_map_lanes (ls : List Nat) (f : Nat → LaneOut) (c : LaneOut → Bool) :
    (ls.map fun i => (i, f i)).filter (fun o => c o.2) = (ls.filter fun i => c (f i)).map fun i => (i, f i) := by
  induction ls with
  | nil => rfl
  | cons i ls ih =>
    simp only [List.map_cons, List.filter_cons]
    split <;> simp [ih]

theorem foldl_map_enabled (g : Gang) (ls : List Nat) (f : Nat → LaneOut) (e : FlagSet) :
    (ls.map fun i => (i, f i)).foldl (fun (e : FlagSet) o => e ||| enabled g o.2.flags) e =
      ls.foldl (fun (e : FlagSet) i => e ||| enabled g (f i).flags) e := by
  induction ls generalizing e with
  | nil => rfl
  | cons i ls ih => exact ih _

/-- What `finishFp` does with the outcomes of the executing lanes: all of it (R166). -/
theorem finishFp_result {s : State} {it : Issue} {g : Gang} (hi : Issues s it g) (f : Nat → LaneOut)
    (hd : ∀ i, DistinctRegs (f i).writes) :
    FpResult s it g (finishFp s g ((lanesOf (execMask g it)).map fun i => (i, f i))) f := by
  refine ⟨finishFp_computes hi f hd, fun ht => ?_⟩
  have hne : (lanesOf (execMask g it)).filter (fun i => enabled g (f i).flags != 0#8) ≠ [] := by
    intro hn
    apply ht
    intro i hi32 hm
    rw [List.filter_eq_nil_iff] at hn
    simpa using hn i (mem_lanesOf.mpr ⟨hi32, hm⟩)
  have hb : ((lanesOf (execMask g it)).map fun i => (i, f i)).filter (fun o => enabled g o.2.flags != 0#8) =
      ((lanesOf (execMask g it)).filter fun i => enabled g (f i).flags != 0#8).map fun i => (i, f i) :=
    filter_map_lanes _ _ fun o => enabled g o.flags != 0#8
  unfold finishFp fpxTrap
  simp only [hb, foldl_map_enabled, List.map_map]
  rw [if_pos (by simpa [List.isEmpty_iff] using hne)]
  congr 4
  exact List.map_id _

theorem fpOp_result {s : State} {it : Issue} {g : Gang} (hi : Issues s it g) (rnd : RMod) (f : Gang → RMode → Nat → LaneOut)
    (hd : ∀ i, DistinctRegs (f g (modeOf g rnd) i).writes) :
    FpResult s it g (fpOp s rnd f) (f g (modeOf g rnd)) := by
  unfold fpOp
  rw [withGang_of hi]
  exact finishFp_result hi _ hd

theorem fpCompare_result {s : State} {it : Issue} {g : Gang} (hi : Issues s it g) (d : Reg)
    (c : Gang → Nat → Bool × FlagSet) :
    FpResult s it g (fpCompare s d c) fun i =>
      ⟨[(d.toNat, condMask g (execMask g it) fun i => (c g i).1)], (c g i).2⟩ := by
  unfold fpCompare
  rw [withGang_of hi]
  exact finishFp_result hi _ fun _ => distinct1 _ _

theorem FpResult.congr {s : State} {it : Issue} {g : Gang} {o : Out} {f f' : Nat → LaneOut} (h : FpResult s it g o f)
    (e : ∀ l, f l = f' l) : FpResult s it g o f' := by
  rw [← funext e]
  exact h

theorem distinct_out1 (d : Reg) (r : Nat × FlagSet) : DistinctRegs (out1 d r).writes := distinct1 _ _

theorem distinct_wordsInto (d : Reg) (n v : Nat) : DistinctRegs (wordsInto d n v) := by
  unfold DistinctRegs wordsInto
  rw [List.map_map]
  exact List.Nodup.map (fun a b h => by simpa using h) List.nodup_range

theorem distinct_out2 (d : Reg) (r : Nat × FlagSet) : DistinctRegs (out2 d r).writes := distinct_wordsInto _ _ _

theorem distinct_outF (f : Fmt) (d : Reg) (r : Nat × FlagSet) : DistinctRegs (outF f d r).writes := by
  unfold outF
  split
  · exact distinct_out2 _ _
  · exact distinct_out1 _ _

end Sys2Proof.Machine
end

