-- ==== Sys2Proof/Laws/State.lean ====
section
/-! SUPPORT. One law for each field of State and each update of it, so that no proof unfolds a record update, and what the
lookups answer after an update. -/

namespace Sys2Proof.Machine

/-! ## setGang -/

@[simp] theorem setGang_mem (s : State) (g : Gang) : (setGang s g).mem = s.mem := rfl
@[simp] theorem setGang_lineKey (s : State) (g : Gang) : (setGang s g).lineKey = s.lineKey := rfl
@[simp] theorem setGang_keys (s : State) (g : Gang) : (setGang s g).keys = s.keys := rfl
@[simp] theorem setGang_wStamp (s : State) (g : Gang) : (setGang s g).wStamp = s.wStamp := rfl
@[simp] theorem setGang_rStamp (s : State) (g : Gang) : (setGang s g).rStamp = s.rStamp := rfl
@[simp] theorem setGang_relStamp (s : State) (g : Gang) : (setGang s g).relStamp = s.relStamp := rfl
@[simp] theorem setGang_linePoison (s : State) (g : Gang) : (setGang s g).linePoison = s.linePoison := rfl
@[simp] theorem setGang_llc (s : State) (g : Gang) : (setGang s g).llc = s.llc := rfl
@[simp] theorem setGang_log (s : State) (g : Gang) : (setGang s g).log = s.log := rfl
@[simp] theorem setGang_weirClock (s : State) (g : Gang) : (setGang s g).weirClock = s.weirClock := rfl
@[simp] theorem setGang_psn (s : State) (g : Gang) : (setGang s g).psn = s.psn := rfl
@[simp] theorem setGang_favoured (s : State) (g : Gang) : (setGang s g).favoured = s.favoured := rfl
@[simp] theorem setGang_favourQueue (s : State) (g : Gang) : (setGang s g).favourQueue = s.favourQueue := rfl
@[simp] theorem setGang_dev (s : State) (g : Gang) : (setGang s g).dev = s.dev := rfl
@[simp] theorem setGang_contexts (s : State) (g : Gang) : (setGang s g).contexts = s.contexts := rfl
@[simp] theorem setGang_regions (s : State) (g : Gang) : (setGang s g).regions = s.regions := rfl
@[simp] theorem setGang_grids (s : State) (g : Gang) : (setGang s g).grids = s.grids := rfl
@[simp] theorem setGang_cohorts (s : State) (g : Gang) : (setGang s g).cohorts = s.cohorts := rfl
@[simp] theorem setGang_cores (s : State) (g : Gang) : (setGang s g).cores = s.cores := rfl
@[simp] theorem setGang_basins (s : State) (g : Gang) : (setGang s g).basins = s.basins := rfl
@[simp] theorem setGang_copies (s : State) (g : Gang) : (setGang s g).copies = s.copies := rfl
@[simp] theorem setGang_handReqs (s : State) (g : Gang) : (setGang s g).handReqs = s.handReqs := rfl
@[simp] theorem setGang_handedOver (s : State) (g : Gang) : (setGang s g).handedOver = s.handedOver := rfl
@[simp] theorem setGang_lent (s : State) (g : Gang) : (setGang s g).lent = s.lent := rfl
@[simp] theorem setGang_sealed (s : State) (g : Gang) : (setGang s g).sealed = s.sealed := rfl
@[simp] theorem setGang_errors (s : State) (g : Gang) : (setGang s g).errors = s.errors := rfl
@[simp] theorem setGang_turns (s : State) (g : Gang) : (setGang s g).turns = s.turns := rfl
@[simp] theorem setGang_errorsLost (s : State) (g : Gang) : (setGang s g).errorsLost = s.errorsLost := rfl
@[simp] theorem setGang_corrected (s : State) (g : Gang) : (setGang s g).corrected = s.corrected := rfl
@[simp] theorem setGang_links (s : State) (g : Gang) : (setGang s g).links = s.links := rfl
@[simp] theorem setGang_periodStart (s : State) (g : Gang) : (setGang s g).periodStart = s.periodStart := rfl
@[simp] theorem setGang_waiting (s : State) (g : Gang) : (setGang s g).waiting = s.waiting := rfl
@[simp] theorem setGang_sent (s : State) (g : Gang) : (setGang s g).sent = s.sent := rfl
@[simp] theorem setGang_nextUid (s : State) (g : Gang) : (setGang s g).nextUid = s.nextUid := rfl
@[simp] theorem setGang_now (s : State) (g : Gang) : (setGang s g).now = s.now := rfl
@[simp] theorem setGang_clock (s : State) (g : Gang) : (setGang s g).clock = s.clock := rfl
@[simp] theorem setGang_fresh (s : State) (g : Gang) : (setGang s g).fresh = s.fresh := rfl
@[simp] theorem setGang_agenda (s : State) (g : Gang) : (setGang s g).agenda = s.agenda := rfl
@[simp] theorem setGang_round (s : State) (g : Gang) : (setGang s g).round = s.round := rfl
@[simp] theorem setGang_iss (s : State) (g : Gang) : (setGang s g).iss = s.iss := rfl

/-! ## modGang -/

@[simp] theorem modGang_mem (s : State) (u : Nat) (f : Gang → Gang) : (modGang s u f).mem = s.mem := rfl
@[simp] theorem modGang_lineKey (s : State) (u : Nat) (f : Gang → Gang) : (modGang s u f).lineKey = s.lineKey := rfl
@[simp] theorem modGang_keys (s : State) (u : Nat) (f : Gang → Gang) : (modGang s u f).keys = s.keys := rfl
@[simp] theorem modGang_wStamp (s : State) (u : Nat) (f : Gang → Gang) : (modGang s u f).wStamp = s.wStamp := rfl
@[simp] theorem modGang_rStamp (s : State) (u : Nat) (f : Gang → Gang) : (modGang s u f).rStamp = s.rStamp := rfl
@[simp] theorem modGang_relStamp (s : State) (u : Nat) (f : Gang → Gang) : (modGang s u f).relStamp = s.relStamp := rfl
@[simp] theorem modGang_linePoison (s : State) (u : Nat) (f : Gang → Gang) : (modGang s u f).linePoison = s.linePoison := rfl
@[simp] theorem modGang_llc (s : State) (u : Nat) (f : Gang → Gang) : (modGang s u f).llc = s.llc := rfl
@[simp] theorem modGang_log (s : State) (u : Nat) (f : Gang → Gang) : (modGang s u f).log = s.log := rfl
@[simp] theorem modGang_weirClock (s : State) (u : Nat) (f : Gang → Gang) : (modGang s u f).weirClock = s.weirClock := rfl
@[simp] theorem modGang_psn (s : State) (u : Nat) (f : Gang → Gang) : (modGang s u f).psn = s.psn := rfl
@[simp] theorem modGang_favoured (s : State) (u : Nat) (f : Gang → Gang) : (modGang s u f).favoured = s.favoured := rfl
@[simp] theorem modGang_favourQueue (s : State) (u : Nat) (f : Gang → Gang) : (modGang s u f).favourQueue = s.favourQueue := rfl
@[simp] theorem modGang_dev (s : State) (u : Nat) (f : Gang → Gang) : (modGang s u f).dev = s.dev := rfl
@[simp] theorem modGang_contexts (s : State) (u : Nat) (f : Gang → Gang) : (modGang s u f).contexts = s.contexts := rfl
@[simp] theorem modGang_regions (s : State) (u : Nat) (f : Gang → Gang) : (modGang s u f).regions = s.regions := rfl
@[simp] theorem modGang_grids (s : State) (u : Nat) (f : Gang → Gang) : (modGang s u f).grids = s.grids := rfl
@[simp] theorem modGang_cohorts (s : State) (u : Nat) (f : Gang → Gang) : (modGang s u f).cohorts = s.cohorts := rfl
@[simp] theorem modGang_cores (s : State) (u : Nat) (f : Gang → Gang) : (modGang s u f).cores = s.cores := rfl
@[simp] theorem modGang_basins (s : State) (u : Nat) (f : Gang → Gang) : (modGang s u f).basins = s.basins := rfl
@[simp] theorem modGang_copies (s : State) (u : Nat) (f : Gang → Gang) : (modGang s u f).copies = s.copies := rfl
@[simp] theorem modGang_handReqs (s : State) (u : Nat) (f : Gang → Gang) : (modGang s u f).handReqs = s.handReqs := rfl
@[simp] theorem modGang_handedOver (s : State) (u : Nat) (f : Gang → Gang) : (modGang s u f).handedOver = s.handedOver := rfl
@[simp] theorem modGang_lent (s : State) (u : Nat) (f : Gang → Gang) : (modGang s u f).lent = s.lent := rfl
@[simp] theorem modGang_sealed (s : State) (u : Nat) (f : Gang → Gang) : (modGang s u f).sealed = s.sealed := rfl
@[simp] theorem modGang_errors (s : State) (u : Nat) (f : Gang → Gang) : (modGang s u f).errors = s.errors := rfl
@[simp] theorem modGang_turns (s : State) (u : Nat) (f : Gang → Gang) : (modGang s u f).turns = s.turns := rfl
@[simp] theorem modGang_errorsLost (s : State) (u : Nat) (f : Gang → Gang) : (modGang s u f).errorsLost = s.errorsLost := rfl
@[simp] theorem modGang_corrected (s : State) (u : Nat) (f : Gang → Gang) : (modGang s u f).corrected = s.corrected := rfl
@[simp] theorem modGang_links (s : State) (u : Nat) (f : Gang → Gang) : (modGang s u f).links = s.links := rfl
@[simp] theorem modGang_periodStart (s : State) (u : Nat) (f : Gang → Gang) : (modGang s u f).periodStart = s.periodStart := rfl
@[simp] theorem modGang_waiting (s : State) (u : Nat) (f : Gang → Gang) : (modGang s u f).waiting = s.waiting := rfl
@[simp] theorem modGang_sent (s : State) (u : Nat) (f : Gang → Gang) : (modGang s u f).sent = s.sent := rfl
@[simp] theorem modGang_nextUid (s : State) (u : Nat) (f : Gang → Gang) : (modGang s u f).nextUid = s.nextUid := rfl
@[simp] theorem modGang_now (s : State) (u : Nat) (f : Gang → Gang) : (modGang s u f).now = s.now := rfl
@[simp] theorem modGang_clock (s : State) (u : Nat) (f : Gang → Gang) : (modGang s u f).clock = s.clock := rfl
@[simp] theorem modGang_fresh (s : State) (u : Nat) (f : Gang → Gang) : (modGang s u f).fresh = s.fresh := rfl
@[simp] theorem modGang_agenda (s : State) (u : Nat) (f : Gang → Gang) : (modGang s u f).agenda = s.agenda := rfl
@[simp] theorem modGang_round (s : State) (u : Nat) (f : Gang → Gang) : (modGang s u f).round = s.round := rfl
@[simp] theorem modGang_iss (s : State) (u : Nat) (f : Gang → Gang) : (modGang s u f).iss = s.iss := rfl

/-! ## setCore -/

@[simp] theorem setCore_mem (s : State) (c : Nat) (x : Core) : (setCore s c x).mem = s.mem := rfl
@[simp] theorem setCore_lineKey (s : State) (c : Nat) (x : Core) : (setCore s c x).lineKey = s.lineKey := rfl
@[simp] theorem setCore_keys (s : State) (c : Nat) (x : Core) : (setCore s c x).keys = s.keys := rfl
@[simp] theorem setCore_wStamp (s : State) (c : Nat) (x : Core) : (setCore s c x).wStamp = s.wStamp := rfl
@[simp] theorem setCore_rStamp (s : State) (c : Nat) (x : Core) : (setCore s c x).rStamp = s.rStamp := rfl
@[simp] theorem setCore_relStamp (s : State) (c : Nat) (x : Core) : (setCore s c x).relStamp = s.relStamp := rfl
@[simp] theorem setCore_linePoison (s : State) (c : Nat) (x : Core) : (setCore s c x).linePoison = s.linePoison := rfl
@[simp] theorem setCore_llc (s : State) (c : Nat) (x : Core) : (setCore s c x).llc = s.llc := rfl
@[simp] theorem setCore_log (s : State) (c : Nat) (x : Core) : (setCore s c x).log = s.log := rfl
@[simp] theorem setCore_weirClock (s : State) (c : Nat) (x : Core) : (setCore s c x).weirClock = s.weirClock := rfl
@[simp] theorem setCore_psn (s : State) (c : Nat) (x : Core) : (setCore s c x).psn = s.psn := rfl
@[simp] theorem setCore_favoured (s : State) (c : Nat) (x : Core) : (setCore s c x).favoured = s.favoured := rfl
@[simp] theorem setCore_favourQueue (s : State) (c : Nat) (x : Core) : (setCore s c x).favourQueue = s.favourQueue := rfl
@[simp] theorem setCore_dev (s : State) (c : Nat) (x : Core) : (setCore s c x).dev = s.dev := rfl
@[simp] theorem setCore_contexts (s : State) (c : Nat) (x : Core) : (setCore s c x).contexts = s.contexts := rfl
@[simp] theorem setCore_regions (s : State) (c : Nat) (x : Core) : (setCore s c x).regions = s.regions := rfl
@[simp] theorem setCore_grids (s : State) (c : Nat) (x : Core) : (setCore s c x).grids = s.grids := rfl
@[simp] theorem setCore_cohorts (s : State) (c : Nat) (x : Core) : (setCore s c x).cohorts = s.cohorts := rfl
@[simp] theorem setCore_gangs (s : State) (c : Nat) (x : Core) : (setCore s c x).gangs = s.gangs := rfl
@[simp] theorem setCore_basins (s : State) (c : Nat) (x : Core) : (setCore s c x).basins = s.basins := rfl
@[simp] theorem setCore_copies (s : State) (c : Nat) (x : Core) : (setCore s c x).copies = s.copies := rfl
@[simp] theorem setCore_handReqs (s : State) (c : Nat) (x : Core) : (setCore s c x).handReqs = s.handReqs := rfl
@[simp] theorem setCore_handedOver (s : State) (c : Nat) (x : Core) : (setCore s c x).handedOver = s.handedOver := rfl
@[simp] theorem setCore_lent (s : State) (c : Nat) (x : Core) : (setCore s c x).lent = s.lent := rfl
@[simp] theorem setCore_sealed (s : State) (c : Nat) (x : Core) : (setCore s c x).sealed = s.sealed := rfl
@[simp] theorem setCore_errors (s : State) (c : Nat) (x : Core) : (setCore s c x).errors = s.errors := rfl
@[simp] theorem setCore_turns (s : State) (c : Nat) (x : Core) : (setCore s c x).turns = s.turns := rfl
@[simp] theorem setCore_errorsLost (s : State) (c : Nat) (x : Core) : (setCore s c x).errorsLost = s.errorsLost := rfl
@[simp] theorem setCore_corrected (s : State) (c : Nat) (x : Core) : (setCore s c x).corrected = s.corrected := rfl
@[simp] theorem setCore_links (s : State) (c : Nat) (x : Core) : (setCore s c x).links = s.links := rfl
@[simp] theorem setCore_periodStart (s : State) (c : Nat) (x : Core) : (setCore s c x).periodStart = s.periodStart := rfl
@[simp] theorem setCore_waiting (s : State) (c : Nat) (x : Core) : (setCore s c x).waiting = s.waiting := rfl
@[simp] theorem setCore_sent (s : State) (c : Nat) (x : Core) : (setCore s c x).sent = s.sent := rfl
@[simp] theorem setCore_nextUid (s : State) (c : Nat) (x : Core) : (setCore s c x).nextUid = s.nextUid := rfl
@[simp] theorem setCore_now (s : State) (c : Nat) (x : Core) : (setCore s c x).now = s.now := rfl
@[simp] theorem setCore_clock (s : State) (c : Nat) (x : Core) : (setCore s c x).clock = s.clock := rfl
@[simp] theorem setCore_fresh (s : State) (c : Nat) (x : Core) : (setCore s c x).fresh = s.fresh := rfl
@[simp] theorem setCore_agenda (s : State) (c : Nat) (x : Core) : (setCore s c x).agenda = s.agenda := rfl
@[simp] theorem setCore_round (s : State) (c : Nat) (x : Core) : (setCore s c x).round = s.round := rfl
@[simp] theorem setCore_iss (s : State) (c : Nat) (x : Core) : (setCore s c x).iss = s.iss := rfl

/-! ## modCore -/

@[simp] theorem modCore_mem (s : State) (c : Nat) (f : Core → Core) : (modCore s c f).mem = s.mem := rfl
@[simp] theorem modCore_lineKey (s : State) (c : Nat) (f : Core → Core) : (modCore s c f).lineKey = s.lineKey := rfl
@[simp] theorem modCore_keys (s : State) (c : Nat) (f : Core → Core) : (modCore s c f).keys = s.keys := rfl
@[simp] theorem modCore_wStamp (s : State) (c : Nat) (f : Core → Core) : (modCore s c f).wStamp = s.wStamp := rfl
@[simp] theorem modCore_rStamp (s : State) (c : Nat) (f : Core → Core) : (modCore s c f).rStamp = s.rStamp := rfl
@[simp] theorem modCore_relStamp (s : State) (c : Nat) (f : Core → Core) : (modCore s c f).relStamp = s.relStamp := rfl
@[simp] theorem modCore_linePoison (s : State) (c : Nat) (f : Core → Core) : (modCore s c f).linePoison = s.linePoison := rfl
@[simp] theorem modCore_llc (s : State) (c : Nat) (f : Core → Core) : (modCore s c f).llc = s.llc := rfl
@[simp] theorem modCore_log (s : State) (c : Nat) (f : Core → Core) : (modCore s c f).log = s.log := rfl
@[simp] theorem modCore_weirClock (s : State) (c : Nat) (f : Core → Core) : (modCore s c f).weirClock = s.weirClock := rfl
@[simp] theorem modCore_psn (s : State) (c : Nat) (f : Core → Core) : (modCore s c f).psn = s.psn := rfl
@[simp] theorem modCore_favoured (s : State) (c : Nat) (f : Core → Core) : (modCore s c f).favoured = s.favoured := rfl
@[simp] theorem modCore_favourQueue (s : State) (c : Nat) (f : Core → Core) : (modCore s c f).favourQueue = s.favourQueue := rfl
@[simp] theorem modCore_dev (s : State) (c : Nat) (f : Core → Core) : (modCore s c f).dev = s.dev := rfl
@[simp] theorem modCore_contexts (s : State) (c : Nat) (f : Core → Core) : (modCore s c f).contexts = s.contexts := rfl
@[simp] theorem modCore_regions (s : State) (c : Nat) (f : Core → Core) : (modCore s c f).regions = s.regions := rfl
@[simp] theorem modCore_grids (s : State) (c : Nat) (f : Core → Core) : (modCore s c f).grids = s.grids := rfl
@[simp] theorem modCore_cohorts (s : State) (c : Nat) (f : Core → Core) : (modCore s c f).cohorts = s.cohorts := rfl
@[simp] theorem modCore_gangs (s : State) (c : Nat) (f : Core → Core) : (modCore s c f).gangs = s.gangs := rfl
@[simp] theorem modCore_basins (s : State) (c : Nat) (f : Core → Core) : (modCore s c f).basins = s.basins := rfl
@[simp] theorem modCore_copies (s : State) (c : Nat) (f : Core → Core) : (modCore s c f).copies = s.copies := rfl
@[simp] theorem modCore_handReqs (s : State) (c : Nat) (f : Core → Core) : (modCore s c f).handReqs = s.handReqs := rfl
@[simp] theorem modCore_handedOver (s : State) (c : Nat) (f : Core → Core) : (modCore s c f).handedOver = s.handedOver := rfl
@[simp] theorem modCore_lent (s : State) (c : Nat) (f : Core → Core) : (modCore s c f).lent = s.lent := rfl
@[simp] theorem modCore_sealed (s : State) (c : Nat) (f : Core → Core) : (modCore s c f).sealed = s.sealed := rfl
@[simp] theorem modCore_errors (s : State) (c : Nat) (f : Core → Core) : (modCore s c f).errors = s.errors := rfl
@[simp] theorem modCore_turns (s : State) (c : Nat) (f : Core → Core) : (modCore s c f).turns = s.turns := rfl
@[simp] theorem modCore_errorsLost (s : State) (c : Nat) (f : Core → Core) : (modCore s c f).errorsLost = s.errorsLost := rfl
@[simp] theorem modCore_corrected (s : State) (c : Nat) (f : Core → Core) : (modCore s c f).corrected = s.corrected := rfl
@[simp] theorem modCore_links (s : State) (c : Nat) (f : Core → Core) : (modCore s c f).links = s.links := rfl
@[simp] theorem modCore_periodStart (s : State) (c : Nat) (f : Core → Core) : (modCore s c f).periodStart = s.periodStart := rfl
@[simp] theorem modCore_waiting (s : State) (c : Nat) (f : Core → Core) : (modCore s c f).waiting = s.waiting := rfl
@[simp] theorem modCore_sent (s : State) (c : Nat) (f : Core → Core) : (modCore s c f).sent = s.sent := rfl
@[simp] theorem modCore_nextUid (s : State) (c : Nat) (f : Core → Core) : (modCore s c f).nextUid = s.nextUid := rfl
@[simp] theorem modCore_now (s : State) (c : Nat) (f : Core → Core) : (modCore s c f).now = s.now := rfl
@[simp] theorem modCore_clock (s : State) (c : Nat) (f : Core → Core) : (modCore s c f).clock = s.clock := rfl
@[simp] theorem modCore_fresh (s : State) (c : Nat) (f : Core → Core) : (modCore s c f).fresh = s.fresh := rfl
@[simp] theorem modCore_agenda (s : State) (c : Nat) (f : Core → Core) : (modCore s c f).agenda = s.agenda := rfl
@[simp] theorem modCore_round (s : State) (c : Nat) (f : Core → Core) : (modCore s c f).round = s.round := rfl
@[simp] theorem modCore_iss (s : State) (c : Nat) (f : Core → Core) : (modCore s c f).iss = s.iss := rfl

/-! ## setBarObj -/

@[simp] theorem setBarObj_mem (s : State) (c o : Nat) (b : BarObj) : (setBarObj s c o b).mem = s.mem := rfl
@[simp] theorem setBarObj_lineKey (s : State) (c o : Nat) (b : BarObj) : (setBarObj s c o b).lineKey = s.lineKey := rfl
@[simp] theorem setBarObj_keys (s : State) (c o : Nat) (b : BarObj) : (setBarObj s c o b).keys = s.keys := rfl
@[simp] theorem setBarObj_wStamp (s : State) (c o : Nat) (b : BarObj) : (setBarObj s c o b).wStamp = s.wStamp := rfl
@[simp] theorem setBarObj_rStamp (s : State) (c o : Nat) (b : BarObj) : (setBarObj s c o b).rStamp = s.rStamp := rfl
@[simp] theorem setBarObj_relStamp (s : State) (c o : Nat) (b : BarObj) : (setBarObj s c o b).relStamp = s.relStamp := rfl
@[simp] theorem setBarObj_linePoison (s : State) (c o : Nat) (b : BarObj) : (setBarObj s c o b).linePoison = s.linePoison := rfl
@[simp] theorem setBarObj_llc (s : State) (c o : Nat) (b : BarObj) : (setBarObj s c o b).llc = s.llc := rfl
@[simp] theorem setBarObj_log (s : State) (c o : Nat) (b : BarObj) : (setBarObj s c o b).log = s.log := rfl
@[simp] theorem setBarObj_weirClock (s : State) (c o : Nat) (b : BarObj) : (setBarObj s c o b).weirClock = s.weirClock := rfl
@[simp] theorem setBarObj_psn (s : State) (c o : Nat) (b : BarObj) : (setBarObj s c o b).psn = s.psn := rfl
@[simp] theorem setBarObj_favoured (s : State) (c o : Nat) (b : BarObj) : (setBarObj s c o b).favoured = s.favoured := rfl
@[simp] theorem setBarObj_favourQueue (s : State) (c o : Nat) (b : BarObj) : (setBarObj s c o b).favourQueue = s.favourQueue := rfl
@[simp] theorem setBarObj_dev (s : State) (c o : Nat) (b : BarObj) : (setBarObj s c o b).dev = s.dev := rfl
@[simp] theorem setBarObj_contexts (s : State) (c o : Nat) (b : BarObj) : (setBarObj s c o b).contexts = s.contexts := rfl
@[simp] theorem setBarObj_regions (s : State) (c o : Nat) (b : BarObj) : (setBarObj s c o b).regions = s.regions := rfl
@[simp] theorem setBarObj_grids (s : State) (c o : Nat) (b : BarObj) : (setBarObj s c o b).grids = s.grids := rfl
@[simp] theorem setBarObj_cohorts (s : State) (c o : Nat) (b : BarObj) : (setBarObj s c o b).cohorts = s.cohorts := rfl
@[simp] theorem setBarObj_gangs (s : State) (c o : Nat) (b : BarObj) : (setBarObj s c o b).gangs = s.gangs := rfl
@[simp] theorem setBarObj_basins (s : State) (c o : Nat) (b : BarObj) : (setBarObj s c o b).basins = s.basins := rfl
@[simp] theorem setBarObj_copies (s : State) (c o : Nat) (b : BarObj) : (setBarObj s c o b).copies = s.copies := rfl
@[simp] theorem setBarObj_handReqs (s : State) (c o : Nat) (b : BarObj) : (setBarObj s c o b).handReqs = s.handReqs := rfl
@[simp] theorem setBarObj_handedOver (s : State) (c o : Nat) (b : BarObj) : (setBarObj s c o b).handedOver = s.handedOver := rfl
@[simp] theorem setBarObj_lent (s : State) (c o : Nat) (b : BarObj) : (setBarObj s c o b).lent = s.lent := rfl
@[simp] theorem setBarObj_sealed (s : State) (c o : Nat) (b : BarObj) : (setBarObj s c o b).sealed = s.sealed := rfl
@[simp] theorem setBarObj_errors (s : State) (c o : Nat) (b : BarObj) : (setBarObj s c o b).errors = s.errors := rfl
@[simp] theorem setBarObj_turns (s : State) (c o : Nat) (b : BarObj) : (setBarObj s c o b).turns = s.turns := rfl
@[simp] theorem setBarObj_errorsLost (s : State) (c o : Nat) (b : BarObj) : (setBarObj s c o b).errorsLost = s.errorsLost := rfl
@[simp] theorem setBarObj_corrected (s : State) (c o : Nat) (b : BarObj) : (setBarObj s c o b).corrected = s.corrected := rfl
@[simp] theorem setBarObj_links (s : State) (c o : Nat) (b : BarObj) : (setBarObj s c o b).links = s.links := rfl
@[simp] theorem setBarObj_periodStart (s : State) (c o : Nat) (b : BarObj) : (setBarObj s c o b).periodStart = s.periodStart := rfl
@[simp] theorem setBarObj_waiting (s : State) (c o : Nat) (b : BarObj) : (setBarObj s c o b).waiting = s.waiting := rfl
@[simp] theorem setBarObj_sent (s : State) (c o : Nat) (b : BarObj) : (setBarObj s c o b).sent = s.sent := rfl
@[simp] theorem setBarObj_nextUid (s : State) (c o : Nat) (b : BarObj) : (setBarObj s c o b).nextUid = s.nextUid := rfl
@[simp] theorem setBarObj_now (s : State) (c o : Nat) (b : BarObj) : (setBarObj s c o b).now = s.now := rfl
@[simp] theorem setBarObj_clock (s : State) (c o : Nat) (b : BarObj) : (setBarObj s c o b).clock = s.clock := rfl
@[simp] theorem setBarObj_fresh (s : State) (c o : Nat) (b : BarObj) : (setBarObj s c o b).fresh = s.fresh := rfl
@[simp] theorem setBarObj_agenda (s : State) (c o : Nat) (b : BarObj) : (setBarObj s c o b).agenda = s.agenda := rfl
@[simp] theorem setBarObj_round (s : State) (c o : Nat) (b : BarObj) : (setBarObj s c o b).round = s.round := rfl
@[simp] theorem setBarObj_iss (s : State) (c o : Nat) (b : BarObj) : (setBarObj s c o b).iss = s.iss := rfl

/-! ## setBasin -/

@[simp] theorem setBasin_mem (s : State) (b : Nat) (x : Basin) : (setBasin s b x).mem = s.mem := rfl
@[simp] theorem setBasin_lineKey (s : State) (b : Nat) (x : Basin) : (setBasin s b x).lineKey = s.lineKey := rfl
@[simp] theorem setBasin_keys (s : State) (b : Nat) (x : Basin) : (setBasin s b x).keys = s.keys := rfl
@[simp] theorem setBasin_wStamp (s : State) (b : Nat) (x : Basin) : (setBasin s b x).wStamp = s.wStamp := rfl
@[simp] theorem setBasin_rStamp (s : State) (b : Nat) (x : Basin) : (setBasin s b x).rStamp = s.rStamp := rfl
@[simp] theorem setBasin_relStamp (s : State) (b : Nat) (x : Basin) : (setBasin s b x).relStamp = s.relStamp := rfl
@[simp] theorem setBasin_linePoison (s : State) (b : Nat) (x : Basin) : (setBasin s b x).linePoison = s.linePoison := rfl
@[simp] theorem setBasin_llc (s : State) (b : Nat) (x : Basin) : (setBasin s b x).llc = s.llc := rfl
@[simp] theorem setBasin_log (s : State) (b : Nat) (x : Basin) : (setBasin s b x).log = s.log := rfl
@[simp] theorem setBasin_weirClock (s : State) (b : Nat) (x : Basin) : (setBasin s b x).weirClock = s.weirClock := rfl
@[simp] theorem setBasin_psn (s : State) (b : Nat) (x : Basin) : (setBasin s b x).psn = s.psn := rfl
@[simp] theorem setBasin_favoured (s : State) (b : Nat) (x : Basin) : (setBasin s b x).favoured = s.favoured := rfl
@[simp] theorem setBasin_favourQueue (s : State) (b : Nat) (x : Basin) : (setBasin s b x).favourQueue = s.favourQueue := rfl
@[simp] theorem setBasin_dev (s : State) (b : Nat) (x : Basin) : (setBasin s b x).dev = s.dev := rfl
@[simp] theorem setBasin_contexts (s : State) (b : Nat) (x : Basin) : (setBasin s b x).contexts = s.contexts := rfl
@[simp] theorem setBasin_regions (s : State) (b : Nat) (x : Basin) : (setBasin s b x).regions = s.regions := rfl
@[simp] theorem setBasin_grids (s : State) (b : Nat) (x : Basin) : (setBasin s b x).grids = s.grids := rfl
@[simp] theorem setBasin_cohorts (s : State) (b : Nat) (x : Basin) : (setBasin s b x).cohorts = s.cohorts := rfl
@[simp] theorem setBasin_gangs (s : State) (b : Nat) (x : Basin) : (setBasin s b x).gangs = s.gangs := rfl
@[simp] theorem setBasin_cores (s : State) (b : Nat) (x : Basin) : (setBasin s b x).cores = s.cores := rfl
@[simp] theorem setBasin_copies (s : State) (b : Nat) (x : Basin) : (setBasin s b x).copies = s.copies := rfl
@[simp] theorem setBasin_handReqs (s : State) (b : Nat) (x : Basin) : (setBasin s b x).handReqs = s.handReqs := rfl
@[simp] theorem setBasin_handedOver (s : State) (b : Nat) (x : Basin) : (setBasin s b x).handedOver = s.handedOver := rfl
@[simp] theorem setBasin_lent (s : State) (b : Nat) (x : Basin) : (setBasin s b x).lent = s.lent := rfl
@[simp] theorem setBasin_sealed (s : State) (b : Nat) (x : Basin) : (setBasin s b x).sealed = s.sealed := rfl
@[simp] theorem setBasin_errors (s : State) (b : Nat) (x : Basin) : (setBasin s b x).errors = s.errors := rfl
@[simp] theorem setBasin_turns (s : State) (b : Nat) (x : Basin) : (setBasin s b x).turns = s.turns := rfl
@[simp] theorem setBasin_errorsLost (s : State) (b : Nat) (x : Basin) : (setBasin s b x).errorsLost = s.errorsLost := rfl
@[simp] theorem setBasin_corrected (s : State) (b : Nat) (x : Basin) : (setBasin s b x).corrected = s.corrected := rfl
@[simp] theorem setBasin_links (s : State) (b : Nat) (x : Basin) : (setBasin s b x).links = s.links := rfl
@[simp] theorem setBasin_periodStart (s : State) (b : Nat) (x : Basin) : (setBasin s b x).periodStart = s.periodStart := rfl
@[simp] theorem setBasin_waiting (s : State) (b : Nat) (x : Basin) : (setBasin s b x).waiting = s.waiting := rfl
@[simp] theorem setBasin_sent (s : State) (b : Nat) (x : Basin) : (setBasin s b x).sent = s.sent := rfl
@[simp] theorem setBasin_nextUid (s : State) (b : Nat) (x : Basin) : (setBasin s b x).nextUid = s.nextUid := rfl
@[simp] theorem setBasin_now (s : State) (b : Nat) (x : Basin) : (setBasin s b x).now = s.now := rfl
@[simp] theorem setBasin_clock (s : State) (b : Nat) (x : Basin) : (setBasin s b x).clock = s.clock := rfl
@[simp] theorem setBasin_fresh (s : State) (b : Nat) (x : Basin) : (setBasin s b x).fresh = s.fresh := rfl
@[simp] theorem setBasin_agenda (s : State) (b : Nat) (x : Basin) : (setBasin s b x).agenda = s.agenda := rfl
@[simp] theorem setBasin_round (s : State) (b : Nat) (x : Basin) : (setBasin s b x).round = s.round := rfl
@[simp] theorem setBasin_iss (s : State) (b : Nat) (x : Basin) : (setBasin s b x).iss = s.iss := rfl

/-! ## modRegion -/

@[simp] theorem modRegion_mem (s : State) (a : Nat) (f : Region → Region) : (modRegion s a f).mem = s.mem := rfl
@[simp] theorem modRegion_lineKey (s : State) (a : Nat) (f : Region → Region) : (modRegion s a f).lineKey = s.lineKey := rfl
@[simp] theorem modRegion_keys (s : State) (a : Nat) (f : Region → Region) : (modRegion s a f).keys = s.keys := rfl
@[simp] theorem modRegion_wStamp (s : State) (a : Nat) (f : Region → Region) : (modRegion s a f).wStamp = s.wStamp := rfl
@[simp] theorem modRegion_rStamp (s : State) (a : Nat) (f : Region → Region) : (modRegion s a f).rStamp = s.rStamp := rfl
@[simp] theorem modRegion_relStamp (s : State) (a : Nat) (f : Region → Region) : (modRegion s a f).relStamp = s.relStamp := rfl
@[simp] theorem modRegion_linePoison (s : State) (a : Nat) (f : Region → Region) : (modRegion s a f).linePoison = s.linePoison := rfl
@[simp] theorem modRegion_llc (s : State) (a : Nat) (f : Region → Region) : (modRegion s a f).llc = s.llc := rfl
@[simp] theorem modRegion_log (s : State) (a : Nat) (f : Region → Region) : (modRegion s a f).log = s.log := rfl
@[simp] theorem modRegion_weirClock (s : State) (a : Nat) (f : Region → Region) : (modRegion s a f).weirClock = s.weirClock := rfl
@[simp] theorem modRegion_psn (s : State) (a : Nat) (f : Region → Region) : (modRegion s a f).psn = s.psn := rfl
@[simp] theorem modRegion_favoured (s : State) (a : Nat) (f : Region → Region) : (modRegion s a f).favoured = s.favoured := rfl
@[simp] theorem modRegion_favourQueue (s : State) (a : Nat) (f : Region → Region) : (modRegion s a f).favourQueue = s.favourQueue := rfl
@[simp] theorem modRegion_dev (s : State) (a : Nat) (f : Region → Region) : (modRegion s a f).dev = s.dev := rfl
@[simp] theorem modRegion_contexts (s : State) (a : Nat) (f : Region → Region) : (modRegion s a f).contexts = s.contexts := rfl
@[simp] theorem modRegion_grids (s : State) (a : Nat) (f : Region → Region) : (modRegion s a f).grids = s.grids := rfl
@[simp] theorem modRegion_cohorts (s : State) (a : Nat) (f : Region → Region) : (modRegion s a f).cohorts = s.cohorts := rfl
@[simp] theorem modRegion_gangs (s : State) (a : Nat) (f : Region → Region) : (modRegion s a f).gangs = s.gangs := rfl
@[simp] theorem modRegion_cores (s : State) (a : Nat) (f : Region → Region) : (modRegion s a f).cores = s.cores := rfl
@[simp] theorem modRegion_basins (s : State) (a : Nat) (f : Region → Region) : (modRegion s a f).basins = s.basins := rfl
@[simp] theorem modRegion_copies (s : State) (a : Nat) (f : Region → Region) : (modRegion s a f).copies = s.copies := rfl
@[simp] theorem modRegion_handReqs (s : State) (a : Nat) (f : Region → Region) : (modRegion s a f).handReqs = s.handReqs := rfl
@[simp] theorem modRegion_handedOver (s : State) (a : Nat) (f : Region → Region) : (modRegion s a f).handedOver = s.handedOver := rfl
@[simp] theorem modRegion_lent (s : State) (a : Nat) (f : Region → Region) : (modRegion s a f).lent = s.lent := rfl
@[simp] theorem modRegion_sealed (s : State) (a : Nat) (f : Region → Region) : (modRegion s a f).sealed = s.sealed := rfl
@[simp] theorem modRegion_errors (s : State) (a : Nat) (f : Region → Region) : (modRegion s a f).errors = s.errors := rfl
@[simp] theorem modRegion_turns (s : State) (a : Nat) (f : Region → Region) : (modRegion s a f).turns = s.turns := rfl
@[simp] theorem modRegion_errorsLost (s : State) (a : Nat) (f : Region → Region) : (modRegion s a f).errorsLost = s.errorsLost := rfl
@[simp] theorem modRegion_corrected (s : State) (a : Nat) (f : Region → Region) : (modRegion s a f).corrected = s.corrected := rfl
@[simp] theorem modRegion_links (s : State) (a : Nat) (f : Region → Region) : (modRegion s a f).links = s.links := rfl
@[simp] theorem modRegion_periodStart (s : State) (a : Nat) (f : Region → Region) : (modRegion s a f).periodStart = s.periodStart := rfl
@[simp] theorem modRegion_waiting (s : State) (a : Nat) (f : Region → Region) : (modRegion s a f).waiting = s.waiting := rfl
@[simp] theorem modRegion_sent (s : State) (a : Nat) (f : Region → Region) : (modRegion s a f).sent = s.sent := rfl
@[simp] theorem modRegion_nextUid (s : State) (a : Nat) (f : Region → Region) : (modRegion s a f).nextUid = s.nextUid := rfl
@[simp] theorem modRegion_now (s : State) (a : Nat) (f : Region → Region) : (modRegion s a f).now = s.now := rfl
@[simp] theorem modRegion_clock (s : State) (a : Nat) (f : Region → Region) : (modRegion s a f).clock = s.clock := rfl
@[simp] theorem modRegion_fresh (s : State) (a : Nat) (f : Region → Region) : (modRegion s a f).fresh = s.fresh := rfl
@[simp] theorem modRegion_agenda (s : State) (a : Nat) (f : Region → Region) : (modRegion s a f).agenda = s.agenda := rfl
@[simp] theorem modRegion_round (s : State) (a : Nat) (f : Region → Region) : (modRegion s a f).round = s.round := rfl
@[simp] theorem modRegion_iss (s : State) (a : Nat) (f : Region → Region) : (modRegion s a f).iss = s.iss := rfl

/-! ## modContext -/

@[simp] theorem modContext_mem (s : State) (n : Nat) (f : Context → Context) : (modContext s n f).mem = s.mem := rfl
@[simp] theorem modContext_lineKey (s : State) (n : Nat) (f : Context → Context) : (modContext s n f).lineKey = s.lineKey := rfl
@[simp] theorem modContext_keys (s : State) (n : Nat) (f : Context → Context) : (modContext s n f).keys = s.keys := rfl
@[simp] theorem modContext_wStamp (s : State) (n : Nat) (f : Context → Context) : (modContext s n f).wStamp = s.wStamp := rfl
@[simp] theorem modContext_rStamp (s : State) (n : Nat) (f : Context → Context) : (modContext s n f).rStamp = s.rStamp := rfl
@[simp] theorem modContext_relStamp (s : State) (n : Nat) (f : Context → Context) : (modContext s n f).relStamp = s.relStamp := rfl
@[simp] theorem modContext_linePoison (s : State) (n : Nat) (f : Context → Context) : (modContext s n f).linePoison = s.linePoison := rfl
@[simp] theorem modContext_llc (s : State) (n : Nat) (f : Context → Context) : (modContext s n f).llc = s.llc := rfl
@[simp] theorem modContext_log (s : State) (n : Nat) (f : Context → Context) : (modContext s n f).log = s.log := rfl
@[simp] theorem modContext_weirClock (s : State) (n : Nat) (f : Context → Context) : (modContext s n f).weirClock = s.weirClock := rfl
@[simp] theorem modContext_psn (s : State) (n : Nat) (f : Context → Context) : (modContext s n f).psn = s.psn := rfl
@[simp] theorem modContext_favoured (s : State) (n : Nat) (f : Context → Context) : (modContext s n f).favoured = s.favoured := rfl
@[simp] theorem modContext_favourQueue (s : State) (n : Nat) (f : Context → Context) : (modContext s n f).favourQueue = s.favourQueue := rfl
@[simp] theorem modContext_dev (s : State) (n : Nat) (f : Context → Context) : (modContext s n f).dev = s.dev := rfl
@[simp] theorem modContext_regions (s : State) (n : Nat) (f : Context → Context) : (modContext s n f).regions = s.regions := rfl
@[simp] theorem modContext_grids (s : State) (n : Nat) (f : Context → Context) : (modContext s n f).grids = s.grids := rfl
@[simp] theorem modContext_cohorts (s : State) (n : Nat) (f : Context → Context) : (modContext s n f).cohorts = s.cohorts := rfl
@[simp] theorem modContext_gangs (s : State) (n : Nat) (f : Context → Context) : (modContext s n f).gangs = s.gangs := rfl
@[simp] theorem modContext_cores (s : State) (n : Nat) (f : Context → Context) : (modContext s n f).cores = s.cores := rfl
@[simp] theorem modContext_basins (s : State) (n : Nat) (f : Context → Context) : (modContext s n f).basins = s.basins := rfl
@[simp] theorem modContext_copies (s : State) (n : Nat) (f : Context → Context) : (modContext s n f).copies = s.copies := rfl
@[simp] theorem modContext_handReqs (s : State) (n : Nat) (f : Context → Context) : (modContext s n f).handReqs = s.handReqs := rfl
@[simp] theorem modContext_handedOver (s : State) (n : Nat) (f : Context → Context) : (modContext s n f).handedOver = s.handedOver := rfl
@[simp] theorem modContext_lent (s : State) (n : Nat) (f : Context → Context) : (modContext s n f).lent = s.lent := rfl
@[simp] theorem modContext_sealed (s : State) (n : Nat) (f : Context → Context) : (modContext s n f).sealed = s.sealed := rfl
@[simp] theorem modContext_errors (s : State) (n : Nat) (f : Context → Context) : (modContext s n f).errors = s.errors := rfl
@[simp] theorem modContext_turns (s : State) (n : Nat) (f : Context → Context) : (modContext s n f).turns = s.turns := rfl
@[simp] theorem modContext_errorsLost (s : State) (n : Nat) (f : Context → Context) : (modContext s n f).errorsLost = s.errorsLost := rfl
@[simp] theorem modContext_corrected (s : State) (n : Nat) (f : Context → Context) : (modContext s n f).corrected = s.corrected := rfl
@[simp] theorem modContext_links (s : State) (n : Nat) (f : Context → Context) : (modContext s n f).links = s.links := rfl
@[simp] theorem modContext_periodStart (s : State) (n : Nat) (f : Context → Context) : (modContext s n f).periodStart = s.periodStart := rfl
@[simp] theorem modContext_waiting (s : State) (n : Nat) (f : Context → Context) : (modContext s n f).waiting = s.waiting := rfl
@[simp] theorem modContext_sent (s : State) (n : Nat) (f : Context → Context) : (modContext s n f).sent = s.sent := rfl
@[simp] theorem modContext_nextUid (s : State) (n : Nat) (f : Context → Context) : (modContext s n f).nextUid = s.nextUid := rfl
@[simp] theorem modContext_now (s : State) (n : Nat) (f : Context → Context) : (modContext s n f).now = s.now := rfl
@[simp] theorem modContext_clock (s : State) (n : Nat) (f : Context → Context) : (modContext s n f).clock = s.clock := rfl
@[simp] theorem modContext_fresh (s : State) (n : Nat) (f : Context → Context) : (modContext s n f).fresh = s.fresh := rfl
@[simp] theorem modContext_agenda (s : State) (n : Nat) (f : Context → Context) : (modContext s n f).agenda = s.agenda := rfl
@[simp] theorem modContext_round (s : State) (n : Nat) (f : Context → Context) : (modContext s n f).round = s.round := rfl
@[simp] theorem modContext_iss (s : State) (n : Nat) (f : Context → Context) : (modContext s n f).iss = s.iss := rfl

/-! ## modGrid -/

@[simp] theorem modGrid_mem (s : State) (u : Nat) (f : Grid → Grid) : (modGrid s u f).mem = s.mem := rfl
@[simp] theorem modGrid_lineKey (s : State) (u : Nat) (f : Grid → Grid) : (modGrid s u f).lineKey = s.lineKey := rfl
@[simp] theorem modGrid_keys (s : State) (u : Nat) (f : Grid → Grid) : (modGrid s u f).keys = s.keys := rfl
@[simp] theorem modGrid_wStamp (s : State) (u : Nat) (f : Grid → Grid) : (modGrid s u f).wStamp = s.wStamp := rfl
@[simp] theorem modGrid_rStamp (s : State) (u : Nat) (f : Grid → Grid) : (modGrid s u f).rStamp = s.rStamp := rfl
@[simp] theorem modGrid_relStamp (s : State) (u : Nat) (f : Grid → Grid) : (modGrid s u f).relStamp = s.relStamp := rfl
@[simp] theorem modGrid_linePoison (s : State) (u : Nat) (f : Grid → Grid) : (modGrid s u f).linePoison = s.linePoison := rfl
@[simp] theorem modGrid_llc (s : State) (u : Nat) (f : Grid → Grid) : (modGrid s u f).llc = s.llc := rfl
@[simp] theorem modGrid_log (s : State) (u : Nat) (f : Grid → Grid) : (modGrid s u f).log = s.log := rfl
@[simp] theorem modGrid_weirClock (s : State) (u : Nat) (f : Grid → Grid) : (modGrid s u f).weirClock = s.weirClock := rfl
@[simp] theorem modGrid_psn (s : State) (u : Nat) (f : Grid → Grid) : (modGrid s u f).psn = s.psn := rfl
@[simp] theorem modGrid_favoured (s : State) (u : Nat) (f : Grid → Grid) : (modGrid s u f).favoured = s.favoured := rfl
@[simp] theorem modGrid_favourQueue (s : State) (u : Nat) (f : Grid → Grid) : (modGrid s u f).favourQueue = s.favourQueue := rfl
@[simp] theorem modGrid_dev (s : State) (u : Nat) (f : Grid → Grid) : (modGrid s u f).dev = s.dev := rfl
@[simp] theorem modGrid_contexts (s : State) (u : Nat) (f : Grid → Grid) : (modGrid s u f).contexts = s.contexts := rfl
@[simp] theorem modGrid_regions (s : State) (u : Nat) (f : Grid → Grid) : (modGrid s u f).regions = s.regions := rfl
@[simp] theorem modGrid_cohorts (s : State) (u : Nat) (f : Grid → Grid) : (modGrid s u f).cohorts = s.cohorts := rfl
@[simp] theorem modGrid_gangs (s : State) (u : Nat) (f : Grid → Grid) : (modGrid s u f).gangs = s.gangs := rfl
@[simp] theorem modGrid_cores (s : State) (u : Nat) (f : Grid → Grid) : (modGrid s u f).cores = s.cores := rfl
@[simp] theorem modGrid_basins (s : State) (u : Nat) (f : Grid → Grid) : (modGrid s u f).basins = s.basins := rfl
@[simp] theorem modGrid_copies (s : State) (u : Nat) (f : Grid → Grid) : (modGrid s u f).copies = s.copies := rfl
@[simp] theorem modGrid_handReqs (s : State) (u : Nat) (f : Grid → Grid) : (modGrid s u f).handReqs = s.handReqs := rfl
@[simp] theorem modGrid_handedOver (s : State) (u : Nat) (f : Grid → Grid) : (modGrid s u f).handedOver = s.handedOver := rfl
@[simp] theorem modGrid_lent (s : State) (u : Nat) (f : Grid → Grid) : (modGrid s u f).lent = s.lent := rfl
@[simp] theorem modGrid_sealed (s : State) (u : Nat) (f : Grid → Grid) : (modGrid s u f).sealed = s.sealed := rfl
@[simp] theorem modGrid_errors (s : State) (u : Nat) (f : Grid → Grid) : (modGrid s u f).errors = s.errors := rfl
@[simp] theorem modGrid_turns (s : State) (u : Nat) (f : Grid → Grid) : (modGrid s u f).turns = s.turns := rfl
@[simp] theorem modGrid_errorsLost (s : State) (u : Nat) (f : Grid → Grid) : (modGrid s u f).errorsLost = s.errorsLost := rfl
@[simp] theorem modGrid_corrected (s : State) (u : Nat) (f : Grid → Grid) : (modGrid s u f).corrected = s.corrected := rfl
@[simp] theorem modGrid_links (s : State) (u : Nat) (f : Grid → Grid) : (modGrid s u f).links = s.links := rfl
@[simp] theorem modGrid_periodStart (s : State) (u : Nat) (f : Grid → Grid) : (modGrid s u f).periodStart = s.periodStart := rfl
@[simp] theorem modGrid_waiting (s : State) (u : Nat) (f : Grid → Grid) : (modGrid s u f).waiting = s.waiting := rfl
@[simp] theorem modGrid_sent (s : State) (u : Nat) (f : Grid → Grid) : (modGrid s u f).sent = s.sent := rfl
@[simp] theorem modGrid_nextUid (s : State) (u : Nat) (f : Grid → Grid) : (modGrid s u f).nextUid = s.nextUid := rfl
@[simp] theorem modGrid_now (s : State) (u : Nat) (f : Grid → Grid) : (modGrid s u f).now = s.now := rfl
@[simp] theorem modGrid_clock (s : State) (u : Nat) (f : Grid → Grid) : (modGrid s u f).clock = s.clock := rfl
@[simp] theorem modGrid_fresh (s : State) (u : Nat) (f : Grid → Grid) : (modGrid s u f).fresh = s.fresh := rfl
@[simp] theorem modGrid_agenda (s : State) (u : Nat) (f : Grid → Grid) : (modGrid s u f).agenda = s.agenda := rfl
@[simp] theorem modGrid_round (s : State) (u : Nat) (f : Grid → Grid) : (modGrid s u f).round = s.round := rfl
@[simp] theorem modGrid_iss (s : State) (u : Nat) (f : Grid → Grid) : (modGrid s u f).iss = s.iss := rfl

/-! ## modCohort -/

@[simp] theorem modCohort_mem (s : State) (u : Nat) (f : Cohort → Cohort) : (modCohort s u f).mem = s.mem := rfl
@[simp] theorem modCohort_lineKey (s : State) (u : Nat) (f : Cohort → Cohort) : (modCohort s u f).lineKey = s.lineKey := rfl
@[simp] theorem modCohort_keys (s : State) (u : Nat) (f : Cohort → Cohort) : (modCohort s u f).keys = s.keys := rfl
@[simp] theorem modCohort_wStamp (s : State) (u : Nat) (f : Cohort → Cohort) : (modCohort s u f).wStamp = s.wStamp := rfl
@[simp] theorem modCohort_rStamp (s : State) (u : Nat) (f : Cohort → Cohort) : (modCohort s u f).rStamp = s.rStamp := rfl
@[simp] theorem modCohort_relStamp (s : State) (u : Nat) (f : Cohort → Cohort) : (modCohort s u f).relStamp = s.relStamp := rfl
@[simp] theorem modCohort_linePoison (s : State) (u : Nat) (f : Cohort → Cohort) : (modCohort s u f).linePoison = s.linePoison := rfl
@[simp] theorem modCohort_llc (s : State) (u : Nat) (f : Cohort → Cohort) : (modCohort s u f).llc = s.llc := rfl
@[simp] theorem modCohort_log (s : State) (u : Nat) (f : Cohort → Cohort) : (modCohort s u f).log = s.log := rfl
@[simp] theorem modCohort_weirClock (s : State) (u : Nat) (f : Cohort → Cohort) : (modCohort s u f).weirClock = s.weirClock := rfl
@[simp] theorem modCohort_psn (s : State) (u : Nat) (f : Cohort → Cohort) : (modCohort s u f).psn = s.psn := rfl
@[simp] theorem modCohort_favoured (s : State) (u : Nat) (f : Cohort → Cohort) : (modCohort s u f).favoured = s.favoured := rfl
@[simp] theorem modCohort_favourQueue (s : State) (u : Nat) (f : Cohort → Cohort) : (modCohort s u f).favourQueue = s.favourQueue := rfl
@[simp] theorem modCohort_dev (s : State) (u : Nat) (f : Cohort → Cohort) : (modCohort s u f).dev = s.dev := rfl
@[simp] theorem modCohort_contexts (s : State) (u : Nat) (f : Cohort → Cohort) : (modCohort s u f).contexts = s.contexts := rfl
@[simp] theorem modCohort_regions (s : State) (u : Nat) (f : Cohort → Cohort) : (modCohort s u f).regions = s.regions := rfl
@[simp] theorem modCohort_grids (s : State) (u : Nat) (f : Cohort → Cohort) : (modCohort s u f).grids = s.grids := rfl
@[simp] theorem modCohort_gangs (s : State) (u : Nat) (f : Cohort → Cohort) : (modCohort s u f).gangs = s.gangs := rfl
@[simp] theorem modCohort_cores (s : State) (u : Nat) (f : Cohort → Cohort) : (modCohort s u f).cores = s.cores := rfl
@[simp] theorem modCohort_basins (s : State) (u : Nat) (f : Cohort → Cohort) : (modCohort s u f).basins = s.basins := rfl
@[simp] theorem modCohort_copies (s : State) (u : Nat) (f : Cohort → Cohort) : (modCohort s u f).copies = s.copies := rfl
@[simp] theorem modCohort_handReqs (s : State) (u : Nat) (f : Cohort → Cohort) : (modCohort s u f).handReqs = s.handReqs := rfl
@[simp] theorem modCohort_handedOver (s : State) (u : Nat) (f : Cohort → Cohort) : (modCohort s u f).handedOver = s.handedOver := rfl
@[simp] theorem modCohort_lent (s : State) (u : Nat) (f : Cohort → Cohort) : (modCohort s u f).lent = s.lent := rfl
@[simp] theorem modCohort_sealed (s : State) (u : Nat) (f : Cohort → Cohort) : (modCohort s u f).sealed = s.sealed := rfl
@[simp] theorem modCohort_errors (s : State) (u : Nat) (f : Cohort → Cohort) : (modCohort s u f).errors = s.errors := rfl
@[simp] theorem modCohort_turns (s : State) (u : Nat) (f : Cohort → Cohort) : (modCohort s u f).turns = s.turns := rfl
@[simp] theorem modCohort_errorsLost (s : State) (u : Nat) (f : Cohort → Cohort) : (modCohort s u f).errorsLost = s.errorsLost := rfl
@[simp] theorem modCohort_corrected (s : State) (u : Nat) (f : Cohort → Cohort) : (modCohort s u f).corrected = s.corrected := rfl
@[simp] theorem modCohort_links (s : State) (u : Nat) (f : Cohort → Cohort) : (modCohort s u f).links = s.links := rfl
@[simp] theorem modCohort_periodStart (s : State) (u : Nat) (f : Cohort → Cohort) : (modCohort s u f).periodStart = s.periodStart := rfl
@[simp] theorem modCohort_waiting (s : State) (u : Nat) (f : Cohort → Cohort) : (modCohort s u f).waiting = s.waiting := rfl
@[simp] theorem modCohort_sent (s : State) (u : Nat) (f : Cohort → Cohort) : (modCohort s u f).sent = s.sent := rfl
@[simp] theorem modCohort_nextUid (s : State) (u : Nat) (f : Cohort → Cohort) : (modCohort s u f).nextUid = s.nextUid := rfl
@[simp] theorem modCohort_now (s : State) (u : Nat) (f : Cohort → Cohort) : (modCohort s u f).now = s.now := rfl
@[simp] theorem modCohort_clock (s : State) (u : Nat) (f : Cohort → Cohort) : (modCohort s u f).clock = s.clock := rfl
@[simp] theorem modCohort_fresh (s : State) (u : Nat) (f : Cohort → Cohort) : (modCohort s u f).fresh = s.fresh := rfl
@[simp] theorem modCohort_agenda (s : State) (u : Nat) (f : Cohort → Cohort) : (modCohort s u f).agenda = s.agenda := rfl
@[simp] theorem modCohort_round (s : State) (u : Nat) (f : Cohort → Cohort) : (modCohort s u f).round = s.round := rfl
@[simp] theorem modCohort_iss (s : State) (u : Nat) (f : Cohort → Cohort) : (modCohort s u f).iss = s.iss := rfl

/-! ## modWg -/

@[simp] theorem modWg_mem (s : State) (u w : Nat) (f : Workgroup → Workgroup) : (modWg s u w f).mem = s.mem := rfl
@[simp] theorem modWg_lineKey (s : State) (u w : Nat) (f : Workgroup → Workgroup) : (modWg s u w f).lineKey = s.lineKey := rfl
@[simp] theorem modWg_keys (s : State) (u w : Nat) (f : Workgroup → Workgroup) : (modWg s u w f).keys = s.keys := rfl
@[simp] theorem modWg_wStamp (s : State) (u w : Nat) (f : Workgroup → Workgroup) : (modWg s u w f).wStamp = s.wStamp := rfl
@[simp] theorem modWg_rStamp (s : State) (u w : Nat) (f : Workgroup → Workgroup) : (modWg s u w f).rStamp = s.rStamp := rfl
@[simp] theorem modWg_relStamp (s : State) (u w : Nat) (f : Workgroup → Workgroup) : (modWg s u w f).relStamp = s.relStamp := rfl
@[simp] theorem modWg_linePoison (s : State) (u w : Nat) (f : Workgroup → Workgroup) : (modWg s u w f).linePoison = s.linePoison := rfl
@[simp] theorem modWg_llc (s : State) (u w : Nat) (f : Workgroup → Workgroup) : (modWg s u w f).llc = s.llc := rfl
@[simp] theorem modWg_log (s : State) (u w : Nat) (f : Workgroup → Workgroup) : (modWg s u w f).log = s.log := rfl
@[simp] theorem modWg_weirClock (s : State) (u w : Nat) (f : Workgroup → Workgroup) : (modWg s u w f).weirClock = s.weirClock := rfl
@[simp] theorem modWg_psn (s : State) (u w : Nat) (f : Workgroup → Workgroup) : (modWg s u w f).psn = s.psn := rfl
@[simp] theorem modWg_favoured (s : State) (u w : Nat) (f : Workgroup → Workgroup) : (modWg s u w f).favoured = s.favoured := rfl
@[simp] theorem modWg_favourQueue (s : State) (u w : Nat) (f : Workgroup → Workgroup) : (modWg s u w f).favourQueue = s.favourQueue := rfl
@[simp] theorem modWg_dev (s : State) (u w : Nat) (f : Workgroup → Workgroup) : (modWg s u w f).dev = s.dev := rfl
@[simp] theorem modWg_contexts (s : State) (u w : Nat) (f : Workgroup → Workgroup) : (modWg s u w f).contexts = s.contexts := rfl
@[simp] theorem modWg_regions (s : State) (u w : Nat) (f : Workgroup → Workgroup) : (modWg s u w f).regions = s.regions := rfl
@[simp] theorem modWg_grids (s : State) (u w : Nat) (f : Workgroup → Workgroup) : (modWg s u w f).grids = s.grids := rfl
@[simp] theorem modWg_gangs (s : State) (u w : Nat) (f : Workgroup → Workgroup) : (modWg s u w f).gangs = s.gangs := rfl
@[simp] theorem modWg_cores (s : State) (u w : Nat) (f : Workgroup → Workgroup) : (modWg s u w f).cores = s.cores := rfl
@[simp] theorem modWg_basins (s : State) (u w : Nat) (f : Workgroup → Workgroup) : (modWg s u w f).basins = s.basins := rfl
@[simp] theorem modWg_copies (s : State) (u w : Nat) (f : Workgroup → Workgroup) : (modWg s u w f).copies = s.copies := rfl
@[simp] theorem modWg_handReqs (s : State) (u w : Nat) (f : Workgroup → Workgroup) : (modWg s u w f).handReqs = s.handReqs := rfl
@[simp] theorem modWg_handedOver (s : State) (u w : Nat) (f : Workgroup → Workgroup) : (modWg s u w f).handedOver = s.handedOver := rfl
@[simp] theorem modWg_lent (s : State) (u w : Nat) (f : Workgroup → Workgroup) : (modWg s u w f).lent = s.lent := rfl
@[simp] theorem modWg_sealed (s : State) (u w : Nat) (f : Workgroup → Workgroup) : (modWg s u w f).sealed = s.sealed := rfl
@[simp] theorem modWg_errors (s : State) (u w : Nat) (f : Workgroup → Workgroup) : (modWg s u w f).errors = s.errors := rfl
@[simp] theorem modWg_turns (s : State) (u w : Nat) (f : Workgroup → Workgroup) : (modWg s u w f).turns = s.turns := rfl
@[simp] theorem modWg_errorsLost (s : State) (u w : Nat) (f : Workgroup → Workgroup) : (modWg s u w f).errorsLost = s.errorsLost := rfl
@[simp] theorem modWg_corrected (s : State) (u w : Nat) (f : Workgroup → Workgroup) : (modWg s u w f).corrected = s.corrected := rfl
@[simp] theorem modWg_links (s : State) (u w : Nat) (f : Workgroup → Workgroup) : (modWg s u w f).links = s.links := rfl
@[simp] theorem modWg_periodStart (s : State) (u w : Nat) (f : Workgroup → Workgroup) : (modWg s u w f).periodStart = s.periodStart := rfl
@[simp] theorem modWg_waiting (s : State) (u w : Nat) (f : Workgroup → Workgroup) : (modWg s u w f).waiting = s.waiting := rfl
@[simp] theorem modWg_sent (s : State) (u w : Nat) (f : Workgroup → Workgroup) : (modWg s u w f).sent = s.sent := rfl
@[simp] theorem modWg_nextUid (s : State) (u w : Nat) (f : Workgroup → Workgroup) : (modWg s u w f).nextUid = s.nextUid := rfl
@[simp] theorem modWg_now (s : State) (u w : Nat) (f : Workgroup → Workgroup) : (modWg s u w f).now = s.now := rfl
@[simp] theorem modWg_clock (s : State) (u w : Nat) (f : Workgroup → Workgroup) : (modWg s u w f).clock = s.clock := rfl
@[simp] theorem modWg_fresh (s : State) (u w : Nat) (f : Workgroup → Workgroup) : (modWg s u w f).fresh = s.fresh := rfl
@[simp] theorem modWg_agenda (s : State) (u w : Nat) (f : Workgroup → Workgroup) : (modWg s u w f).agenda = s.agenda := rfl
@[simp] theorem modWg_round (s : State) (u w : Nat) (f : Workgroup → Workgroup) : (modWg s u w f).round = s.round := rfl
@[simp] theorem modWg_iss (s : State) (u w : Nat) (f : Workgroup → Workgroup) : (modWg s u w f).iss = s.iss := rfl

/-! ## rawWrite -/

@[simp] theorem rawWrite_lineKey (s : State) (a : Nat) (bs : List Byte) : (rawWrite s a bs).lineKey = s.lineKey := rfl
@[simp] theorem rawWrite_keys (s : State) (a : Nat) (bs : List Byte) : (rawWrite s a bs).keys = s.keys := rfl
@[simp] theorem rawWrite_wStamp (s : State) (a : Nat) (bs : List Byte) : (rawWrite s a bs).wStamp = s.wStamp := rfl
@[simp] theorem rawWrite_rStamp (s : State) (a : Nat) (bs : List Byte) : (rawWrite s a bs).rStamp = s.rStamp := rfl
@[simp] theorem rawWrite_relStamp (s : State) (a : Nat) (bs : List Byte) : (rawWrite s a bs).relStamp = s.relStamp := rfl
@[simp] theorem rawWrite_linePoison (s : State) (a : Nat) (bs : List Byte) : (rawWrite s a bs).linePoison = s.linePoison := rfl
@[simp] theorem rawWrite_llc (s : State) (a : Nat) (bs : List Byte) : (rawWrite s a bs).llc = s.llc := rfl
@[simp] theorem rawWrite_log (s : State) (a : Nat) (bs : List Byte) : (rawWrite s a bs).log = s.log := rfl
@[simp] theorem rawWrite_weirClock (s : State) (a : Nat) (bs : List Byte) : (rawWrite s a bs).weirClock = s.weirClock := rfl
@[simp] theorem rawWrite_psn (s : State) (a : Nat) (bs : List Byte) : (rawWrite s a bs).psn = s.psn := rfl
@[simp] theorem rawWrite_favoured (s : State) (a : Nat) (bs : List Byte) : (rawWrite s a bs).favoured = s.favoured := rfl
@[simp] theorem rawWrite_favourQueue (s : State) (a : Nat) (bs : List Byte) : (rawWrite s a bs).favourQueue = s.favourQueue := rfl
@[simp] theorem rawWrite_dev (s : State) (a : Nat) (bs : List Byte) : (rawWrite s a bs).dev = s.dev := rfl
@[simp] theorem rawWrite_contexts (s : State) (a : Nat) (bs : List Byte) : (rawWrite s a bs).contexts = s.contexts := rfl
@[simp] theorem rawWrite_regions (s : State) (a : Nat) (bs : List Byte) : (rawWrite s a bs).regions = s.regions := rfl
@[simp] theorem rawWrite_grids (s : State) (a : Nat) (bs : List Byte) : (rawWrite s a bs).grids = s.grids := rfl
@[simp] theorem rawWrite_cohorts (s : State) (a : Nat) (bs : List Byte) : (rawWrite s a bs).cohorts = s.cohorts := rfl
@[simp] theorem rawWrite_gangs (s : State) (a : Nat) (bs : List Byte) : (rawWrite s a bs).gangs = s.gangs := rfl
@[simp] theorem rawWrite_cores (s : State) (a : Nat) (bs : List Byte) : (rawWrite s a bs).cores = s.cores := rfl
@[simp] theorem rawWrite_basins (s : State) (a : Nat) (bs : List Byte) : (rawWrite s a bs).basins = s.basins := rfl
@[simp] theorem rawWrite_copies (s : State) (a : Nat) (bs : List Byte) : (rawWrite s a bs).copies = s.copies := rfl
@[simp] theorem rawWrite_handReqs (s : State) (a : Nat) (bs : List Byte) : (rawWrite s a bs).handReqs = s.handReqs := rfl
@[simp] theorem rawWrite_handedOver (s : State) (a : Nat) (bs : List Byte) : (rawWrite s a bs).handedOver = s.handedOver := rfl
@[simp] theorem rawWrite_lent (s : State) (a : Nat) (bs : List Byte) : (rawWrite s a bs).lent = s.lent := rfl
@[simp] theorem rawWrite_sealed (s : State) (a : Nat) (bs : List Byte) : (rawWrite s a bs).sealed = s.sealed := rfl
@[simp] theorem rawWrite_errors (s : State) (a : Nat) (bs : List Byte) : (rawWrite s a bs).errors = s.errors := rfl
@[simp] theorem rawWrite_turns (s : State) (a : Nat) (bs : List Byte) : (rawWrite s a bs).turns = s.turns := rfl
@[simp] theorem rawWrite_errorsLost (s : State) (a : Nat) (bs : List Byte) : (rawWrite s a bs).errorsLost = s.errorsLost := rfl
@[simp] theorem rawWrite_corrected (s : State) (a : Nat) (bs : List Byte) : (rawWrite s a bs).corrected = s.corrected := rfl
@[simp] theorem rawWrite_links (s : State) (a : Nat) (bs : List Byte) : (rawWrite s a bs).links = s.links := rfl
@[simp] theorem rawWrite_periodStart (s : State) (a : Nat) (bs : List Byte) : (rawWrite s a bs).periodStart = s.periodStart := rfl
@[simp] theorem rawWrite_waiting (s : State) (a : Nat) (bs : List Byte) : (rawWrite s a bs).waiting = s.waiting := rfl
@[simp] theorem rawWrite_sent (s : State) (a : Nat) (bs : List Byte) : (rawWrite s a bs).sent = s.sent := rfl
@[simp] theorem rawWrite_nextUid (s : State) (a : Nat) (bs : List Byte) : (rawWrite s a bs).nextUid = s.nextUid := rfl
@[simp] theorem rawWrite_now (s : State) (a : Nat) (bs : List Byte) : (rawWrite s a bs).now = s.now := rfl
@[simp] theorem rawWrite_clock (s : State) (a : Nat) (bs : List Byte) : (rawWrite s a bs).clock = s.clock := rfl
@[simp] theorem rawWrite_fresh (s : State) (a : Nat) (bs : List Byte) : (rawWrite s a bs).fresh = s.fresh := rfl
@[simp] theorem rawWrite_agenda (s : State) (a : Nat) (bs : List Byte) : (rawWrite s a bs).agenda = s.agenda := rfl
@[simp] theorem rawWrite_round (s : State) (a : Nat) (bs : List Byte) : (rawWrite s a bs).round = s.round := rfl
@[simp] theorem rawWrite_iss (s : State) (a : Nat) (bs : List Byte) : (rawWrite s a bs).iss = s.iss := rfl

/-! ## setCopy -/

@[simp] theorem setCopy_mem (s : State) (c : CopyCmd) : (setCopy s c).mem = s.mem := rfl
@[simp] theorem setCopy_lineKey (s : State) (c : CopyCmd) : (setCopy s c).lineKey = s.lineKey := rfl
@[simp] theorem setCopy_keys (s : State) (c : CopyCmd) : (setCopy s c).keys = s.keys := rfl
@[simp] theorem setCopy_wStamp (s : State) (c : CopyCmd) : (setCopy s c).wStamp = s.wStamp := rfl
@[simp] theorem setCopy_rStamp (s : State) (c : CopyCmd) : (setCopy s c).rStamp = s.rStamp := rfl
@[simp] theorem setCopy_relStamp (s : State) (c : CopyCmd) : (setCopy s c).relStamp = s.relStamp := rfl
@[simp] theorem setCopy_linePoison (s : State) (c : CopyCmd) : (setCopy s c).linePoison = s.linePoison := rfl
@[simp] theorem setCopy_llc (s : State) (c : CopyCmd) : (setCopy s c).llc = s.llc := rfl
@[simp] theorem setCopy_log (s : State) (c : CopyCmd) : (setCopy s c).log = s.log := rfl
@[simp] theorem setCopy_weirClock (s : State) (c : CopyCmd) : (setCopy s c).weirClock = s.weirClock := rfl
@[simp] theorem setCopy_psn (s : State) (c : CopyCmd) : (setCopy s c).psn = s.psn := rfl
@[simp] theorem setCopy_favoured (s : State) (c : CopyCmd) : (setCopy s c).favoured = s.favoured := rfl
@[simp] theorem setCopy_favourQueue (s : State) (c : CopyCmd) : (setCopy s c).favourQueue = s.favourQueue := rfl
@[simp] theorem setCopy_dev (s : State) (c : CopyCmd) : (setCopy s c).dev = s.dev := rfl
@[simp] theorem setCopy_contexts (s : State) (c : CopyCmd) : (setCopy s c).contexts = s.contexts := rfl
@[simp] theorem setCopy_regions (s : State) (c : CopyCmd) : (setCopy s c).regions = s.regions := rfl
@[simp] theorem setCopy_grids (s : State) (c : CopyCmd) : (setCopy s c).grids = s.grids := rfl
@[simp] theorem setCopy_cohorts (s : State) (c : CopyCmd) : (setCopy s c).cohorts = s.cohorts := rfl
@[simp] theorem setCopy_gangs (s : State) (c : CopyCmd) : (setCopy s c).gangs = s.gangs := rfl
@[simp] theorem setCopy_cores (s : State) (c : CopyCmd) : (setCopy s c).cores = s.cores := rfl
@[simp] theorem setCopy_basins (s : State) (c : CopyCmd) : (setCopy s c).basins = s.basins := rfl
@[simp] theorem setCopy_handReqs (s : State) (c : CopyCmd) : (setCopy s c).handReqs = s.handReqs := rfl
@[simp] theorem setCopy_handedOver (s : State) (c : CopyCmd) : (setCopy s c).handedOver = s.handedOver := rfl
@[simp] theorem setCopy_lent (s : State) (c : CopyCmd) : (setCopy s c).lent = s.lent := rfl
@[simp] theorem setCopy_sealed (s : State) (c : CopyCmd) : (setCopy s c).sealed = s.sealed := rfl
@[simp] theorem setCopy_errors (s : State) (c : CopyCmd) : (setCopy s c).errors = s.errors := rfl
@[simp] theorem setCopy_turns (s : State) (c : CopyCmd) : (setCopy s c).turns = s.turns := rfl
@[simp] theorem setCopy_errorsLost (s : State) (c : CopyCmd) : (setCopy s c).errorsLost = s.errorsLost := rfl
@[simp] theorem setCopy_corrected (s : State) (c : CopyCmd) : (setCopy s c).corrected = s.corrected := rfl
@[simp] theorem setCopy_links (s : State) (c : CopyCmd) : (setCopy s c).links = s.links := rfl
@[simp] theorem setCopy_periodStart (s : State) (c : CopyCmd) : (setCopy s c).periodStart = s.periodStart := rfl
@[simp] theorem setCopy_waiting (s : State) (c : CopyCmd) : (setCopy s c).waiting = s.waiting := rfl
@[simp] theorem setCopy_sent (s : State) (c : CopyCmd) : (setCopy s c).sent = s.sent := rfl
@[simp] theorem setCopy_nextUid (s : State) (c : CopyCmd) : (setCopy s c).nextUid = s.nextUid := rfl
@[simp] theorem setCopy_now (s : State) (c : CopyCmd) : (setCopy s c).now = s.now := rfl
@[simp] theorem setCopy_clock (s : State) (c : CopyCmd) : (setCopy s c).clock = s.clock := rfl
@[simp] theorem setCopy_fresh (s : State) (c : CopyCmd) : (setCopy s c).fresh = s.fresh := rfl
@[simp] theorem setCopy_agenda (s : State) (c : CopyCmd) : (setCopy s c).agenda = s.agenda := rfl
@[simp] theorem setCopy_round (s : State) (c : CopyCmd) : (setCopy s c).round = s.round := rfl
@[simp] theorem setCopy_iss (s : State) (c : CopyCmd) : (setCopy s c).iss = s.iss := rfl

/-! ## withGangState -/

@[simp] theorem withGangState_mem (s : State) (g : Gang) : (withGangState s g).mem = s.mem := rfl
@[simp] theorem withGangState_lineKey (s : State) (g : Gang) : (withGangState s g).lineKey = s.lineKey := rfl
@[simp] theorem withGangState_keys (s : State) (g : Gang) : (withGangState s g).keys = s.keys := rfl
@[simp] theorem withGangState_wStamp (s : State) (g : Gang) : (withGangState s g).wStamp = s.wStamp := rfl
@[simp] theorem withGangState_rStamp (s : State) (g : Gang) : (withGangState s g).rStamp = s.rStamp := rfl
@[simp] theorem withGangState_relStamp (s : State) (g : Gang) : (withGangState s g).relStamp = s.relStamp := rfl
@[simp] theorem withGangState_linePoison (s : State) (g : Gang) : (withGangState s g).linePoison = s.linePoison := rfl
@[simp] theorem withGangState_llc (s : State) (g : Gang) : (withGangState s g).llc = s.llc := rfl
@[simp] theorem withGangState_log (s : State) (g : Gang) : (withGangState s g).log = s.log := rfl
@[simp] theorem withGangState_weirClock (s : State) (g : Gang) : (withGangState s g).weirClock = s.weirClock := rfl
@[simp] theorem withGangState_psn (s : State) (g : Gang) : (withGangState s g).psn = s.psn := rfl
@[simp] theorem withGangState_favoured (s : State) (g : Gang) : (withGangState s g).favoured = s.favoured := rfl
@[simp] theorem withGangState_favourQueue (s : State) (g : Gang) : (withGangState s g).favourQueue = s.favourQueue := rfl
@[simp] theorem withGangState_dev (s : State) (g : Gang) : (withGangState s g).dev = s.dev := rfl
@[simp] theorem withGangState_contexts (s : State) (g : Gang) : (withGangState s g).contexts = s.contexts := rfl
@[simp] theorem withGangState_regions (s : State) (g : Gang) : (withGangState s g).regions = s.regions := rfl
@[simp] theorem withGangState_grids (s : State) (g : Gang) : (withGangState s g).grids = s.grids := rfl
@[simp] theorem withGangState_cohorts (s : State) (g : Gang) : (withGangState s g).cohorts = s.cohorts := rfl
@[simp] theorem withGangState_cores (s : State) (g : Gang) : (withGangState s g).cores = s.cores := rfl
@[simp] theorem withGangState_basins (s : State) (g : Gang) : (withGangState s g).basins = s.basins := rfl
@[simp] theorem withGangState_copies (s : State) (g : Gang) : (withGangState s g).copies = s.copies := rfl
@[simp] theorem withGangState_handReqs (s : State) (g : Gang) : (withGangState s g).handReqs = s.handReqs := rfl
@[simp] theorem withGangState_handedOver (s : State) (g : Gang) : (withGangState s g).handedOver = s.handedOver := rfl
@[simp] theorem withGangState_lent (s : State) (g : Gang) : (withGangState s g).lent = s.lent := rfl
@[simp] theorem withGangState_sealed (s : State) (g : Gang) : (withGangState s g).sealed = s.sealed := rfl
@[simp] theorem withGangState_errors (s : State) (g : Gang) : (withGangState s g).errors = s.errors := rfl
@[simp] theorem withGangState_turns (s : State) (g : Gang) : (withGangState s g).turns = s.turns := rfl
@[simp] theorem withGangState_errorsLost (s : State) (g : Gang) : (withGangState s g).errorsLost = s.errorsLost := rfl
@[simp] theorem withGangState_corrected (s : State) (g : Gang) : (withGangState s g).corrected = s.corrected := rfl
@[simp] theorem withGangState_links (s : State) (g : Gang) : (withGangState s g).links = s.links := rfl
@[simp] theorem withGangState_periodStart (s : State) (g : Gang) : (withGangState s g).periodStart = s.periodStart := rfl
@[simp] theorem withGangState_waiting (s : State) (g : Gang) : (withGangState s g).waiting = s.waiting := rfl
@[simp] theorem withGangState_sent (s : State) (g : Gang) : (withGangState s g).sent = s.sent := rfl
@[simp] theorem withGangState_nextUid (s : State) (g : Gang) : (withGangState s g).nextUid = s.nextUid := rfl
@[simp] theorem withGangState_now (s : State) (g : Gang) : (withGangState s g).now = s.now := rfl
@[simp] theorem withGangState_clock (s : State) (g : Gang) : (withGangState s g).clock = s.clock := rfl
@[simp] theorem withGangState_fresh (s : State) (g : Gang) : (withGangState s g).fresh = s.fresh := rfl
@[simp] theorem withGangState_agenda (s : State) (g : Gang) : (withGangState s g).agenda = s.agenda := rfl
@[simp] theorem withGangState_round (s : State) (g : Gang) : (withGangState s g).round = s.round := rfl
@[simp] theorem withGangState_iss (s : State) (g : Gang) : (withGangState s g).iss = s.iss := rfl

/-! ## Lookups -/

@[simp] theorem coreOf_setGang (s : State) (g : Gang) (i : Nat) : coreOf (setGang s g) i = coreOf s i := rfl
@[simp] theorem basinOf_setGang (s : State) (g : Gang) (i : Nat) : basinOf (setGang s g) i = basinOf s i := rfl
@[simp] theorem region_setGang (s : State) (g : Gang) (i : Nat) : region? (setGang s g) i = region? s i := rfl
@[simp] theorem context_setGang (s : State) (g : Gang) (i : Nat) : context? (setGang s g) i = context? s i := rfl
@[simp] theorem grid_setGang (s : State) (g : Gang) (i : Nat) : grid? (setGang s g) i = grid? s i := rfl
@[simp] theorem cohort_setGang (s : State) (g : Gang) (i : Nat) : cohort? (setGang s g) i = cohort? s i := rfl
@[simp] theorem keyPair_setGang (s : State) (g : Gang) (i : Nat) : keyPair (setGang s g) i = keyPair s i := rfl
@[simp] theorem memByte_setGang (s : State) (g : Gang) (i : Nat) : memByte (setGang s g) i = memByte s i := rfl
@[simp] theorem coreOf_modGang (s : State) (u : Nat) (f : Gang → Gang) (i : Nat) : coreOf (modGang s u f) i = coreOf s i := rfl
@[simp] theorem basinOf_modGang (s : State) (u : Nat) (f : Gang → Gang) (i : Nat) : basinOf (modGang s u f) i = basinOf s i := rfl
@[simp] theorem region_modGang (s : State) (u : Nat) (f : Gang → Gang) (i : Nat) : region? (modGang s u f) i = region? s i := rfl
@[simp] theorem context_modGang (s : State) (u : Nat) (f : Gang → Gang) (i : Nat) : context? (modGang s u f) i = context? s i := rfl
@[simp] theorem grid_modGang (s : State) (u : Nat) (f : Gang → Gang) (i : Nat) : grid? (modGang s u f) i = grid? s i := rfl
@[simp] theorem cohort_modGang (s : State) (u : Nat) (f : Gang → Gang) (i : Nat) : cohort? (modGang s u f) i = cohort? s i := rfl
@[simp] theorem keyPair_modGang (s : State) (u : Nat) (f : Gang → Gang) (i : Nat) : keyPair (modGang s u f) i = keyPair s i := rfl
@[simp] theorem memByte_modGang (s : State) (u : Nat) (f : Gang → Gang) (i : Nat) : memByte (modGang s u f) i = memByte s i := rfl
@[simp] theorem gang_setCore (s : State) (c : Nat) (x : Core) (i : Nat) : gang? (setCore s c x) i = gang? s i := rfl
@[simp] theorem basinOf_setCore (s : State) (c : Nat) (x : Core) (i : Nat) : basinOf (setCore s c x) i = basinOf s i := rfl
@[simp] theorem region_setCore (s : State) (c : Nat) (x : Core) (i : Nat) : region? (setCore s c x) i = region? s i := rfl
@[simp] theorem context_setCore (s : State) (c : Nat) (x : Core) (i : Nat) : context? (setCore s c x) i = context? s i := rfl
@[simp] theorem grid_setCore (s : State) (c : Nat) (x : Core) (i : Nat) : grid? (setCore s c x) i = grid? s i := rfl
@[simp] theorem cohort_setCore (s : State) (c : Nat) (x : Core) (i : Nat) : cohort? (setCore s c x) i = cohort? s i := rfl
@[simp] theorem keyPair_setCore (s : State) (c : Nat) (x : Core) (i : Nat) : keyPair (setCore s c x) i = keyPair s i := rfl
@[simp] theorem memByte_setCore (s : State) (c : Nat) (x : Core) (i : Nat) : memByte (setCore s c x) i = memByte s i := rfl
@[simp] theorem gang_modCore (s : State) (c : Nat) (f : Core → Core) (i : Nat) : gang? (modCore s c f) i = gang? s i := rfl
@[simp] theorem basinOf_modCore (s : State) (c : Nat) (f : Core → Core) (i : Nat) : basinOf (modCore s c f) i = basinOf s i := rfl
@[simp] theorem region_modCore (s : State) (c : Nat) (f : Core → Core) (i : Nat) : region? (modCore s c f) i = region? s i := rfl
@[simp] theorem context_modCore (s : State) (c : Nat) (f : Core → Core) (i : Nat) : context? (modCore s c f) i = context? s i := rfl
@[simp] theorem grid_modCore (s : State) (c : Nat) (f : Core → Core) (i : Nat) : grid? (modCore s c f) i = grid? s i := rfl
@[simp] theorem cohort_modCore (s : State) (c : Nat) (f : Core → Core) (i : Nat) : cohort? (modCore s c f) i = cohort? s i := rfl
@[simp] theorem keyPair_modCore (s : State) (c : Nat) (f : Core → Core) (i : Nat) : keyPair (modCore s c f) i = keyPair s i := rfl
@[simp] theorem memByte_modCore (s : State) (c : Nat) (f : Core → Core) (i : Nat) : memByte (modCore s c f) i = memByte s i := rfl
@[simp] theorem gang_setBarObj (s : State) (c o : Nat) (b : BarObj) (i : Nat) : gang? (setBarObj s c o b) i = gang? s i := rfl
@[simp] theorem basinOf_setBarObj (s : State) (c o : Nat) (b : BarObj) (i : Nat) : basinOf (setBarObj s c o b) i = basinOf s i := rfl
@[simp] theorem region_setBarObj (s : State) (c o : Nat) (b : BarObj) (i : Nat) : region? (setBarObj s c o b) i = region? s i := rfl
@[simp] theorem context_setBarObj (s : State) (c o : Nat) (b : BarObj) (i : Nat) : context? (setBarObj s c o b) i = context? s i := rfl
@[simp] theorem grid_setBarObj (s : State) (c o : Nat) (b : BarObj) (i : Nat) : grid? (setBarObj s c o b) i = grid? s i := rfl
@[simp] theorem cohort_setBarObj (s : State) (c o : Nat) (b : BarObj) (i : Nat) : cohort? (setBarObj s c o b) i = cohort? s i := rfl
@[simp] theorem keyPair_setBarObj (s : State) (c o : Nat) (b : BarObj) (i : Nat) : keyPair (setBarObj s c o b) i = keyPair s i := rfl
@[simp] theorem memByte_setBarObj (s : State) (c o : Nat) (b : BarObj) (i : Nat) : memByte (setBarObj s c o b) i = memByte s i := rfl
@[simp] theorem gang_setBasin (s : State) (b : Nat) (x : Basin) (i : Nat) : gang? (setBasin s b x) i = gang? s i := rfl
@[simp] theorem coreOf_setBasin (s : State) (b : Nat) (x : Basin) (i : Nat) : coreOf (setBasin s b x) i = coreOf s i := rfl
@[simp] theorem region_setBasin (s : State) (b : Nat) (x : Basin) (i : Nat) : region? (setBasin s b x) i = region? s i := rfl
@[simp] theorem context_setBasin (s : State) (b : Nat) (x : Basin) (i : Nat) : context? (setBasin s b x) i = context? s i := rfl
@[simp] theorem grid_setBasin (s : State) (b : Nat) (x : Basin) (i : Nat) : grid? (setBasin s b x) i = grid? s i := rfl
@[simp] theorem cohort_setBasin (s : State) (b : Nat) (x : Basin) (i : Nat) : cohort? (setBasin s b x) i = cohort? s i := rfl
@[simp] theorem keyPair_setBasin (s : State) (b : Nat) (x : Basin) (i : Nat) : keyPair (setBasin s b x) i = keyPair s i := rfl
@[simp] theorem memByte_setBasin (s : State) (b : Nat) (x : Basin) (i : Nat) : memByte (setBasin s b x) i = memByte s i := rfl
@[simp] theorem gang_modRegion (s : State) (a : Nat) (f : Region → Region) (i : Nat) : gang? (modRegion s a f) i = gang? s i := rfl
@[simp] theorem coreOf_modRegion (s : State) (a : Nat) (f : Region → Region) (i : Nat) : coreOf (modRegion s a f) i = coreOf s i := rfl
@[simp] theorem basinOf_modRegion (s : State) (a : Nat) (f : Region → Region) (i : Nat) : basinOf (modRegion s a f) i = basinOf s i := rfl
@[simp] theorem context_modRegion (s : State) (a : Nat) (f : Region → Region) (i : Nat) : context? (modRegion s a f) i = context? s i := rfl
@[simp] theorem grid_modRegion (s : State) (a : Nat) (f : Region → Region) (i : Nat) : grid? (modRegion s a f) i = grid? s i := rfl
@[simp] theorem cohort_modRegion (s : State) (a : Nat) (f : Region → Region) (i : Nat) : cohort? (modRegion s a f) i = cohort? s i := rfl
@[simp] theorem keyPair_modRegion (s : State) (a : Nat) (f : Region → Region) (i : Nat) : keyPair (modRegion s a f) i = keyPair s i := rfl
@[simp] theorem memByte_modRegion (s : State) (a : Nat) (f : Region → Region) (i : Nat) : memByte (modRegion s a f) i = memByte s i := rfl
@[simp] theorem gang_modContext (s : State) (n : Nat) (f : Context → Context) (i : Nat) : gang? (modContext s n f) i = gang? s i := rfl
@[simp] theorem coreOf_modContext (s : State) (n : Nat) (f : Context → Context) (i : Nat) : coreOf (modContext s n f) i = coreOf s i := rfl
@[simp] theorem basinOf_modContext (s : State) (n : Nat) (f : Context → Context) (i : Nat) : basinOf (modContext s n f) i = basinOf s i := rfl
@[simp] theorem region_modContext (s : State) (n : Nat) (f : Context → Context) (i : Nat) : region? (modContext s n f) i = region? s i := rfl
@[simp] theorem grid_modContext (s : State) (n : Nat) (f : Context → Context) (i : Nat) : grid? (modContext s n f) i = grid? s i := rfl
@[simp] theorem cohort_modContext (s : State) (n : Nat) (f : Context → Context) (i : Nat) : cohort? (modContext s n f) i = cohort? s i := rfl
@[simp] theorem keyPair_modContext (s : State) (n : Nat) (f : Context → Context) (i : Nat) : keyPair (modContext s n f) i = keyPair s i := rfl
@[simp] theorem memByte_modContext (s : State) (n : Nat) (f : Context → Context) (i : Nat) : memByte (modContext s n f) i = memByte s i := rfl
@[simp] theorem gang_modGrid (s : State) (u : Nat) (f : Grid → Grid) (i : Nat) : gang? (modGrid s u f) i = gang? s i := rfl
@[simp] theorem coreOf_modGrid (s : State) (u : Nat) (f : Grid → Grid) (i : Nat) : coreOf (modGrid s u f) i = coreOf s i := rfl
@[simp] theorem basinOf_modGrid (s : State) (u : Nat) (f : Grid → Grid) (i : Nat) : basinOf (modGrid s u f) i = basinOf s i := rfl
@[simp] theorem region_modGrid (s : State) (u : Nat) (f : Grid → Grid) (i : Nat) : region? (modGrid s u f) i = region? s i := rfl
@[simp] theorem context_modGrid (s : State) (u : Nat) (f : Grid → Grid) (i : Nat) : context? (modGrid s u f) i = context? s i := rfl
@[simp] theorem cohort_modGrid (s : State) (u : Nat) (f : Grid → Grid) (i : Nat) : cohort? (modGrid s u f) i = cohort? s i := rfl
@[simp] theorem keyPair_modGrid (s : State) (u : Nat) (f : Grid → Grid) (i : Nat) : keyPair (modGrid s u f) i = keyPair s i := rfl
@[simp] theorem memByte_modGrid (s : State) (u : Nat) (f : Grid → Grid) (i : Nat) : memByte (modGrid s u f) i = memByte s i := rfl
@[simp] theorem gang_modCohort (s : State) (u : Nat) (f : Cohort → Cohort) (i : Nat) : gang? (modCohort s u f) i = gang? s i := rfl
@[simp] theorem coreOf_modCohort (s : State) (u : Nat) (f : Cohort → Cohort) (i : Nat) : coreOf (modCohort s u f) i = coreOf s i := rfl
@[simp] theorem basinOf_modCohort (s : State) (u : Nat) (f : Cohort → Cohort) (i : Nat) : basinOf (modCohort s u f) i = basinOf s i := rfl
@[simp] theorem region_modCohort (s : State) (u : Nat) (f : Cohort → Cohort) (i : Nat) : region? (modCohort s u f) i = region? s i := rfl
@[simp] theorem context_modCohort (s : State) (u : Nat) (f : Cohort → Cohort) (i : Nat) : context? (modCohort s u f) i = context? s i := rfl
@[simp] theorem grid_modCohort (s : State) (u : Nat) (f : Cohort → Cohort) (i : Nat) : grid? (modCohort s u f) i = grid? s i := rfl
@[simp] theorem keyPair_modCohort (s : State) (u : Nat) (f : Cohort → Cohort) (i : Nat) : keyPair (modCohort s u f) i = keyPair s i := rfl
@[simp] theorem memByte_modCohort (s : State) (u : Nat) (f : Cohort → Cohort) (i : Nat) : memByte (modCohort s u f) i = memByte s i := rfl
@[simp] theorem gang_modWg (s : State) (u w : Nat) (f : Workgroup → Workgroup) (i : Nat) : gang? (modWg s u w f) i = gang? s i := rfl
@[simp] theorem coreOf_modWg (s : State) (u w : Nat) (f : Workgroup → Workgroup) (i : Nat) : coreOf (modWg s u w f) i = coreOf s i := rfl
@[simp] theorem basinOf_modWg (s : State) (u w : Nat) (f : Workgroup → Workgroup) (i : Nat) : basinOf (modWg s u w f) i = basinOf s i := rfl
@[simp] theorem region_modWg (s : State) (u w : Nat) (f : Workgroup → Workgroup) (i : Nat) : region? (modWg s u w f) i = region? s i := rfl
@[simp] theorem context_modWg (s : State) (u w : Nat) (f : Workgroup → Workgroup) (i : Nat) : context? (modWg s u w f) i = context? s i := rfl
@[simp] theorem grid_modWg (s : State) (u w : Nat) (f : Workgroup → Workgroup) (i : Nat) : grid? (modWg s u w f) i = grid? s i := rfl
@[simp] theorem keyPair_modWg (s : State) (u w : Nat) (f : Workgroup → Workgroup) (i : Nat) : keyPair (modWg s u w f) i = keyPair s i := rfl
@[simp] theorem memByte_modWg (s : State) (u w : Nat) (f : Workgroup → Workgroup) (i : Nat) : memByte (modWg s u w f) i = memByte s i := rfl
@[simp] theorem gang_rawWrite (s : State) (a : Nat) (bs : List Byte) (i : Nat) : gang? (rawWrite s a bs) i = gang? s i := rfl
@[simp] theorem coreOf_rawWrite (s : State) (a : Nat) (bs : List Byte) (i : Nat) : coreOf (rawWrite s a bs) i = coreOf s i := rfl
@[simp] theorem basinOf_rawWrite (s : State) (a : Nat) (bs : List Byte) (i : Nat) : basinOf (rawWrite s a bs) i = basinOf s i := rfl
@[simp] theorem region_rawWrite (s : State) (a : Nat) (bs : List Byte) (i : Nat) : region? (rawWrite s a bs) i = region? s i := rfl
@[simp] theorem context_rawWrite (s : State) (a : Nat) (bs : List Byte) (i : Nat) : context? (rawWrite s a bs) i = context? s i := rfl
@[simp] theorem grid_rawWrite (s : State) (a : Nat) (bs : List Byte) (i : Nat) : grid? (rawWrite s a bs) i = grid? s i := rfl
@[simp] theorem cohort_rawWrite (s : State) (a : Nat) (bs : List Byte) (i : Nat) : cohort? (rawWrite s a bs) i = cohort? s i := rfl
@[simp] theorem keyPair_rawWrite (s : State) (a : Nat) (bs : List Byte) (i : Nat) : keyPair (rawWrite s a bs) i = keyPair s i := rfl
@[simp] theorem gang_setCopy (s : State) (c : CopyCmd) (i : Nat) : gang? (setCopy s c) i = gang? s i := rfl
@[simp] theorem coreOf_setCopy (s : State) (c : CopyCmd) (i : Nat) : coreOf (setCopy s c) i = coreOf s i := rfl
@[simp] theorem basinOf_setCopy (s : State) (c : CopyCmd) (i : Nat) : basinOf (setCopy s c) i = basinOf s i := rfl
@[simp] theorem region_setCopy (s : State) (c : CopyCmd) (i : Nat) : region? (setCopy s c) i = region? s i := rfl
@[simp] theorem context_setCopy (s : State) (c : CopyCmd) (i : Nat) : context? (setCopy s c) i = context? s i := rfl
@[simp] theorem grid_setCopy (s : State) (c : CopyCmd) (i : Nat) : grid? (setCopy s c) i = grid? s i := rfl
@[simp] theorem cohort_setCopy (s : State) (c : CopyCmd) (i : Nat) : cohort? (setCopy s c) i = cohort? s i := rfl
@[simp] theorem keyPair_setCopy (s : State) (c : CopyCmd) (i : Nat) : keyPair (setCopy s c) i = keyPair s i := rfl
@[simp] theorem memByte_setCopy (s : State) (c : CopyCmd) (i : Nat) : memByte (setCopy s c) i = memByte s i := rfl
@[simp] theorem coreOf_withGangState (s : State) (g : Gang) (i : Nat) : coreOf (withGangState s g) i = coreOf s i := rfl
@[simp] theorem basinOf_withGangState (s : State) (g : Gang) (i : Nat) : basinOf (withGangState s g) i = basinOf s i := rfl
@[simp] theorem region_withGangState (s : State) (g : Gang) (i : Nat) : region? (withGangState s g) i = region? s i := rfl
@[simp] theorem context_withGangState (s : State) (g : Gang) (i : Nat) : context? (withGangState s g) i = context? s i := rfl
@[simp] theorem grid_withGangState (s : State) (g : Gang) (i : Nat) : grid? (withGangState s g) i = grid? s i := rfl
@[simp] theorem cohort_withGangState (s : State) (g : Gang) (i : Nat) : cohort? (withGangState s g) i = cohort? s i := rfl
@[simp] theorem keyPair_withGangState (s : State) (g : Gang) (i : Nat) : keyPair (withGangState s g) i = keyPair s i := rfl
@[simp] theorem memByte_withGangState (s : State) (g : Gang) (i : Nat) : memByte (withGangState s g) i = memByte s i := rfl

theorem gang_modGang_self {s : State} {u : Nat} {g : Gang} (f : Gang → Gang) (h : gang? s u = some g) (k : (f g).uid = g.uid) :
    gang? (modGang s u f) u = some (f g) := by
  unfold gang? modGang at *
  generalize s.gangs = l at h
  induction l with
  | nil => simp at h
  | cons x r ih =>
    simp only [List.find?_cons, List.map_cons] at h ⊢
    by_cases e : x.uid = u
    · simp only [e, beq_self_eq_true, Option.some.injEq] at h
      subst h
      simp [e, k]
    · simp only [beq_eq_false_iff_ne.mpr e] at h
      simp only [if_neg e, beq_eq_false_iff_ne.mpr e]
      exact ih h

theorem gang_modGang_ne {u a : Nat} (s : State) (f : Gang → Gang) (k : ∀ g, (f g).uid = g.uid) (h : a ≠ u) :
    gang? (modGang s u f) a = gang? s a := by
  unfold gang? modGang
  generalize s.gangs = l
  induction l with
  | nil => rfl
  | cons x r ih =>
    simp only [List.find?_cons, List.map_cons]
    by_cases e : x.uid = u
    · have : (x.uid == a) = false := beq_eq_false_iff_ne.mpr (by omega)
      simp only [if_pos e, k, this]
      exact ih
    · simp only [if_neg e]
      split
      · rfl
      · exact ih

@[simp] theorem coreOf_setCore_self (s : State) (c : Nat) (x : Core) : coreOf (setCore s c x) c = x := by
  simp [coreOf, setCore]

theorem coreOf_setCore_ne {c k : Nat} (h : k ≠ c) (s : State) (x : Core) : coreOf (setCore s c x) k = coreOf s k := by
  simp [coreOf, setCore, getK_setK_ne h]

@[simp] theorem coreOf_modCore_self (s : State) (c : Nat) (f : Core → Core) : coreOf (modCore s c f) c = f (coreOf s c) := by
  simp [modCore]

theorem coreOf_modCore_ne {c k : Nat} (h : k ≠ c) (s : State) (f : Core → Core) : coreOf (modCore s c f) k = coreOf s k := by
  simp [modCore, coreOf_setCore_ne h]

@[simp] theorem basinOf_setBasin_self (s : State) (b : Nat) (x : Basin) : basinOf (setBasin s b x) b = x := by
  simp [basinOf, setBasin]

end Sys2Proof.Machine
end

