-- ==== Sys2Proof/Laws/Ops.lean ====
section
/-! SUPPORT. What the shared operations do, each said once: the issuing gang, an instruction that waits, a boundary
instruction, a trap, the queue of asynchronous errors, and the ordering of a gang. -/

set_option Elab.async false

namespace Sys2Proof.Machine

/-! ## The issuing gang -/

theorem withGang_cases (s : State) (f : Gang → Issue → Out) :
    withGang s f = .fault .noIssuingGang ∨ ∃ it g, Issues s it g ∧ withGang s f = f g it := by
  unfold withGang
  split
  · exact .inl rfl
  · rename_i it h
    split
    · exact .inl rfl
    · rename_i g hg
      exact .inr ⟨it, g, ⟨h, hg⟩, rfl⟩

/-! ## A boundary instruction (R62, R278, R367) -/

theorem boundary_at {s t : State} {it : Issue} {g h : Gang} {code : Nat} (b : AtBoundary s it g code t h) (close : Bool)
    (body : State → Gang → Issue → Out) : boundary code close s body = body t h it := by
  obtain ⟨u, hc, hd, rfl⟩ := b.commit
  unfold boundary
  rw [withGang_of b.issues]
  have hg := b.gang
  simp [b.noTx, b.accepted, hc, hd, hg]

/-- A boundary instruction other than SPAN.CLOSE rolls an open transaction back with status 3 (R79). -/
theorem boundary_tx {s : State} {it : Issue} {g : Gang} (hi : Issues s it g) (tx : g.span.tx.isSome = true) (code : Nat)
    (body : State → Gang → Issue → Out) : boundary code false s body = .next (stopChain (endTx s it.gang 3 code)) := by
  unfold boundary
  rw [withGang_of hi]
  simp [tx]

theorem boundary_waits {s : State} {it : Issue} {g : Gang} (hi : Issues s it g) (tx : g.span.tx = none)
    (o : offersOpen s it.gang = true) (code : Nat) (close : Bool) (body : State → Gang → Issue → Out) :
    boundary code close s body = stay s it := by
  unfold boundary
  rw [withGang_of hi]
  simp [tx, o]

/-! ## A trap (R364, R366) -/

theorem trapNow_done {wait : Out} {s u : State} {it : Issue} {g : Gang} (hg : gang? s it.gang = some g) (tx : g.span.tx = none)
    (hc : commitSpan s it.gang 6 = .done u) (d : Delivery) : trapNow wait s it d = .next (stopChain (deliver u it.gang d)) := by
  simp [trapNow, hg, tx, hc]

theorem raise_done {s u : State} {it : Issue} {g k : Gang} (h : SpanEnds s it g 6 u k) (hr : it.replay = none)
    (hp : g.trap.pending = none) (t : Trap) :
    raise s t = .next (stopChain (deliver u it.gang
      { trap := t, pc := it.pc, record := none, split := it.split, mask := execMask g it, async := false, txTrap := false })) := by
  have e : standBefore g it = setPc g it.split it.pc := by simp [standBefore, hr]
  have hu : (standBefore g it).uid = g.uid := by rw [e]; rfl
  have hg : gang? (setGang s (standBefore g it)) it.gang = some (standBefore g it) := by
    rw [setGang_eq]; exact gang?_withGangState h.issues.gang hu
  have tx : (standBefore g it).span.tx = none := by rw [e]; exact h.noTx
  unfold raise
  rw [withGang_of h.issues]
  simp only [hp, hr]
  exact trapNow_done hg tx h.commit _

/-! ## The queue of asynchronous errors (R367) -/

theorem queueAsync_room {s : State} {u : Nat} {g : Gang} (hg : gang? s u = some g) (he : g.ended = false)
    (hl : g.trap.queue.length < 4) (t : Trap) :
    queueAsync s u t = modGang s u fun g => { g with trap := { g.trap with queue := g.trap.queue ++ [t] } } := by
  unfold queueAsync
  rw [hg]
  simp [he, hl]

theorem gang_queueAsync {s : State} {u : Nat} {g : Gang} (hg : gang? s u = some g) (he : g.ended = false)
    (hl : g.trap.queue.length < 4) (t : Trap) :
    gang? (queueAsync s u t) u = some { g with trap := { g.trap with queue := g.trap.queue ++ [t] } } := by
  rw [queueAsync_room hg he hl]
  exact gang_modGang_self _ hg rfl

/-! ## Ordering of a gang (R42, R91, R92) -/

theorem gang_moveAcquire {s : State} {u : Nat} {g : Gang} (hg : gang? s u = some g) :
    gang? (moveAcquire s u) u = some { g with acq := s.now } := gang_modGang_self _ hg rfl

theorem gang_raiseFloor {s : State} {u : Nat} {g : Gang} (hg : gang? s u = some g) (n : Nat) :
    gang? (raiseFloor s u n) u = some { g with floor := max g.floor n } := gang_modGang_self _ hg rfl

theorem gang_raisePending {s : State} {u : Nat} {g : Gang} (hg : gang? s u = some g) (n : Nat) :
    gang? (raisePending s u n) u = some { g with pendFloor := max g.pendFloor n } := gang_modGang_self _ hg rfl

/-! ## Hand-over requests (R35) -/

theorem requestHandover_frame (s : State) (ctx : Nat) (va : DWord) (add : HandReq → HandReq) :
    { requestHandover s ctx va add with handReqs := s.handReqs } = s := rfl

/-! ## An instruction that waits (R62) -/

theorem stay_next (s : State) (it : Issue) : ∃ t, stay s it = .next t := by
  unfold stay; exact ⟨_, rfl⟩

end Sys2Proof.Machine
end

