-- ==== Sys2Proof/Laws/PerInstr.lean ====
section
/-! SUPPORT. The encoding of each instruction row reads back as that instruction: one lemma per constructor of `Instr`.
`Statement i` says it of every word that `encode` makes of a well-formed i, whatever word stands after a one-word
instruction; of a row without an instruction word it says nothing, since `encode` gives no word. -/

set_option Elab.async false

namespace Sys2Proof.Laws.WordForm
open Sys2Proof

/-- The words of i, read from the first word w and the word x after it, are decoded as i, with its chain bit (R184, R187). -/
def Statement (i : Instr) : Prop :=
  ∀ (c : Bool) (w : Word) (r : List Word) (x : Word), i.wellFormed = true → encode c i = w :: r → (r = [] ∨ r = [x]) →
    majorAssigned (fMajor w).toNat = true ∧ fChain w = c ∧ wordsOf w x = w :: r ∧ decodeRaw w x = some i

theorem no_word (i : Instr) (h : ∀ c, encode c i = []) : Statement i := by
  intro c w r x _ he
  rw [h] at he
  cases he

theorem one_word (i : Instr) {f : Bool → Word} (h : ∀ c, encode c i = [f c])
    (g : ∀ c, majorAssigned (fMajor (f c)).toNat = true ∧ fChain (f c) = c ∧ needsSecond (f c) = false ∧
      (i.wellFormed = true → ∀ x, decodeRaw (f c) x = some i)) : Statement i := by
  intro c w r x hw he _
  rw [h] at he
  obtain ⟨rfl, rfl⟩ := List.cons.inj he
  obtain ⟨h1, h2, h3, h4⟩ := g c
  exact ⟨h1, h2, by simp [wordsOf, h3], h4 hw x⟩

theorem two_words (i : Instr) {f : Bool → Word} {y : Word} (h : ∀ c, encode c i = [f c, y])
    (g : ∀ c, majorAssigned (fMajor (f c)).toNat = true ∧ fChain (f c) = c ∧ needsSecond (f c) = true ∧
      (i.wellFormed = true → decodeRaw (f c) y = some i)) : Statement i := by
  intro c w r x hw he hr
  rw [h] at he
  obtain ⟨rfl, rfl⟩ := List.cons.inj he
  obtain rfl : y = x := by simpa using hr
  obtain ⟨h1, h2, h3, h4⟩ := g c
  exact ⟨h1, h2, by simp [wordsOf, h3], h4 hw⟩

/-- An M-format row: one word, or two when an immediate word follows (R190). -/
theorem mem_words (i : Instr) (maj : BitVec 6) (la : BitVec 4) (sz : BitVec 2) (m : MemOp)
    (hm : 0x24 ≤ maj.toNat ∧ maj.toNat ≤ 0x2F ∧ maj.toNat ≠ 0x2B ∧ maj.toNat ≠ 0x2E)
    (h : ∀ c, encode c i = encM c maj la sz m)
    (g : i.wellFormed = true → ∀ c x, decodeRaw (encMWord c maj m.x.isSome la m.d m.base m.off sz) (m.x.getD x) = some i) :
    Statement i := by
  intro c w r x hw he hr
  have ha : majorAssigned maj.toNat = true := by
    simp only [majorAssigned, Bool.and_eq_true, bne_iff_ne, ne_eq]
    omega
  have hn : ∀ b : Bool, needsSecond (encMWord c maj b la m.d m.base m.off sz) = b := by
    intro b
    have h1 : ¬ maj.toNat ≤ 7 ∧ ¬ maj.toNat ≤ 25 ∧ maj.toNat ≠ 32 ∧ ¬ 48 ≤ maj.toNat ∧ maj.toNat ≠ 43 ∧ maj.toNat ≠ 46 ∧
        36 ≤ maj.toNat ∧ maj.toNat ≤ 47 := by omega
    simp [needsSecond, majorA3, h1]
  have hg := g hw c x
  rw [h] at he
  cases hx : m.x with
  | none =>
    simp only [encM, hx, List.cons.injEq] at he
    obtain ⟨rfl, rfl⟩ := he
    simp only [hx, Option.isSome_none, Option.getD_none] at hg
    exact ⟨by simpa using ha, by simp, by simp [wordsOf, hn], hg⟩
  | some y =>
    simp only [encM, hx, List.cons.injEq] at he
    obtain ⟨rfl, rfl⟩ := he
    obtain rfl : y = x := by simpa using hr
    simp only [hx, Option.isSome_some, Option.getD_some] at hg
    exact ⟨by simpa using ha, by simp, by simp [wordsOf, hn], hg⟩

theorem scope_of_la (c : Bool) (maj : BitVec 6) (x : Bool) (s : Scope) (d : Reg) (base : BitVec 4) (off : Reg) (sz : BitVec 2) :
    ((encMWord c maj x (encScope s ++ 0#1) d base off sz).extractLsb' 21 3 : BitVec 3) = encScope s := by
  unfold encMWord
  rw [exl _ _ (by decide), exl _ _ (by decide), exl _ _ (by decide), exl _ _ (by decide), exr _ _ (by decide),
    exl _ _ (by decide)]
  exact exall _

theorem zeros_append_toNat (op : BitVec 4) : (0#4 ++ op : BitVec 8).toNat = op.toNat := by
  have h := op.isLt
  rw [BitVec.toNat_append]
  simp

theorem fpForm_lt (maj : FpMajor) (op : BitVec 4) {f : FpForm} (h : fpForm maj op = some f) : op.toNat < 15 := by
  have hlt := op.isLt
  by_contra hc
  have e : op = 15#4 := by
    apply BitVec.eq_of_toNat_eq
    simp
    omega
  subst e
  cases maj <;> simp [fpForm] at h

theorem decFpExt_enc (maj : FpMajor) (op : BitVec 4) (d a b : Reg) (rnd : RMod) (fl : BitVec 2) (c : Bool) (f : FpForm)
    (hf : fpForm maj op = some f) (hb : f.usesB = true ∨ b = 0#7) (hr : f.rounds = true ∨ rnd = .dyn)
    (hs : f.sat = true ∨ fl.getLsbD 0 = false) (hh : f.hi = true ∨ fl.getLsbD 1 = false) (m : BitVec 6) :
    decFpExt maj (encA3 c m 0xF#4 d a b) (encExt (0#4 ++ op) (encMod rnd) 0#7 fl) =
      some (.fpExtendedRoundingForm maj op d a b rnd fl) := by
  have e1 : (if f.usesB then b else 0#7) = b := by
    rcases hb with h | h <;> simp [h]
  have e2 : (if f.rounds then rnd else .dyn) = rnd := by
    rcases hr with h | h <;> simp [h]
  have e3 : BitVec.ofBool (fl.getLsbD 1 && f.hi) ++ BitVec.ofBool (fl.getLsbD 0 && f.sat) = fl := by
    have a1 : (fl.getLsbD 1 && f.hi) = fl.getLsbD 1 := by rcases hh with h | h <;> simp only [h, Bool.and_true, Bool.false_and]
    have a0 : (fl.getLsbD 0 && f.sat) = fl.getLsbD 0 := by rcases hs with h | h <;> simp only [h, Bool.and_true, Bool.false_and]
    rw [a1, a0]
    have all : ∀ v : BitVec 2, BitVec.ofBool (v.getLsbD 1) ++ BitVec.ofBool (v.getLsbD 0) = v := by decide
    exact all fl
  simp only [decFpExt, xOp_encExt, low_zeros4, hf, fD_encA3, fA_encA3, fB_encA3, xMod_encExt, xFl_encExt, decMod_encMod]
  rw [e1, e2, e3]

theorem fpExt_decodes (maj : FpMajor) (op : BitVec 4) (d a b : Reg) (rnd : RMod) (fl : BitVec 2) (c : Bool)
    (hw : (Instr.fpExtendedRoundingForm maj op d a b rnd fl).wellFormed = true) :
    decodeRaw (encA3 c (encFpMajor maj) 0xF#4 d a b) (encExt (0#4 ++ op) (encMod rnd) 0#7 fl) =
      some (.fpExtendedRoundingForm maj op d a b rnd fl) := by
  simp only [Instr.wellFormed, Instr.expressible, Bool.and_eq_true] at hw
  have he := hw.1.2
  cases hf : fpForm maj op with
  | none => simp [hf] at he
  | some f =>
    simp only [hf, Bool.and_eq_true, Bool.or_eq_true, beq_iff_eq, Bool.not_eq_true'] at he
    have hlt := fpForm_lt maj op hf
    obtain ⟨⟨⟨uses, rounds⟩, sat⟩, high⟩ := he
    have hx := decFpExt_enc maj op d a b rnd fl c f hf uses rounds sat high
    cases maj <;>
      simp only [encFpMajor] at hx ⊢ <;>
      simp [decodeRaw, decMajor14, decMajor15, decMajor16, decMajor17, decMajor18, decMajor19, zeros_append_toNat, hlt, hx]

theorem spring_major (s : BitVec 6) : s.extractLsb' 4 2 = 0#2 ∨ s.extractLsb' 4 2 = 1#2 ∨ s.extractLsb' 4 2 = 2#2 ∨
    s.extractLsb' 4 2 = 3#2 := by
  have all : ∀ p : BitVec 2, p = 0#2 ∨ p = 1#2 ∨ p = 2#2 ∨ p = 3#2 := by decide
  exact all _

theorem accCvt_fmt (c : Bool) (maj : BitVec 6) (la func : BitVec 4) (a b : Reg) (fmt : BitVec 2) :
    ((encT c maj la func a b (0#1 ++ fmt)).extractLsb' 0 2 : BitVec 2) = fmt := by
  unfold encT; rw [exr _ _ (by decide)]; exact low_zeros fmt

theorem decBar_encT (c : Bool) (func : BitVec 4) (bar : BarName) (b : Reg) :
    decBar (encT c 0x39#6 0#4 func bar.index b bar.flags) = bar := by
  cases bar with
  | own n => simp only [decBar, bit2_encT, BarName.index, BarName.flags, bits10_encT]; rfl
  | basin q n =>
    have h2 : (1#1 ++ q : BitVec 3).getLsbD 2 = true := by
      rw [getLsbD_appendL _ _ (by decide)]; rfl
    have hq : ((encT c 0x39#6 0#4 func n b (1#1 ++ q)).extractLsb' 0 2 : BitVec 2) = q := by
      unfold encT; rw [exr _ _ (by decide), exr _ _ (by decide)]; exact exall q
    simp only [decBar, bit2_encT, BarName.index, BarName.flags, bits10_encT, h2, hq, if_true]

theorem reset  : Statement .reset := no_word _ fun _ => rfl

theorem linkTraining (port : Nat) (up : Bool) (rate : Nat) (width : Nat) (mode : Nat) : Statement (.linkTraining port up rate width mode) := no_word _ fun _ => rfl

theorem sqtailDoorbell (v : Word) : Statement (.sqtailDoorbell v) := no_word _ fun _ => rfl

theorem hostRegisterWrite (off : Nat) (v : DWord) : Statement (.hostRegisterWrite off v) := no_word _ fun _ => rfl

theorem deviceInit (h : CmdHead) : Statement (.deviceInit h) := no_word _ fun _ => rfl

theorem contextCreate (h : CmdHead) (root saveBase saveSize poolBase : DWord) (poolPages : Word) : Statement (.contextCreate h root saveBase saveSize poolBase poolPages) := no_word _ fun _ => rfl

theorem regionCreate (h : CmdHead) (image rcb : DWord) : Statement (.regionCreate h image rcb) := no_word _ fun _ => rfl

theorem launch (h : CmdHead) (desc : DWord) : Statement (.launch h desc) := no_word _ fun _ => rfl

theorem preempt (h : CmdHead) (rcb : DWord) : Statement (.preempt h rcb) := no_word _ fun _ => rfl

theorem resume (h : CmdHead) (rcb : DWord) : Statement (.resume h rcb) := no_word _ fun _ => rfl

theorem pageMigrate (h : CmdHead) (va : DWord) (owner : Byte) : Statement (.pageMigrate h va owner) := no_word _ fun _ => rfl

theorem springBind (h : CmdHead) (image : DWord) : Statement (.springBind h image) := no_word _ fun _ => rfl

theorem keyLoad (h : CmdHead) (slot : Byte) (keys : DWord) : Statement (.keyLoad h slot keys) := no_word _ fun _ => rfl

theorem attest (h : CmdHead) (buf : DWord) (nonce : BitVec 256) : Statement (.attest h buf nonce) := no_word _ fun _ => rfl

theorem errorQuery (h : CmdHead) (buf : DWord) (n : Word) (fdom : Byte) : Statement (.errorQuery h buf n fdom) := no_word _ fun _ => rfl

theorem capacityMap (h : CmdHead) (buf : DWord) : Statement (.capacityMap h buf) := no_word _ fun _ => rfl

theorem poisonClear (h : CmdHead) (page data : DWord) (key : Byte) : Statement (.poisonClear h page data key) := no_word _ fun _ => rfl

theorem ownershipHandover (ctx : Nat) (va : DWord) (link : LinkResult) : Statement (.ownershipHandover ctx va link) := no_word _ fun _ => rfl

theorem handoverFromDevice (ctx : Nat) (va : DWord) (moveTo : Option Nat) : Statement (.handoverFromDevice ctx va moveTo) := no_word _ fun _ => rfl

theorem spanCommit (g : Nat) : Statement (.spanCommit g) := no_word _ fun _ => rfl

theorem twoPhaseCommit (g : Nat) : Statement (.twoPhaseCommit g) := no_word _ fun _ => rfl

theorem favourGrant  : Statement .favourGrant := no_word _ fun _ => rfl

theorem spanInstructionLimit (g : Nat) : Statement (.spanInstructionLimit g) := no_word _ fun _ => rfl

theorem pathRotation (g slice : Nat) : Statement (.pathRotation g slice) := no_word _ fun _ => rfl

theorem meteringPeriod (reach : Nat) : Statement (.meteringPeriod reach) := no_word _ fun _ => rfl

theorem copyChunk (cmd : Nat) : Statement (.copyChunk cmd) := no_word _ fun _ => rfl

theorem followOnOffer (cmd : Nat) : Statement (.followOnOffer cmd) := no_word _ fun _ => rfl

theorem matrixAccept (core pos : Nat) : Statement (.matrixAccept core pos) := no_word _ fun _ => rfl

theorem matrixComplete (core pos : Nat) : Statement (.matrixComplete core pos) := no_word _ fun _ => rfl

theorem scaleEntryArrival (core entry : Nat) : Statement (.scaleEntryArrival core entry) := no_word _ fun _ => rfl

theorem rasterBinning (core : Nat) : Statement (.rasterBinning core) := no_word _ fun _ => rfl

theorem fragmentGangLaunch (core : Nat) : Statement (.fragmentGangLaunch core) := no_word _ fun _ => rfl

theorem fragmentBlend (core : Nat) : Statement (.fragmentBlend core) := no_word _ fun _ => rfl

theorem tileWriteBack (core : Nat) : Statement (.tileWriteBack core) := no_word _ fun _ => rfl

theorem cohortRetire (cohort : Nat) : Statement (.cohortRetire cohort) := no_word _ fun _ => rfl

theorem cohortPlacement  : Statement .cohortPlacement := no_word _ fun _ => rfl

theorem growthStall (core : Nat) : Statement (.growthStall core) := no_word _ fun _ => rfl

theorem thermalMigration (cohort : Nat) : Statement (.thermalMigration cohort) := no_word _ fun _ => rfl

theorem preemption (cohort : Nat) : Statement (.preemption cohort) := no_word _ fun _ => rfl

theorem cohortRestore (cohort basin : Nat) : Statement (.cohortRestore cohort basin) := no_word _ fun _ => rfl

theorem admissionDecision (core : Nat) : Statement (.admissionDecision core) := no_word _ fun _ => rfl

theorem gangAging (g : Nat) : Statement (.gangAging g) := no_word _ fun _ => rfl

theorem protectionEnd (g : Nat) : Statement (.protectionEnd g) := no_word _ fun _ => rfl

theorem leaseMeasurementWindow (g : Nat) : Statement (.leaseMeasurementWindow g) := no_word _ fun _ => rfl

theorem lostLocalityWindow (core : Nat) : Statement (.lostLocalityWindow core) := no_word _ fun _ => rfl

theorem clockCreditPeriod (core : Nat) : Statement (.clockCreditPeriod core) := no_word _ fun _ => rfl

theorem accWinGrant (core : Nat) : Statement (.accWinGrant core) := no_word _ fun _ => rfl

theorem regsGrowGrant (core part : Nat) : Statement (.regsGrowGrant core part) := no_word _ fun _ => rfl

theorem asyncErrorDelivery (g : Nat) : Statement (.asyncErrorDelivery g) := no_word _ fun _ => rfl

theorem uncorrectableError (loc : ErrLoc) : Statement (.uncorrectableError loc) := no_word _ fun _ => rfl

theorem correctedSoftError (count : Nat) : Statement (.correctedSoftError count) := no_word _ fun _ => rfl

theorem nop  : Statement .nop := one_word _ (fun _ => rfl) fun c => by
  refine ⟨by simp [majorAssigned], by simp, by simp [needsSecond, majorA3], fun hw x => by simp [decodeRaw, decMajor20]⟩

theorem iadd (d a b : Reg) : Statement (.iadd d a b) := one_word _ (fun _ => rfl) fun c => by
  refine ⟨by simp [majorAssigned], by simp, by simp [needsSecond, majorA3], fun hw x => by simp [decodeRaw, decMajor01]⟩

theorem isub (d a b : Reg) : Statement (.isub d a b) := one_word _ (fun _ => rfl) fun c => by
  refine ⟨by simp [majorAssigned], by simp, by simp [needsSecond, majorA3], fun hw x => by simp [decodeRaw, decMajor01]⟩

theorem imul (d a b : Reg) : Statement (.imul d a b) := one_word _ (fun _ => rfl) fun c => by
  refine ⟨by simp [majorAssigned], by simp, by simp [needsSecond, majorA3], fun hw x => by simp [decodeRaw, decMajor01]⟩

theorem imulhi (d a b : Reg) : Statement (.imulhi d a b) := one_word _ (fun _ => rfl) fun c => by
  refine ⟨by simp [majorAssigned], by simp, by simp [needsSecond, majorA3], fun hw x => by simp [decodeRaw, decMajor01]⟩

theorem imulhiu (d a b : Reg) : Statement (.imulhiu d a b) := one_word _ (fun _ => rfl) fun c => by
  refine ⟨by simp [majorAssigned], by simp, by simp [needsSecond, majorA3], fun hw x => by simp [decodeRaw, decMajor01]⟩

theorem imin (d a b : Reg) : Statement (.imin d a b) := one_word _ (fun _ => rfl) fun c => by
  refine ⟨by simp [majorAssigned], by simp, by simp [needsSecond, majorA3], fun hw x => by simp [decodeRaw, decMajor01]⟩

theorem imax (d a b : Reg) : Statement (.imax d a b) := one_word _ (fun _ => rfl) fun c => by
  refine ⟨by simp [majorAssigned], by simp, by simp [needsSecond, majorA3], fun hw x => by simp [decodeRaw, decMajor01]⟩

theorem iminu (d a b : Reg) : Statement (.iminu d a b) := one_word _ (fun _ => rfl) fun c => by
  refine ⟨by simp [majorAssigned], by simp, by simp [needsSecond, majorA3], fun hw x => by simp [decodeRaw, decMajor01]⟩

theorem imaxu (d a b : Reg) : Statement (.imaxu d a b) := one_word _ (fun _ => rfl) fun c => by
  refine ⟨by simp [majorAssigned], by simp, by simp [needsSecond, majorA3], fun hw x => by simp [decodeRaw, decMajor01]⟩

theorem iabs (d a : Reg) : Statement (.iabs d a) := one_word _ (fun _ => rfl) fun c => by
  refine ⟨by simp [majorAssigned], by simp, by simp [needsSecond, majorA3], fun hw x => by simp [decodeRaw, decMajor01]⟩

theorem iadds (d a b : Reg) : Statement (.iadds d a b) := one_word _ (fun _ => rfl) fun c => by
  refine ⟨by simp [majorAssigned], by simp, by simp [needsSecond, majorA3], fun hw x => by simp [decodeRaw, decMajor01]⟩

theorem isubs (d a b : Reg) : Statement (.isubs d a b) := one_word _ (fun _ => rfl) fun c => by
  refine ⟨by simp [majorAssigned], by simp, by simp [needsSecond, majorA3], fun hw x => by simp [decodeRaw, decMajor01]⟩

theorem idivu (d a b : Reg) : Statement (.idivu d a b) := one_word _ (fun _ => rfl) fun c => by
  refine ⟨by simp [majorAssigned], by simp, by simp [needsSecond, majorA3], fun hw x => by simp [decodeRaw, decMajor01]⟩

theorem iremu (d a b : Reg) : Statement (.iremu d a b) := one_word _ (fun _ => rfl) fun c => by
  refine ⟨by simp [majorAssigned], by simp, by simp [needsSecond, majorA3], fun hw x => by simp [decodeRaw, decMajor01]⟩

theorem imad (d a b : Reg) : Statement (.imad d a b) := one_word _ (fun _ => rfl) fun c => by
  refine ⟨by simp [majorAssigned], by simp, by simp [needsSecond, majorA3], fun hw x => by simp [decodeRaw, decMajor01]⟩

theorem idiv (d a b : Reg) : Statement (.idiv d a b) := two_words _ (fun _ => rfl) fun c => by
  refine ⟨by simp [majorAssigned], by simp, by simp [needsSecond, majorA3], fun hw => by simp [decodeRaw, decMajor01]⟩

theorem irem (d a b : Reg) : Statement (.irem d a b) := two_words _ (fun _ => rfl) fun c => by
  refine ⟨by simp [majorAssigned], by simp, by simp [needsSecond, majorA3], fun hw => by simp [decodeRaw, decMajor01]⟩

theorem iaddsu (d a b : Reg) : Statement (.iaddsu d a b) := two_words _ (fun _ => rfl) fun c => by
  refine ⟨by simp [majorAssigned], by simp, by simp [needsSecond, majorA3], fun hw => by simp [decodeRaw, decMajor01]⟩

theorem isubsu (d a b : Reg) : Statement (.isubsu d a b) := two_words _ (fun _ => rfl) fun c => by
  refine ⟨by simp [majorAssigned], by simp, by simp [needsSecond, majorA3], fun hw => by simp [decodeRaw, decMajor01]⟩

theorem and (d a b : Reg) : Statement (.and d a b) := one_word _ (fun _ => rfl) fun c => by
  refine ⟨by simp [majorAssigned], by simp, by simp [needsSecond, majorA3], fun hw x => by simp [decodeRaw, decMajor02]⟩

theorem or (d a b : Reg) : Statement (.or d a b) := one_word _ (fun _ => rfl) fun c => by
  refine ⟨by simp [majorAssigned], by simp, by simp [needsSecond, majorA3], fun hw x => by simp [decodeRaw, decMajor02]⟩

theorem xor (d a b : Reg) : Statement (.xor d a b) := one_word _ (fun _ => rfl) fun c => by
  refine ⟨by simp [majorAssigned], by simp, by simp [needsSecond, majorA3], fun hw x => by simp [decodeRaw, decMajor02]⟩

theorem andn (d a b : Reg) : Statement (.andn d a b) := one_word _ (fun _ => rfl) fun c => by
  refine ⟨by simp [majorAssigned], by simp, by simp [needsSecond, majorA3], fun hw x => by simp [decodeRaw, decMajor02]⟩

theorem not (d a : Reg) : Statement (.not d a) := one_word _ (fun _ => rfl) fun c => by
  refine ⟨by simp [majorAssigned], by simp, by simp [needsSecond, majorA3], fun hw x => by simp [decodeRaw, decMajor02]⟩

theorem shl (d a b : Reg) : Statement (.shl d a b) := one_word _ (fun _ => rfl) fun c => by
  refine ⟨by simp [majorAssigned], by simp, by simp [needsSecond, majorA3], fun hw x => by simp [decodeRaw, decMajor02]⟩

theorem shr (d a b : Reg) : Statement (.shr d a b) := one_word _ (fun _ => rfl) fun c => by
  refine ⟨by simp [majorAssigned], by simp, by simp [needsSecond, majorA3], fun hw x => by simp [decodeRaw, decMajor02]⟩

theorem sar (d a b : Reg) : Statement (.sar d a b) := one_word _ (fun _ => rfl) fun c => by
  refine ⟨by simp [majorAssigned], by simp, by simp [needsSecond, majorA3], fun hw x => by simp [decodeRaw, decMajor02]⟩

theorem rol (d a b : Reg) : Statement (.rol d a b) := one_word _ (fun _ => rfl) fun c => by
  refine ⟨by simp [majorAssigned], by simp, by simp [needsSecond, majorA3], fun hw x => by simp [decodeRaw, decMajor02]⟩

theorem popc (d a : Reg) : Statement (.popc d a) := one_word _ (fun _ => rfl) fun c => by
  refine ⟨by simp [majorAssigned], by simp, by simp [needsSecond, majorA3], fun hw x => by simp [decodeRaw, decMajor02]⟩

theorem clz (d a : Reg) : Statement (.clz d a) := one_word _ (fun _ => rfl) fun c => by
  refine ⟨by simp [majorAssigned], by simp, by simp [needsSecond, majorA3], fun hw x => by simp [decodeRaw, decMajor02]⟩

theorem brev (d a : Reg) : Statement (.brev d a) := one_word _ (fun _ => rfl) fun c => by
  refine ⟨by simp [majorAssigned], by simp, by simp [needsSecond, majorA3], fun hw x => by simp [decodeRaw, decMajor02]⟩

theorem bfe (d a b : Reg) : Statement (.bfe d a b) := one_word _ (fun _ => rfl) fun c => by
  refine ⟨by simp [majorAssigned], by simp, by simp [needsSecond, majorA3], fun hw x => by simp [decodeRaw, decMajor02]⟩

theorem bfes (d a b : Reg) : Statement (.bfes d a b) := one_word _ (fun _ => rfl) fun c => by
  refine ⟨by simp [majorAssigned], by simp, by simp [needsSecond, majorA3], fun hw x => by simp [decodeRaw, decMajor02]⟩

theorem bfi (d a b : Reg) : Statement (.bfi d a b) := one_word _ (fun _ => rfl) fun c => by
  refine ⟨by simp [majorAssigned], by simp, by simp [needsSecond, majorA3], fun hw x => by simp [decodeRaw, decMajor02]⟩

theorem iadd64 (d a b : Reg) : Statement (.iadd64 d a b) := one_word _ (fun _ => rfl) fun c => by
  refine ⟨by simp [majorAssigned], by simp, by simp [needsSecond, majorA3], fun hw x => by simp [decodeRaw, decMajor03]⟩

theorem isub64 (d a b : Reg) : Statement (.isub64 d a b) := one_word _ (fun _ => rfl) fun c => by
  refine ⟨by simp [majorAssigned], by simp, by simp [needsSecond, majorA3], fun hw x => by simp [decodeRaw, decMajor03]⟩

theorem imul64 (d a b : Reg) : Statement (.imul64 d a b) := one_word _ (fun _ => rfl) fun c => by
  refine ⟨by simp [majorAssigned], by simp, by simp [needsSecond, majorA3], fun hw x => by simp [decodeRaw, decMajor03]⟩

theorem shl64 (d a b : Reg) : Statement (.shl64 d a b) := one_word _ (fun _ => rfl) fun c => by
  refine ⟨by simp [majorAssigned], by simp, by simp [needsSecond, majorA3], fun hw x => by simp [decodeRaw, decMajor03]⟩

theorem shr64 (d a b : Reg) : Statement (.shr64 d a b) := one_word _ (fun _ => rfl) fun c => by
  refine ⟨by simp [majorAssigned], by simp, by simp [needsSecond, majorA3], fun hw x => by simp [decodeRaw, decMajor03]⟩

theorem sar64 (d a b : Reg) : Statement (.sar64 d a b) := one_word _ (fun _ => rfl) fun c => by
  refine ⟨by simp [majorAssigned], by simp, by simp [needsSecond, majorA3], fun hw x => by simp [decodeRaw, decMajor03]⟩

theorem imin64 (d a b : Reg) : Statement (.imin64 d a b) := one_word _ (fun _ => rfl) fun c => by
  refine ⟨by simp [majorAssigned], by simp, by simp [needsSecond, majorA3], fun hw x => by simp [decodeRaw, decMajor03]⟩

theorem imax64 (d a b : Reg) : Statement (.imax64 d a b) := one_word _ (fun _ => rfl) fun c => by
  refine ⟨by simp [majorAssigned], by simp, by simp [needsSecond, majorA3], fun hw x => by simp [decodeRaw, decMajor03]⟩

theorem iminu64 (d a b : Reg) : Statement (.iminu64 d a b) := one_word _ (fun _ => rfl) fun c => by
  refine ⟨by simp [majorAssigned], by simp, by simp [needsSecond, majorA3], fun hw x => by simp [decodeRaw, decMajor03]⟩

theorem imaxu64 (d a b : Reg) : Statement (.imaxu64 d a b) := one_word _ (fun _ => rfl) fun c => by
  refine ⟨by simp [majorAssigned], by simp, by simp [needsSecond, majorA3], fun hw x => by simp [decodeRaw, decMajor03]⟩

theorem imulw (d a b : Reg) : Statement (.imulw d a b) := one_word _ (fun _ => rfl) fun c => by
  refine ⟨by simp [majorAssigned], by simp, by simp [needsSecond, majorA3], fun hw x => by simp [decodeRaw, decMajor03]⟩

theorem imulwu (d a b : Reg) : Statement (.imulwu d a b) := one_word _ (fun _ => rfl) fun c => by
  refine ⟨by simp [majorAssigned], by simp, by simp [needsSecond, majorA3], fun hw x => by simp [decodeRaw, decMajor03]⟩

theorem cmpeq (d a b : Reg) : Statement (.cmpeq d a b) := one_word _ (fun _ => rfl) fun c => by
  refine ⟨by simp [majorAssigned], by simp, by simp [needsSecond, majorA3], fun hw x => by simp [decodeRaw, decMajor04]⟩

theorem cmpne (d a b : Reg) : Statement (.cmpne d a b) := one_word _ (fun _ => rfl) fun c => by
  refine ⟨by simp [majorAssigned], by simp, by simp [needsSecond, majorA3], fun hw x => by simp [decodeRaw, decMajor04]⟩

theorem cmplt (d a b : Reg) : Statement (.cmplt d a b) := one_word _ (fun _ => rfl) fun c => by
  refine ⟨by simp [majorAssigned], by simp, by simp [needsSecond, majorA3], fun hw x => by simp [decodeRaw, decMajor04]⟩

theorem cmple (d a b : Reg) : Statement (.cmple d a b) := one_word _ (fun _ => rfl) fun c => by
  refine ⟨by simp [majorAssigned], by simp, by simp [needsSecond, majorA3], fun hw x => by simp [decodeRaw, decMajor04]⟩

theorem cmpltu (d a b : Reg) : Statement (.cmpltu d a b) := one_word _ (fun _ => rfl) fun c => by
  refine ⟨by simp [majorAssigned], by simp, by simp [needsSecond, majorA3], fun hw x => by simp [decodeRaw, decMajor04]⟩

theorem cmpleu (d a b : Reg) : Statement (.cmpleu d a b) := one_word _ (fun _ => rfl) fun c => by
  refine ⟨by simp [majorAssigned], by simp, by simp [needsSecond, majorA3], fun hw x => by simp [decodeRaw, decMajor04]⟩

theorem cmpeq64 (d a b : Reg) : Statement (.cmpeq64 d a b) := one_word _ (fun _ => rfl) fun c => by
  refine ⟨by simp [majorAssigned], by simp, by simp [needsSecond, majorA3], fun hw x => by simp [decodeRaw, decMajor04]⟩

theorem cmplt64 (d a b : Reg) : Statement (.cmplt64 d a b) := one_word _ (fun _ => rfl) fun c => by
  refine ⟨by simp [majorAssigned], by simp, by simp [needsSecond, majorA3], fun hw x => by simp [decodeRaw, decMajor04]⟩

theorem cmpltu64 (d a b : Reg) : Statement (.cmpltu64 d a b) := one_word _ (fun _ => rfl) fun c => by
  refine ⟨by simp [majorAssigned], by simp, by simp [needsSecond, majorA3], fun hw x => by simp [decodeRaw, decMajor04]⟩

theorem cmple64 (d a b : Reg) : Statement (.cmple64 d a b) := one_word _ (fun _ => rfl) fun c => by
  refine ⟨by simp [majorAssigned], by simp, by simp [needsSecond, majorA3], fun hw x => by simp [decodeRaw, decMajor04]⟩

theorem cmpleu64 (d a b : Reg) : Statement (.cmpleu64 d a b) := one_word _ (fun _ => rfl) fun c => by
  refine ⟨by simp [majorAssigned], by simp, by simp [needsSecond, majorA3], fun hw x => by simp [decodeRaw, decMajor04]⟩

theorem fcmpeq (d a b : Reg) : Statement (.fcmpeq d a b) := one_word _ (fun _ => rfl) fun c => by
  refine ⟨by simp [majorAssigned], by simp, by simp [needsSecond, majorA3], fun hw x => by simp [decodeRaw, decMajor05]⟩

theorem fcmpne (d a b : Reg) : Statement (.fcmpne d a b) := one_word _ (fun _ => rfl) fun c => by
  refine ⟨by simp [majorAssigned], by simp, by simp [needsSecond, majorA3], fun hw x => by simp [decodeRaw, decMajor05]⟩

theorem fcmplt (d a b : Reg) : Statement (.fcmplt d a b) := one_word _ (fun _ => rfl) fun c => by
  refine ⟨by simp [majorAssigned], by simp, by simp [needsSecond, majorA3], fun hw x => by simp [decodeRaw, decMajor05]⟩

theorem fcmple (d a b : Reg) : Statement (.fcmple d a b) := one_word _ (fun _ => rfl) fun c => by
  refine ⟨by simp [majorAssigned], by simp, by simp [needsSecond, majorA3], fun hw x => by simp [decodeRaw, decMajor05]⟩

theorem fcmpun (d a b : Reg) : Statement (.fcmpun d a b) := one_word _ (fun _ => rfl) fun c => by
  refine ⟨by simp [majorAssigned], by simp, by simp [needsSecond, majorA3], fun hw x => by simp [decodeRaw, decMajor05]⟩

theorem dcmpeq (d a b : Reg) : Statement (.dcmpeq d a b) := one_word _ (fun _ => rfl) fun c => by
  refine ⟨by simp [majorAssigned], by simp, by simp [needsSecond, majorA3], fun hw x => by simp [decodeRaw, decMajor05]⟩

theorem dcmpne (d a b : Reg) : Statement (.dcmpne d a b) := one_word _ (fun _ => rfl) fun c => by
  refine ⟨by simp [majorAssigned], by simp, by simp [needsSecond, majorA3], fun hw x => by simp [decodeRaw, decMajor05]⟩

theorem dcmplt (d a b : Reg) : Statement (.dcmplt d a b) := one_word _ (fun _ => rfl) fun c => by
  refine ⟨by simp [majorAssigned], by simp, by simp [needsSecond, majorA3], fun hw x => by simp [decodeRaw, decMajor05]⟩

theorem dcmple (d a b : Reg) : Statement (.dcmple d a b) := one_word _ (fun _ => rfl) fun c => by
  refine ⟨by simp [majorAssigned], by simp, by simp [needsSecond, majorA3], fun hw x => by simp [decodeRaw, decMajor05]⟩

theorem dcmpun (d a b : Reg) : Statement (.dcmpun d a b) := one_word _ (fun _ => rfl) fun c => by
  refine ⟨by simp [majorAssigned], by simp, by simp [needsSecond, majorA3], fun hw x => by simp [decodeRaw, decMajor05]⟩

theorem mov (d a : Reg) : Statement (.mov d a) := one_word _ (fun _ => rfl) fun c => by
  refine ⟨by simp [majorAssigned], by simp, by simp [needsSecond, majorA3], fun hw x => by simp [decodeRaw, decMajor06]⟩

theorem sel (d a b : Reg) : Statement (.sel d a b) := one_word _ (fun _ => rfl) fun c => by
  refine ⟨by simp [majorAssigned], by simp, by simp [needsSecond, majorA3], fun hw x => by simp [decodeRaw, decMajor06]⟩

theorem rdind (d a : Reg) : Statement (.rdind d a) := one_word _ (fun _ => rfl) fun c => by
  refine ⟨by simp [majorAssigned], by simp, by simp [needsSecond, majorA3], fun hw x => by simp [decodeRaw, decMajor06]⟩

theorem wrind (a b : Reg) : Statement (.wrind a b) := one_word _ (fun _ => rfl) fun c => by
  refine ⟨by simp [majorAssigned], by simp, by simp [needsSecond, majorA3], fun hw x => by simp [decodeRaw, decMajor06]⟩

theorem mov64 (d a : Reg) : Statement (.mov64 d a) := one_word _ (fun _ => rfl) fun c => by
  refine ⟨by simp [majorAssigned], by simp, by simp [needsSecond, majorA3], fun hw x => by simp [decodeRaw, decMajor06]⟩

theorem shflIdx (d a b : Reg) : Statement (.shflIdx d a b) := one_word _ (fun _ => rfl) fun c => by
  refine ⟨by simp [majorAssigned], by simp, by simp [needsSecond, majorA3], fun hw x => by simp [decodeRaw, decMajor07]⟩

theorem shflUp (d a b : Reg) : Statement (.shflUp d a b) := one_word _ (fun _ => rfl) fun c => by
  refine ⟨by simp [majorAssigned], by simp, by simp [needsSecond, majorA3], fun hw x => by simp [decodeRaw, decMajor07]⟩

theorem shflDown (d a b : Reg) : Statement (.shflDown d a b) := one_word _ (fun _ => rfl) fun c => by
  refine ⟨by simp [majorAssigned], by simp, by simp [needsSecond, majorA3], fun hw x => by simp [decodeRaw, decMajor07]⟩

theorem shflXor (d a b : Reg) : Statement (.shflXor d a b) := one_word _ (fun _ => rfl) fun c => by
  refine ⟨by simp [majorAssigned], by simp, by simp [needsSecond, majorA3], fun hw x => by simp [decodeRaw, decMajor07]⟩

theorem voteBallot (d a : Reg) : Statement (.voteBallot d a) := one_word _ (fun _ => rfl) fun c => by
  refine ⟨by simp [majorAssigned], by simp, by simp [needsSecond, majorA3], fun hw x => by simp [decodeRaw, decMajor07]⟩

theorem voteAny (d a : Reg) : Statement (.voteAny d a) := one_word _ (fun _ => rfl) fun c => by
  refine ⟨by simp [majorAssigned], by simp, by simp [needsSecond, majorA3], fun hw x => by simp [decodeRaw, decMajor07]⟩

theorem voteAll (d a : Reg) : Statement (.voteAll d a) := one_word _ (fun _ => rfl) fun c => by
  refine ⟨by simp [majorAssigned], by simp, by simp [needsSecond, majorA3], fun hw x => by simp [decodeRaw, decMajor07]⟩

theorem elect (d : Reg) : Statement (.elect d) := one_word _ (fun _ => rfl) fun c => by
  refine ⟨by simp [majorAssigned], by simp, by simp [needsSecond, majorA3], fun hw x => by simp [decodeRaw, decMajor07]⟩

theorem redadd (d a : Reg) : Statement (.redadd d a) := one_word _ (fun _ => rfl) fun c => by
  refine ⟨by simp [majorAssigned], by simp, by simp [needsSecond, majorA3], fun hw x => by simp [decodeRaw, decMajor07]⟩

theorem redmin (d a : Reg) : Statement (.redmin d a) := one_word _ (fun _ => rfl) fun c => by
  refine ⟨by simp [majorAssigned], by simp, by simp [needsSecond, majorA3], fun hw x => by simp [decodeRaw, decMajor07]⟩

theorem redmax (d a : Reg) : Statement (.redmax d a) := one_word _ (fun _ => rfl) fun c => by
  refine ⟨by simp [majorAssigned], by simp, by simp [needsSecond, majorA3], fun hw x => by simp [decodeRaw, decMajor07]⟩

theorem redminu (d a : Reg) : Statement (.redminu d a) := one_word _ (fun _ => rfl) fun c => by
  refine ⟨by simp [majorAssigned], by simp, by simp [needsSecond, majorA3], fun hw x => by simp [decodeRaw, decMajor07]⟩

theorem redmaxu (d a : Reg) : Statement (.redmaxu d a) := one_word _ (fun _ => rfl) fun c => by
  refine ⟨by simp [majorAssigned], by simp, by simp [needsSecond, majorA3], fun hw x => by simp [decodeRaw, decMajor07]⟩

theorem redand (d a : Reg) : Statement (.redand d a) := one_word _ (fun _ => rfl) fun c => by
  refine ⟨by simp [majorAssigned], by simp, by simp [needsSecond, majorA3], fun hw x => by simp [decodeRaw, decMajor07]⟩

theorem redor (d a : Reg) : Statement (.redor d a) := one_word _ (fun _ => rfl) fun c => by
  refine ⟨by simp [majorAssigned], by simp, by simp [needsSecond, majorA3], fun hw x => by simp [decodeRaw, decMajor07]⟩

theorem redxor (d a : Reg) : Statement (.redxor d a) := two_words _ (fun _ => rfl) fun c => by
  refine ⟨by simp [majorAssigned], by simp, by simp [needsSecond, majorA3], fun hw => by simp [decodeRaw, decMajor07]⟩

theorem scanadd (d a : Reg) : Statement (.scanadd d a) := two_words _ (fun _ => rfl) fun c => by
  refine ⟨by simp [majorAssigned], by simp, by simp [needsSecond, majorA3], fun hw => by simp [decodeRaw, decMajor07]⟩

theorem fredadd (d a : Reg) (rnd : RMod) : Statement (.fredadd d a rnd) := two_words _ (fun _ => rfl) fun c => by
  refine ⟨by simp [majorAssigned], by simp, by simp [needsSecond, majorA3], fun hw => by simp [decodeRaw, decMajor07]⟩

theorem fredmin (d a : Reg) (rnd : RMod) : Statement (.fredmin d a rnd) := two_words _ (fun _ => rfl) fun c => by
  refine ⟨by simp [majorAssigned], by simp, by simp [needsSecond, majorA3], fun hw => by simp [decodeRaw, decMajor07]⟩

theorem fredmax (d a : Reg) (rnd : RMod) : Statement (.fredmax d a rnd) := two_words _ (fun _ => rfl) fun c => by
  refine ⟨by simp [majorAssigned], by simp, by simp [needsSecond, majorA3], fun hw => by simp [decodeRaw, decMajor07]⟩

theorem iaddi (d a : Reg) (imm : BitVec 11) : Statement (.iaddi d a imm) := one_word _ (fun _ => rfl) fun c => by
  refine ⟨by simp [majorAssigned], by simp, by simp [needsSecond, majorA3], fun hw x => by simp [decodeRaw]⟩

theorem andi (d a : Reg) (imm : BitVec 11) : Statement (.andi d a imm) := one_word _ (fun _ => rfl) fun c => by
  refine ⟨by simp [majorAssigned], by simp, by simp [needsSecond, majorA3], fun hw x => by simp [decodeRaw]⟩

theorem ori (d a : Reg) (imm : BitVec 11) : Statement (.ori d a imm) := one_word _ (fun _ => rfl) fun c => by
  refine ⟨by simp [majorAssigned], by simp, by simp [needsSecond, majorA3], fun hw x => by simp [decodeRaw]⟩

theorem xori (d a : Reg) (imm : BitVec 11) : Statement (.xori d a imm) := one_word _ (fun _ => rfl) fun c => by
  refine ⟨by simp [majorAssigned], by simp, by simp [needsSecond, majorA3], fun hw x => by simp [decodeRaw]⟩

theorem shli (d a : Reg) (imm : BitVec 5) : Statement (.shli d a imm) := one_word _ (fun _ => rfl) fun c => by
  refine ⟨by simp [majorAssigned], by simp, by simp [needsSecond, majorA3], fun hw x => by simp [decodeRaw]⟩

theorem cmpeqi (d a : Reg) (imm : BitVec 11) : Statement (.cmpeqi d a imm) := one_word _ (fun _ => rfl) fun c => by
  refine ⟨by simp [majorAssigned], by simp, by simp [needsSecond, majorA3], fun hw x => by simp [decodeRaw]⟩

theorem imuli (d a : Reg) (imm : BitVec 11) : Statement (.imuli d a imm) := one_word _ (fun _ => rfl) fun c => by
  refine ⟨by simp [majorAssigned], by simp, by simp [needsSecond, majorA3], fun hw x => by simp [decodeRaw]⟩

theorem movi (d : Reg) (imm : BitVec 18) : Statement (.movi d imm) := one_word _ (fun _ => rfl) fun c => by
  refine ⟨by simp [majorAssigned], by simp, by simp [needsSecond, majorA3], fun hw x => by simp [decodeRaw]⟩

theorem movh (d : Reg) (imm : BitVec 18) : Statement (.movh d imm) := one_word _ (fun _ => rfl) fun c => by
  refine ⟨by simp [majorAssigned], by simp, by simp [needsSecond, majorA3], fun hw x => by simp [decodeRaw]⟩

theorem movpc (d : Reg) (imm : BitVec 18) : Statement (.movpc d imm) := one_word _ (fun _ => rfl) fun c => by
  refine ⟨by simp [majorAssigned], by simp, by simp [needsSecond, majorA3], fun hw x => by simp [decodeRaw]⟩

theorem fadd (d a b : Reg) : Statement (.fadd d a b) := one_word _ (fun _ => rfl) fun c => by
  refine ⟨by simp [majorAssigned], by simp, by simp [needsSecond, majorA3], fun hw x => by simp [decodeRaw, decMajor14]⟩

theorem fsub (d a b : Reg) : Statement (.fsub d a b) := one_word _ (fun _ => rfl) fun c => by
  refine ⟨by simp [majorAssigned], by simp, by simp [needsSecond, majorA3], fun hw x => by simp [decodeRaw, decMajor14]⟩

theorem fmul (d a b : Reg) : Statement (.fmul d a b) := one_word _ (fun _ => rfl) fun c => by
  refine ⟨by simp [majorAssigned], by simp, by simp [needsSecond, majorA3], fun hw x => by simp [decodeRaw, decMajor14]⟩

theorem ffma (d a b : Reg) : Statement (.ffma d a b) := one_word _ (fun _ => rfl) fun c => by
  refine ⟨by simp [majorAssigned], by simp, by simp [needsSecond, majorA3], fun hw x => by simp [decodeRaw, decMajor14]⟩

theorem fnma (d a b : Reg) : Statement (.fnma d a b) := one_word _ (fun _ => rfl) fun c => by
  refine ⟨by simp [majorAssigned], by simp, by simp [needsSecond, majorA3], fun hw x => by simp [decodeRaw, decMajor14]⟩

theorem fdiv (d a b : Reg) : Statement (.fdiv d a b) := one_word _ (fun _ => rfl) fun c => by
  refine ⟨by simp [majorAssigned], by simp, by simp [needsSecond, majorA3], fun hw x => by simp [decodeRaw, decMajor14]⟩

theorem fsqrt (d a : Reg) : Statement (.fsqrt d a) := one_word _ (fun _ => rfl) fun c => by
  refine ⟨by simp [majorAssigned], by simp, by simp [needsSecond, majorA3], fun hw x => by simp [decodeRaw, decMajor14]⟩

theorem fmin (d a b : Reg) : Statement (.fmin d a b) := one_word _ (fun _ => rfl) fun c => by
  refine ⟨by simp [majorAssigned], by simp, by simp [needsSecond, majorA3], fun hw x => by simp [decodeRaw, decMajor14]⟩

theorem fmax (d a b : Reg) : Statement (.fmax d a b) := one_word _ (fun _ => rfl) fun c => by
  refine ⟨by simp [majorAssigned], by simp, by simp [needsSecond, majorA3], fun hw x => by simp [decodeRaw, decMajor14]⟩

theorem fabs (d a : Reg) : Statement (.fabs d a) := one_word _ (fun _ => rfl) fun c => by
  refine ⟨by simp [majorAssigned], by simp, by simp [needsSecond, majorA3], fun hw x => by simp [decodeRaw, decMajor14]⟩

theorem fneg (d a : Reg) : Statement (.fneg d a) := one_word _ (fun _ => rfl) fun c => by
  refine ⟨by simp [majorAssigned], by simp, by simp [needsSecond, majorA3], fun hw x => by simp [decodeRaw, decMajor14]⟩

theorem frnd (d a : Reg) : Statement (.frnd d a) := one_word _ (fun _ => rfl) fun c => by
  refine ⟨by simp [majorAssigned], by simp, by simp [needsSecond, majorA3], fun hw x => by simp [decodeRaw, decMajor14]⟩

theorem fclass (d a : Reg) : Statement (.fclass d a) := one_word _ (fun _ => rfl) fun c => by
  refine ⟨by simp [majorAssigned], by simp, by simp [needsSecond, majorA3], fun hw x => by simp [decodeRaw, decMajor14]⟩

theorem fscale (d a b : Reg) : Statement (.fscale d a b) := one_word _ (fun _ => rfl) fun c => by
  refine ⟨by simp [majorAssigned], by simp, by simp [needsSecond, majorA3], fun hw x => by simp [decodeRaw, decMajor14]⟩

theorem fcopysign (d a b : Reg) : Statement (.fcopysign d a b) := one_word _ (fun _ => rfl) fun c => by
  refine ⟨by simp [majorAssigned], by simp, by simp [needsSecond, majorA3], fun hw x => by simp [decodeRaw, decMajor14]⟩

theorem fminnum (d a b : Reg) : Statement (.fminnum d a b) := two_words _ (fun _ => rfl) fun c => by
  refine ⟨by simp [majorAssigned], by simp, by simp [needsSecond, majorA3], fun hw => by simp [decodeRaw, decMajor14]⟩

theorem fmaxnum (d a b : Reg) : Statement (.fmaxnum d a b) := two_words _ (fun _ => rfl) fun c => by
  refine ⟨by simp [majorAssigned], by simp, by simp [needsSecond, majorA3], fun hw => by simp [decodeRaw, decMajor14]⟩

theorem dadd (d a b : Reg) : Statement (.dadd d a b) := one_word _ (fun _ => rfl) fun c => by
  refine ⟨by simp [majorAssigned], by simp, by simp [needsSecond, majorA3], fun hw x => by simp [decodeRaw, decMajor15]⟩

theorem dsub (d a b : Reg) : Statement (.dsub d a b) := one_word _ (fun _ => rfl) fun c => by
  refine ⟨by simp [majorAssigned], by simp, by simp [needsSecond, majorA3], fun hw x => by simp [decodeRaw, decMajor15]⟩

theorem dmul (d a b : Reg) : Statement (.dmul d a b) := one_word _ (fun _ => rfl) fun c => by
  refine ⟨by simp [majorAssigned], by simp, by simp [needsSecond, majorA3], fun hw x => by simp [decodeRaw, decMajor15]⟩

theorem dfma (d a b : Reg) : Statement (.dfma d a b) := one_word _ (fun _ => rfl) fun c => by
  refine ⟨by simp [majorAssigned], by simp, by simp [needsSecond, majorA3], fun hw x => by simp [decodeRaw, decMajor15]⟩

theorem dnma (d a b : Reg) : Statement (.dnma d a b) := one_word _ (fun _ => rfl) fun c => by
  refine ⟨by simp [majorAssigned], by simp, by simp [needsSecond, majorA3], fun hw x => by simp [decodeRaw, decMajor15]⟩

theorem ddiv (d a b : Reg) : Statement (.ddiv d a b) := one_word _ (fun _ => rfl) fun c => by
  refine ⟨by simp [majorAssigned], by simp, by simp [needsSecond, majorA3], fun hw x => by simp [decodeRaw, decMajor15]⟩

theorem dsqrt (d a : Reg) : Statement (.dsqrt d a) := one_word _ (fun _ => rfl) fun c => by
  refine ⟨by simp [majorAssigned], by simp, by simp [needsSecond, majorA3], fun hw x => by simp [decodeRaw, decMajor15]⟩

theorem dmin (d a b : Reg) : Statement (.dmin d a b) := one_word _ (fun _ => rfl) fun c => by
  refine ⟨by simp [majorAssigned], by simp, by simp [needsSecond, majorA3], fun hw x => by simp [decodeRaw, decMajor15]⟩

theorem dmax (d a b : Reg) : Statement (.dmax d a b) := one_word _ (fun _ => rfl) fun c => by
  refine ⟨by simp [majorAssigned], by simp, by simp [needsSecond, majorA3], fun hw x => by simp [decodeRaw, decMajor15]⟩

theorem dabs (d a : Reg) : Statement (.dabs d a) := one_word _ (fun _ => rfl) fun c => by
  refine ⟨by simp [majorAssigned], by simp, by simp [needsSecond, majorA3], fun hw x => by simp [decodeRaw, decMajor15]⟩

theorem dneg (d a : Reg) : Statement (.dneg d a) := one_word _ (fun _ => rfl) fun c => by
  refine ⟨by simp [majorAssigned], by simp, by simp [needsSecond, majorA3], fun hw x => by simp [decodeRaw, decMajor15]⟩

theorem drnd (d a : Reg) : Statement (.drnd d a) := one_word _ (fun _ => rfl) fun c => by
  refine ⟨by simp [majorAssigned], by simp, by simp [needsSecond, majorA3], fun hw x => by simp [decodeRaw, decMajor15]⟩

theorem dclass (d a : Reg) : Statement (.dclass d a) := one_word _ (fun _ => rfl) fun c => by
  refine ⟨by simp [majorAssigned], by simp, by simp [needsSecond, majorA3], fun hw x => by simp [decodeRaw, decMajor15]⟩

theorem dscale (d a b : Reg) : Statement (.dscale d a b) := one_word _ (fun _ => rfl) fun c => by
  refine ⟨by simp [majorAssigned], by simp, by simp [needsSecond, majorA3], fun hw x => by simp [decodeRaw, decMajor15]⟩

theorem dcopysign (d a b : Reg) : Statement (.dcopysign d a b) := one_word _ (fun _ => rfl) fun c => by
  refine ⟨by simp [majorAssigned], by simp, by simp [needsSecond, majorA3], fun hw x => by simp [decodeRaw, decMajor15]⟩

theorem dminnum (d a b : Reg) : Statement (.dminnum d a b) := two_words _ (fun _ => rfl) fun c => by
  refine ⟨by simp [majorAssigned], by simp, by simp [needsSecond, majorA3], fun hw => by simp [decodeRaw, decMajor15]⟩

theorem dmaxnum (d a b : Reg) : Statement (.dmaxnum d a b) := two_words _ (fun _ => rfl) fun c => by
  refine ⟨by simp [majorAssigned], by simp, by simp [needsSecond, majorA3], fun hw => by simp [decodeRaw, decMajor15]⟩

theorem hadd2 (d a b : Reg) : Statement (.hadd2 d a b) := one_word _ (fun _ => rfl) fun c => by
  refine ⟨by simp [majorAssigned], by simp, by simp [needsSecond, majorA3], fun hw x => by simp [decodeRaw, decMajor16]⟩

theorem hsub2 (d a b : Reg) : Statement (.hsub2 d a b) := one_word _ (fun _ => rfl) fun c => by
  refine ⟨by simp [majorAssigned], by simp, by simp [needsSecond, majorA3], fun hw x => by simp [decodeRaw, decMajor16]⟩

theorem hmul2 (d a b : Reg) : Statement (.hmul2 d a b) := one_word _ (fun _ => rfl) fun c => by
  refine ⟨by simp [majorAssigned], by simp, by simp [needsSecond, majorA3], fun hw x => by simp [decodeRaw, decMajor16]⟩

theorem hfma2 (d a b : Reg) : Statement (.hfma2 d a b) := one_word _ (fun _ => rfl) fun c => by
  refine ⟨by simp [majorAssigned], by simp, by simp [needsSecond, majorA3], fun hw x => by simp [decodeRaw, decMajor16]⟩

theorem hmin2 (d a b : Reg) : Statement (.hmin2 d a b) := one_word _ (fun _ => rfl) fun c => by
  refine ⟨by simp [majorAssigned], by simp, by simp [needsSecond, majorA3], fun hw x => by simp [decodeRaw, decMajor16]⟩

theorem hmax2 (d a b : Reg) : Statement (.hmax2 d a b) := one_word _ (fun _ => rfl) fun c => by
  refine ⟨by simp [majorAssigned], by simp, by simp [needsSecond, majorA3], fun hw x => by simp [decodeRaw, decMajor16]⟩

theorem badd2 (d a b : Reg) : Statement (.badd2 d a b) := one_word _ (fun _ => rfl) fun c => by
  refine ⟨by simp [majorAssigned], by simp, by simp [needsSecond, majorA3], fun hw x => by simp [decodeRaw, decMajor16]⟩

theorem bsub2 (d a b : Reg) : Statement (.bsub2 d a b) := one_word _ (fun _ => rfl) fun c => by
  refine ⟨by simp [majorAssigned], by simp, by simp [needsSecond, majorA3], fun hw x => by simp [decodeRaw, decMajor16]⟩

theorem bmul2 (d a b : Reg) : Statement (.bmul2 d a b) := one_word _ (fun _ => rfl) fun c => by
  refine ⟨by simp [majorAssigned], by simp, by simp [needsSecond, majorA3], fun hw x => by simp [decodeRaw, decMajor16]⟩

theorem bfma2 (d a b : Reg) : Statement (.bfma2 d a b) := one_word _ (fun _ => rfl) fun c => by
  refine ⟨by simp [majorAssigned], by simp, by simp [needsSecond, majorA3], fun hw x => by simp [decodeRaw, decMajor16]⟩

theorem bmin2 (d a b : Reg) : Statement (.bmin2 d a b) := one_word _ (fun _ => rfl) fun c => by
  refine ⟨by simp [majorAssigned], by simp, by simp [needsSecond, majorA3], fun hw x => by simp [decodeRaw, decMajor16]⟩

theorem bmax2 (d a b : Reg) : Statement (.bmax2 d a b) := one_word _ (fun _ => rfl) fun c => by
  refine ⟨by simp [majorAssigned], by simp, by simp [needsSecond, majorA3], fun hw x => by simp [decodeRaw, decMajor16]⟩

theorem hdot2f (d a b : Reg) (rnd : RMod) : Statement (.hdot2f d a b rnd) := two_words _ (fun _ => rfl) fun c => by
  refine ⟨by simp [majorAssigned], by simp, by simp [needsSecond, majorA3], fun hw => by simp [decodeRaw, decMajor16]⟩

theorem bdot2f (d a b : Reg) (rnd : RMod) : Statement (.bdot2f d a b rnd) := two_words _ (fun _ => rfl) fun c => by
  refine ⟨by simp [majorAssigned], by simp, by simp [needsSecond, majorA3], fun hw => by simp [decodeRaw, decMajor16]⟩

theorem frcp (d a : Reg) : Statement (.frcp d a) := one_word _ (fun _ => rfl) fun c => by
  refine ⟨by simp [majorAssigned], by simp, by simp [needsSecond, majorA3], fun hw x => by simp [decodeRaw, decMajor17]⟩

theorem frsqrt (d a : Reg) : Statement (.frsqrt d a) := one_word _ (fun _ => rfl) fun c => by
  refine ⟨by simp [majorAssigned], by simp, by simp [needsSecond, majorA3], fun hw x => by simp [decodeRaw, decMajor17]⟩

theorem fexp2 (d a : Reg) : Statement (.fexp2 d a) := one_word _ (fun _ => rfl) fun c => by
  refine ⟨by simp [majorAssigned], by simp, by simp [needsSecond, majorA3], fun hw x => by simp [decodeRaw, decMajor17]⟩

theorem flog2 (d a : Reg) : Statement (.flog2 d a) := one_word _ (fun _ => rfl) fun c => by
  refine ⟨by simp [majorAssigned], by simp, by simp [needsSecond, majorA3], fun hw x => by simp [decodeRaw, decMajor17]⟩

theorem fsinpi (d a : Reg) : Statement (.fsinpi d a) := one_word _ (fun _ => rfl) fun c => by
  refine ⟨by simp [majorAssigned], by simp, by simp [needsSecond, majorA3], fun hw x => by simp [decodeRaw, decMajor17]⟩

theorem fcospi (d a : Reg) : Statement (.fcospi d a) := one_word _ (fun _ => rfl) fun c => by
  refine ⟨by simp [majorAssigned], by simp, by simp [needsSecond, majorA3], fun hw x => by simp [decodeRaw, decMajor17]⟩

theorem frcpA (d a : Reg) : Statement (.frcpA d a) := one_word _ (fun _ => rfl) fun c => by
  refine ⟨by simp [majorAssigned], by simp, by simp [needsSecond, majorA3], fun hw x => by simp [decodeRaw, decMajor17]⟩

theorem frsqrtA (d a : Reg) : Statement (.frsqrtA d a) := one_word _ (fun _ => rfl) fun c => by
  refine ⟨by simp [majorAssigned], by simp, by simp [needsSecond, majorA3], fun hw x => by simp [decodeRaw, decMajor17]⟩

theorem fexp2A (d a : Reg) : Statement (.fexp2A d a) := one_word _ (fun _ => rfl) fun c => by
  refine ⟨by simp [majorAssigned], by simp, by simp [needsSecond, majorA3], fun hw x => by simp [decodeRaw, decMajor17]⟩

theorem flog2A (d a : Reg) : Statement (.flog2A d a) := one_word _ (fun _ => rfl) fun c => by
  refine ⟨by simp [majorAssigned], by simp, by simp [needsSecond, majorA3], fun hw x => by simp [decodeRaw, decMajor17]⟩

theorem fsinA (d a : Reg) : Statement (.fsinA d a) := one_word _ (fun _ => rfl) fun c => by
  refine ⟨by simp [majorAssigned], by simp, by simp [needsSecond, majorA3], fun hw x => by simp [decodeRaw, decMajor17]⟩

theorem fcosA (d a : Reg) : Statement (.fcosA d a) := one_word _ (fun _ => rfl) fun c => by
  refine ⟨by simp [majorAssigned], by simp, by simp [needsSecond, majorA3], fun hw x => by simp [decodeRaw, decMajor17]⟩

theorem ftanhA (d a : Reg) : Statement (.ftanhA d a) := one_word _ (fun _ => rfl) fun c => by
  refine ⟨by simp [majorAssigned], by simp, by simp [needsSecond, majorA3], fun hw x => by simp [decodeRaw, decMajor17]⟩

theorem f2d (d a : Reg) : Statement (.f2d d a) := one_word _ (fun _ => rfl) fun c => by
  refine ⟨by simp [majorAssigned], by simp, by simp [needsSecond, majorA3], fun hw x => by simp [decodeRaw, decMajor18]⟩

theorem d2f (d a : Reg) : Statement (.d2f d a) := one_word _ (fun _ => rfl) fun c => by
  refine ⟨by simp [majorAssigned], by simp, by simp [needsSecond, majorA3], fun hw x => by simp [decodeRaw, decMajor18]⟩

theorem f2h (d a b : Reg) : Statement (.f2h d a b) := one_word _ (fun _ => rfl) fun c => by
  refine ⟨by simp [majorAssigned], by simp, by simp [needsSecond, majorA3], fun hw x => by simp [decodeRaw, decMajor18]⟩

theorem h2f (d a : Reg) : Statement (.h2f d a) := one_word _ (fun _ => rfl) fun c => by
  refine ⟨by simp [majorAssigned], by simp, by simp [needsSecond, majorA3], fun hw x => by simp [decodeRaw, decMajor18]⟩

theorem f2bf (d a b : Reg) : Statement (.f2bf d a b) := one_word _ (fun _ => rfl) fun c => by
  refine ⟨by simp [majorAssigned], by simp, by simp [needsSecond, majorA3], fun hw x => by simp [decodeRaw, decMajor18]⟩

theorem bf2f (d a : Reg) : Statement (.bf2f d a) := one_word _ (fun _ => rfl) fun c => by
  refine ⟨by simp [majorAssigned], by simp, by simp [needsSecond, majorA3], fun hw x => by simp [decodeRaw, decMajor18]⟩

theorem f2e4 (d a b : Reg) : Statement (.f2e4 d a b) := one_word _ (fun _ => rfl) fun c => by
  refine ⟨by simp [majorAssigned], by simp, by simp [needsSecond, majorA3], fun hw x => by simp [decodeRaw, decMajor18]⟩

theorem f2e5 (d a b : Reg) : Statement (.f2e5 d a b) := one_word _ (fun _ => rfl) fun c => by
  refine ⟨by simp [majorAssigned], by simp, by simp [needsSecond, majorA3], fun hw x => by simp [decodeRaw, decMajor18]⟩

theorem e42f (d a : Reg) : Statement (.e42f d a) := one_word _ (fun _ => rfl) fun c => by
  refine ⟨by simp [majorAssigned], by simp, by simp [needsSecond, majorA3], fun hw x => by simp [decodeRaw, decMajor18]⟩

theorem e52f (d a : Reg) : Statement (.e52f d a) := one_word _ (fun _ => rfl) fun c => by
  refine ⟨by simp [majorAssigned], by simp, by simp [needsSecond, majorA3], fun hw x => by simp [decodeRaw, decMajor18]⟩

theorem f2i (d a : Reg) : Statement (.f2i d a) := one_word _ (fun _ => rfl) fun c => by
  refine ⟨by simp [majorAssigned], by simp, by simp [needsSecond, majorA3], fun hw x => by simp [decodeRaw, decMajor18]⟩

theorem f2u (d a : Reg) : Statement (.f2u d a) := one_word _ (fun _ => rfl) fun c => by
  refine ⟨by simp [majorAssigned], by simp, by simp [needsSecond, majorA3], fun hw x => by simp [decodeRaw, decMajor18]⟩

theorem i2f (d a : Reg) : Statement (.i2f d a) := one_word _ (fun _ => rfl) fun c => by
  refine ⟨by simp [majorAssigned], by simp, by simp [needsSecond, majorA3], fun hw x => by simp [decodeRaw, decMajor18]⟩

theorem u2f (d a : Reg) : Statement (.u2f d a) := one_word _ (fun _ => rfl) fun c => by
  refine ⟨by simp [majorAssigned], by simp, by simp [needsSecond, majorA3], fun hw x => by simp [decodeRaw, decMajor18]⟩

theorem d2i (d a : Reg) (rnd : RMod) : Statement (.d2i d a rnd) := two_words _ (fun _ => rfl) fun c => by
  refine ⟨by simp [majorAssigned], by simp, by simp [needsSecond, majorA3], fun hw => by simp [decodeRaw, decMajor18]⟩

theorem d2u (d a : Reg) (rnd : RMod) : Statement (.d2u d a rnd) := two_words _ (fun _ => rfl) fun c => by
  refine ⟨by simp [majorAssigned], by simp, by simp [needsSecond, majorA3], fun hw => by simp [decodeRaw, decMajor18]⟩

theorem i2d (d a : Reg) : Statement (.i2d d a) := two_words _ (fun _ => rfl) fun c => by
  refine ⟨by simp [majorAssigned], by simp, by simp [needsSecond, majorA3], fun hw => by simp [decodeRaw, decMajor18]⟩

theorem u2d (d a : Reg) : Statement (.u2d d a) := two_words _ (fun _ => rfl) fun c => by
  refine ⟨by simp [majorAssigned], by simp, by simp [needsSecond, majorA3], fun hw => by simp [decodeRaw, decMajor18]⟩

theorem f2l (d a : Reg) (rnd : RMod) : Statement (.f2l d a rnd) := two_words _ (fun _ => rfl) fun c => by
  refine ⟨by simp [majorAssigned], by simp, by simp [needsSecond, majorA3], fun hw => by simp [decodeRaw, decMajor18]⟩

theorem f2ul (d a : Reg) (rnd : RMod) : Statement (.f2ul d a rnd) := two_words _ (fun _ => rfl) fun c => by
  refine ⟨by simp [majorAssigned], by simp, by simp [needsSecond, majorA3], fun hw => by simp [decodeRaw, decMajor18]⟩

theorem l2f (d a : Reg) (rnd : RMod) : Statement (.l2f d a rnd) := two_words _ (fun _ => rfl) fun c => by
  refine ⟨by simp [majorAssigned], by simp, by simp [needsSecond, majorA3], fun hw => by simp [decodeRaw, decMajor18]⟩

theorem ul2f (d a : Reg) (rnd : RMod) : Statement (.ul2f d a rnd) := two_words _ (fun _ => rfl) fun c => by
  refine ⟨by simp [majorAssigned], by simp, by simp [needsSecond, majorA3], fun hw => by simp [decodeRaw, decMajor18]⟩

theorem d2l (d a : Reg) (rnd : RMod) : Statement (.d2l d a rnd) := two_words _ (fun _ => rfl) fun c => by
  refine ⟨by simp [majorAssigned], by simp, by simp [needsSecond, majorA3], fun hw => by simp [decodeRaw, decMajor18]⟩

theorem d2ul (d a : Reg) (rnd : RMod) : Statement (.d2ul d a rnd) := two_words _ (fun _ => rfl) fun c => by
  refine ⟨by simp [majorAssigned], by simp, by simp [needsSecond, majorA3], fun hw => by simp [decodeRaw, decMajor18]⟩

theorem l2d (d a : Reg) (rnd : RMod) : Statement (.l2d d a rnd) := two_words _ (fun _ => rfl) fun c => by
  refine ⟨by simp [majorAssigned], by simp, by simp [needsSecond, majorA3], fun hw => by simp [decodeRaw, decMajor18]⟩

theorem ul2d (d a : Reg) (rnd : RMod) : Statement (.ul2d d a rnd) := two_words _ (fun _ => rfl) fun c => by
  refine ⟨by simp [majorAssigned], by simp, by simp [needsSecond, majorA3], fun hw => by simp [decodeRaw, decMajor18]⟩

theorem fpExtendedRoundingForm (maj : FpMajor) (op : BitVec 4) (d a b : Reg) (rnd : RMod) (fl : BitVec 2) :
    Statement (.fpExtendedRoundingForm maj op d a b rnd fl) := two_words _ (fun _ => rfl) fun c => by
  refine ⟨by cases maj <;> simp [majorAssigned, encFpMajor], by simp,
    by cases maj <;> simp [needsSecond, majorA3, encFpMajor], fun hw => fpExt_decodes maj op d a b rnd fl c hw⟩

theorem aaddf (d a b : Reg) : Statement (.aaddf d a b) := one_word _ (fun _ => rfl) fun c => by
  refine ⟨by simp [majorAssigned], by simp, by simp [needsSecond, majorA3], fun hw x => by simp [decodeRaw, decMajor19]⟩

theorem aaddd (d a b : Reg) : Statement (.aaddd d a b) := one_word _ (fun _ => rfl) fun c => by
  refine ⟨by simp [majorAssigned], by simp, by simp [needsSecond, majorA3], fun hw x => by simp [decodeRaw, decMajor19]⟩

theorem aaddh (d a b : Reg) : Statement (.aaddh d a b) := one_word _ (fun _ => rfl) fun c => by
  refine ⟨by simp [majorAssigned], by simp, by simp [needsSecond, majorA3], fun hw x => by simp [decodeRaw, decMajor19]⟩

theorem aaddbf (d a b : Reg) : Statement (.aaddbf d a b) := one_word _ (fun _ => rfl) fun c => by
  refine ⟨by simp [majorAssigned], by simp, by simp [needsSecond, majorA3], fun hw x => by simp [decodeRaw, decMajor19]⟩

theorem aaddq (d a : Reg) : Statement (.aaddq d a) := one_word _ (fun _ => rfl) fun c => by
  refine ⟨by simp [majorAssigned], by simp, by simp [needsSecond, majorA3], fun hw x => by simp [decodeRaw, decMajor19]⟩

theorem ared (d a : Reg) : Statement (.ared d a) := one_word _ (fun _ => rfl) fun c => by
  refine ⟨by simp [majorAssigned], by simp, by simp [needsSecond, majorA3], fun hw x => by simp [decodeRaw, decMajor19]⟩

theorem acvtf (d a b : Reg) : Statement (.acvtf d a b) := one_word _ (fun _ => rfl) fun c => by
  refine ⟨by simp [majorAssigned], by simp, by simp [needsSecond, majorA3], fun hw x => by simp [decodeRaw, decMajor19]⟩

theorem acvtd (d a b : Reg) : Statement (.acvtd d a b) := one_word _ (fun _ => rfl) fun c => by
  refine ⟨by simp [majorAssigned], by simp, by simp [needsSecond, majorA3], fun hw x => by simp [decodeRaw, decMajor19]⟩

theorem bra (off : BitVec 18) : Statement (.bra off) := one_word _ (fun _ => rfl) fun c => by
  refine ⟨by simp [majorAssigned], by simp, by simp [needsSecond, majorA3], fun hw x => by simp [decodeRaw]⟩

theorem brm (r : Reg) (off : BitVec 18) : Statement (.brm r off) := one_word _ (fun _ => rfl) fun c => by
  refine ⟨by simp [majorAssigned], by simp, by simp [needsSecond, majorA3], fun hw x => by simp [decodeRaw]⟩

theorem call (r : Reg) (off : BitVec 18) : Statement (.call r off) := one_word _ (fun _ => rfl) fun c => by
  refine ⟨by simp [majorAssigned], by simp, by simp [needsSecond, majorA3], fun hw x => by simp [decodeRaw]⟩

theorem join  : Statement .join := one_word _ (fun _ => rfl) fun c => by
  refine ⟨by simp [majorAssigned], by simp, by simp [needsSecond, majorA3], fun hw x => by simp [decodeRaw, decMajor20]⟩

theorem regang  : Statement .regang := one_word _ (fun _ => rfl) fun c => by
  refine ⟨by simp [majorAssigned], by simp, by simp [needsSecond, majorA3], fun hw x => by simp [decodeRaw, decMajor20]⟩

theorem regangWg  : Statement .regangWg := one_word _ (fun _ => rfl) fun c => by
  refine ⟨by simp [majorAssigned], by simp, by simp [needsSecond, majorA3], fun hw x => by simp [decodeRaw, decMajor20]⟩

theorem ret (a : Reg) : Statement (.ret a) := one_word _ (fun _ => rfl) fun c => by
  refine ⟨by simp [majorAssigned], by simp, by simp [needsSecond, majorA3], fun hw x => by simp [decodeRaw, decMajor20]⟩

theorem jmpi (a : Reg) : Statement (.jmpi a) := one_word _ (fun _ => rfl) fun c => by
  refine ⟨by simp [majorAssigned], by simp, by simp [needsSecond, majorA3], fun hw x => by simp [decodeRaw, decMajor20]⟩

theorem exit  : Statement .exit := one_word _ (fun _ => rfl) fun c => by
  refine ⟨by simp [majorAssigned], by simp, by simp [needsSecond, majorA3], fun hw x => by simp [decodeRaw, decMajor20]⟩

theorem yield  : Statement .yield := one_word _ (fun _ => rfl) fun c => by
  refine ⟨by simp [majorAssigned], by simp, by simp [needsSecond, majorA3], fun hw x => by simp [decodeRaw, decMajor20]⟩

theorem trap (n : BitVec 14) : Statement (.trap n) := one_word _ (fun _ => rfl) fun c => by
  refine ⟨by simp [majorAssigned], by simp, by simp [needsSecond, majorA3], fun hw x => by simp [decodeRaw, decMajor20]⟩

theorem brk (n : BitVec 14) : Statement (.brk n) := one_word _ (fun _ => rfl) fun c => by
  refine ⟨by simp [majorAssigned], by simp, by simp [needsSecond, majorA3], fun hw x => by simp [decodeRaw, decMajor20]⟩

theorem rtt  : Statement .rtt := one_word _ (fun _ => rfl) fun c => by
  refine ⟨by simp [majorAssigned], by simp, by simp [needsSecond, majorA3], fun hw x => by simp [decodeRaw, decMajor20]⟩

theorem sysrd (d : Reg) (csr : BitVec 12) : Statement (.sysrd d csr) := one_word _ (fun _ => rfl) fun c => by
  refine ⟨by simp [majorAssigned], by simp, by simp [needsSecond, majorA3], fun hw x => ?_⟩
  have h : csr ≠ 0x020#12 := by
    simpa [Instr.wellFormed, Instr.aligned, Instr.expressible, Instr.commandOK] using hw
  simp [decodeRaw, decMajor21, h]

theorem sysrdCyclelo (d : Reg) : Statement (.sysrdCyclelo d) := one_word _ (fun _ => rfl) fun c => by
  refine ⟨by simp [majorAssigned], by simp, by simp [needsSecond, majorA3], fun hw x => by simp [decodeRaw, decMajor21]⟩

theorem syswr (d : Reg) (csr : BitVec 12) : Statement (.syswr d csr) := one_word _ (fun _ => rfl) fun c => by
  refine ⟨by simp [majorAssigned], by simp, by simp [needsSecond, majorA3], fun hw x => ?_⟩
  have h : csr ≠ 0x111#12 ∧ csr ≠ 0x160#12 := by
    simpa [Instr.wellFormed, Instr.aligned, Instr.expressible, Instr.commandOK] using hw
  simp [decodeRaw, decMajor21, h]

theorem syswrFpflags (d : Reg) : Statement (.syswrFpflags d) := one_word _ (fun _ => rfl) fun c => by
  refine ⟨by simp [majorAssigned], by simp, by simp [needsSecond, majorA3], fun hw x => by simp [decodeRaw, decMajor21]⟩

theorem syswrGangctl (d : Reg) : Statement (.syswrGangctl d) := one_word _ (fun _ => rfl) fun c => by
  refine ⟨by simp [majorAssigned], by simp, by simp [needsSecond, majorA3], fun hw x => by simp [decodeRaw, decMajor21]⟩

theorem fenceAcq (scope : Scope) : Statement (.fenceAcq scope) := one_word _ (fun _ => rfl) fun c => by
  refine ⟨by simp [majorAssigned], by simp, by simp [needsSecond, majorA3], fun hw x => by simp [decodeRaw, decMajor21]⟩

theorem fenceRel (scope : Scope) : Statement (.fenceRel scope) := one_word _ (fun _ => rfl) fun c => by
  refine ⟨by simp [majorAssigned], by simp, by simp [needsSecond, majorA3], fun hw x => by simp [decodeRaw, decMajor21]⟩

theorem fenceSc (scope : Scope) : Statement (.fenceSc scope) := one_word _ (fun _ => rfl) fun c => by
  refine ⟨by simp [majorAssigned], by simp, by simp [needsSecond, majorA3], fun hw x => by simp [decodeRaw, decMajor21]⟩

theorem spanOpen (d : Reg) : Statement (.spanOpen d) := one_word _ (fun _ => rfl) fun c => by
  refine ⟨by simp [majorAssigned], by simp, by simp [needsSecond, majorA3], fun hw x => by simp [decodeRaw, decMajor21]⟩

theorem spanClose  : Statement .spanClose := one_word _ (fun _ => rfl) fun c => by
  refine ⟨by simp [majorAssigned], by simp, by simp [needsSecond, majorA3], fun hw x => by simp [decodeRaw, decMajor21]⟩

theorem leaseSet (d : Reg) (mode : LeaseMode) : Statement (.leaseSet d mode) := one_word _ (fun _ => rfl) fun c => by
  refine ⟨by simp [majorAssigned], by simp, by simp [needsSecond, majorA3], fun hw x => by
    have h : mode = .measured → d = 0#7 := fun hm => by
      simpa [Instr.wellFormed, Instr.expressible, hm] using (Bool.and_eq_true_iff.mp (Bool.and_eq_true_iff.mp hw).1).2
    simp only [decodeRaw, decMajor21]
    by_cases hm : mode = .measured <;> simp [hm, h]⟩

theorem leaseGet (d : Reg) : Statement (.leaseGet d) := one_word _ (fun _ => rfl) fun c => by
  refine ⟨by simp [majorAssigned], by simp, by simp [needsSecond, majorA3], fun hw x => by simp [decodeRaw, decMajor21]⟩

theorem regsGrow (d : Reg) : Statement (.regsGrow d) := one_word _ (fun _ => rfl) fun c => by
  refine ⟨by simp [majorAssigned], by simp, by simp [needsSecond, majorA3], fun hw x => by simp [decodeRaw, decMajor21]⟩

theorem regsShrink (d : Reg) : Statement (.regsShrink d) := one_word _ (fun _ => rfl) fun c => by
  refine ⟨by simp [majorAssigned], by simp, by simp [needsSecond, majorA3], fun hw x => by simp [decodeRaw, decMajor21]⟩

theorem gridLaunch (d s : Reg) : Statement (.gridLaunch d s) := one_word _ (fun _ => rfl) fun c => by
  refine ⟨by simp [majorAssigned], by simp, by simp [needsSecond, majorA3], fun hw x => by simp [decodeRaw, decMajor21]⟩

theorem ld (m : MemOp) : Statement (.ld m) :=
  mem_words _ 0x24#6 m.la m.sz m (by decide) (fun _ => rfl) fun hw c x => by
    obtain ⟨mx, la, d, base, off, sz⟩ := m
    cases mx <;> simp [decodeRaw, decMemMajor, decMem]

theorem lds (m : MemOp) : Statement (.lds m) :=
  mem_words _ 0x25#6 m.la m.sz m (by decide) (fun _ => rfl) fun hw c x => by
    have h : m.sz ≠ 2#2 := by
      have h0 := hw
      simp [Instr.wellFormed, Instr.expressible] at h0
      simp [h0]
    obtain ⟨mx, la, d, base, off, sz⟩ := m
    cases mx <;> simp [decodeRaw, decMemMajor, decMem, h]

theorem st (m : MemOp) : Statement (.st m) :=
  mem_words _ 0x26#6 m.la m.sz m (by decide) (fun _ => rfl) fun hw c x => by
    obtain ⟨mx, la, d, base, off, sz⟩ := m
    cases mx <;> simp [decodeRaw, decMemMajor, decMem]

theorem stq (m : MemOp) : Statement (.stq m) :=
  mem_words _ 0x27#6 m.la 3#2 m (by decide) (fun _ => rfl) fun hw c x => by
    have h : m.sz = 3#2 := by
      have h0 := hw
      simp [Instr.wellFormed, Instr.expressible] at h0
      simp [h0]
    obtain ⟨mx, la, d, base, off, sz⟩ := m
    simp only at h
    subst h
    cases mx <;> simp [decodeRaw, decMemMajor, decMem]

theorem ldByp (m : MemOp) : Statement (.ldByp m) :=
  mem_words _ 0x28#6 m.la m.sz m (by decide) (fun _ => rfl) fun hw c x => by
    obtain ⟨mx, la, d, base, off, sz⟩ := m
    cases mx <;> simp [decodeRaw, decMemMajor, decMem]

theorem ldAcq (scope : Scope) (m : MemOp) : Statement (.ldAcq scope m) :=
  mem_words _ 0x29#6 (encScope scope ++ m.la.extractLsb' 0 1) m.sz m (by decide) (fun _ => rfl) fun hw c x => by
    have h : m.la = 0#4 := by
      have h0 := hw
      simp [Instr.wellFormed, Instr.expressible] at h0
      simp [h0]
    obtain ⟨mx, la, d, base, off, sz⟩ := m
    subst h
    cases mx <;> simp [decodeRaw, decMemMajor, decMem, scope_of_la]

theorem stRel (scope : Scope) (m : MemOp) : Statement (.stRel scope m) :=
  mem_words _ 0x2a#6 (encScope scope ++ m.la.extractLsb' 0 1) m.sz m (by decide) (fun _ => rfl) fun hw c x => by
    have h : m.la = 0#4 := by
      have h0 := hw
      simp [Instr.wellFormed, Instr.expressible] at h0
      simp [h0]
    obtain ⟨mx, la, d, base, off, sz⟩ := m
    subst h
    cases mx <;> simp [decodeRaw, decMemMajor, decMem, scope_of_la]

theorem atom (x : AtomArgs) : Statement (.atom x) := two_words _ (fun _ => rfl) fun c => by
  refine ⟨by simp [majorAssigned], by simp, by simp [needsSecond, majorA3], fun _ => ?_⟩
  obtain ⟨op, dbl, scope, ord, d, base, off, cc⟩ := x
  cases dbl <;> simp [decodeRaw, decMemMajor, decAtom, decAtomArgs]

theorem ldl (m : MemOp) : Statement (.ldl m) :=
  mem_words _ 0x2c#6 m.la m.sz m (by decide) (fun _ => rfl) fun hw c x => by
    obtain ⟨mx, la, d, base, off, sz⟩ := m
    cases mx <;> simp [decodeRaw, decMemMajor, decMem]

theorem stl (m : MemOp) : Statement (.stl m) :=
  mem_words _ 0x2d#6 m.la m.sz m (by decide) (fun _ => rfl) fun hw c x => by
    obtain ⟨mx, la, d, base, off, sz⟩ := m
    cases mx <;> simp [decodeRaw, decMemMajor, decMem]

theorem atoml (x : AtomArgs) : Statement (.atoml x) := two_words _ (fun _ => rfl) fun c => by
  refine ⟨by simp [majorAssigned], by simp, by simp [needsSecond, majorA3], fun _ => ?_⟩
  obtain ⟨op, dbl, scope, ord, d, base, off, cc⟩ := x
  cases dbl <;> simp [decodeRaw, decMemMajor, decAtom, decAtomArgs]

theorem prefL1 (m : MemOp) : Statement (.prefL1 m) :=
  mem_words _ 0x2f#6 m.la 0#2 { m with d := 0#7 } (by decide) (fun _ => rfl) fun hw c x => by
    have h : m.d = 0#7 ∧ m.sz = 0#2 := by
      have h0 := hw
      simp [Instr.wellFormed, Instr.expressible] at h0
      simp [h0]
    obtain ⟨mx, la, d, base, off, sz⟩ := m
    simp only at h
    obtain ⟨rfl, rfl⟩ := h
    cases mx <;> simp [decodeRaw, decMemMajor, decMem]

theorem prefLlc (m : MemOp) : Statement (.prefLlc m) :=
  mem_words _ 0x2f#6 m.la 1#2 { m with d := 0#7 } (by decide) (fun _ => rfl) fun hw c x => by
    have h : m.d = 0#7 ∧ m.sz = 0#2 := by
      have h0 := hw
      simp [Instr.wellFormed, Instr.expressible] at h0
      simp [h0]
    obtain ⟨mx, la, d, base, off, sz⟩ := m
    simp only at h
    obtain ⟨rfl, rfl⟩ := h
    cases mx <;> simp [decodeRaw, decMemMajor, decMem]

theorem surfLd (d a b : Reg) : Statement (.surfLd d a b) := one_word _ (fun _ => rfl) fun c => by
  refine ⟨by simp [majorAssigned], by simp, by simp [needsSecond, majorA3], fun hw x => by simp [decodeRaw, decMajor30]⟩

theorem surfSt (d a b : Reg) : Statement (.surfSt d a b) := one_word _ (fun _ => rfl) fun c => by
  refine ⟨by simp [majorAssigned], by simp, by simp [needsSecond, majorA3], fun hw x => by simp [decodeRaw, decMajor30]⟩

theorem surfStc (d a b : Reg) : Statement (.surfStc d a b) := one_word _ (fun _ => rfl) fun c => by
  refine ⟨by simp [majorAssigned], by simp, by simp [needsSecond, majorA3], fun hw x => by simp [decodeRaw, decMajor30]⟩

theorem surfMv (d a b : Reg) : Statement (.surfMv d a b) := one_word _ (fun _ => rfl) fun c => by
  refine ⟨by simp [majorAssigned], by simp, by simp [needsSecond, majorA3], fun hw x => by simp [decodeRaw, decMajor30]⟩

theorem tex (d a b : Reg) : Statement (.tex d a b) := one_word _ (fun _ => rfl) fun c => by
  refine ⟨by simp [majorAssigned], by simp, by simp [needsSecond, majorA3], fun hw x => by simp [decodeRaw, decMajor31]⟩

theorem rastKick (d a : Reg) : Statement (.rastKick d a) := one_word _ (fun _ => rfl) fun c => by
  refine ⟨by simp [majorAssigned], by simp, by simp [needsSecond, majorA3], fun hw x => by simp [decodeRaw, decMajor31]⟩

theorem fgrid (d a b : Reg) : Statement (.fgrid d a b) := one_word _ (fun _ => rfl) fun c => by
  refine ⟨by simp [majorAssigned], by simp, by simp [needsSecond, majorA3], fun hw x => by simp [decodeRaw, decMajor32]⟩

theorem fgrid2d (d a b : Reg) : Statement (.fgrid2d d a b) := one_word _ (fun _ => rfl) fun c => by
  refine ⟨by simp [majorAssigned], by simp, by simp [needsSecond, majorA3], fun hw x => by simp [decodeRaw, decMajor32]⟩

theorem unpack (d a b : Reg) : Statement (.unpack d a b) := one_word _ (fun _ => rfl) fun c => by
  refine ⟨by simp [majorAssigned], by simp, by simp [needsSecond, majorA3], fun hw x => by simp [decodeRaw, decMajor33]⟩

theorem pack (d a b : Reg) : Statement (.pack d a b) := one_word _ (fun _ => rfl) fun c => by
  refine ⟨by simp [majorAssigned], by simp, by simp [needsSecond, majorA3], fun hw x => by simp [decodeRaw, decMajor33]⟩

theorem mma (la func : BitVec 4) (a b : Reg) (flags : BitVec 3) : Statement (.mma la func a b flags) := one_word _ (fun _ => rfl) fun c => by
  refine ⟨by simp [majorAssigned], by simp, by simp [needsSecond, majorA3], fun hw x => ?_⟩
  have h : flags &&& mmaFlagBits func = flags := by
    simpa [Instr.wellFormed, Instr.aligned, Instr.expressible, Instr.commandOK] using hw
  simp [decodeRaw, decTile, h]

theorem mmaB (la func : BitVec 4) (a b : Reg) (flags : BitVec 3) : Statement (.mmaB la func a b flags) := one_word _ (fun _ => rfl) fun c => by
  refine ⟨by simp [majorAssigned], by simp, by simp [needsSecond, majorA3], fun hw x => ?_⟩
  have h : flags &&& mmaFlagBits func = flags := by
    simpa [Instr.wellFormed, Instr.aligned, Instr.expressible, Instr.commandOK] using hw
  simp [decodeRaw, decTile, h]

theorem accWin (la : BitVec 4) (a : Reg) : Statement (.accWin la a) := one_word _ (fun _ => rfl) fun c => by
  refine ⟨by simp [majorAssigned], by simp, by simp [needsSecond, majorA3], fun hw x => by simp [decodeRaw, decTile]⟩

theorem accZero (la : BitVec 4) (b : Reg) : Statement (.accZero la b) := one_word _ (fun _ => rfl) fun c => by
  refine ⟨by simp [majorAssigned], by simp, by simp [needsSecond, majorA3], fun hw x => by simp [decodeRaw, decTile]⟩

theorem accLd (la : BitVec 4) (a b : Reg) : Statement (.accLd la a b) := one_word _ (fun _ => rfl) fun c => by
  refine ⟨by simp [majorAssigned], by simp, by simp [needsSecond, majorA3], fun hw x => by simp [decodeRaw, decTile]⟩

theorem accSt (la : BitVec 4) (a b : Reg) : Statement (.accSt la a b) := one_word _ (fun _ => rfl) fun c => by
  refine ⟨by simp [majorAssigned], by simp, by simp [needsSecond, majorA3], fun hw x => by simp [decodeRaw, decTile]⟩

theorem accTolm (la : BitVec 4) (a b : Reg) : Statement (.accTolm la a b) := one_word _ (fun _ => rfl) fun c => by
  refine ⟨by simp [majorAssigned], by simp, by simp [needsSecond, majorA3], fun hw x => by simp [decodeRaw, decTile]⟩

theorem accFromlm (la : BitVec 4) (a b : Reg) : Statement (.accFromlm la a b) := one_word _ (fun _ => rfl) fun c => by
  refine ⟨by simp [majorAssigned], by simp, by simp [needsSecond, majorA3], fun hw x => by simp [decodeRaw, decTile]⟩

theorem accCvt (la : BitVec 4) (fmt : BitVec 2) (a b : Reg) : Statement (.accCvt la fmt a b) := one_word _ (fun _ => rfl) fun c => by
  refine ⟨by simp [majorAssigned], by simp, by simp [needsSecond, majorA3], fun hw x => ?_⟩
  simp [decodeRaw, decTile, accCvt_fmt]

theorem scacc (la : BitVec 4) (zp : Bool) (a b : Reg) : Statement (.scacc la zp a b) := one_word _ (fun _ => rfl) fun c => by
  refine ⟨by simp [majorAssigned], by simp, by simp [needsSecond, majorA3], fun hw x => ?_⟩
  cases zp <;> simp [decodeRaw, decTile]

theorem tscaleBind (la : BitVec 4) (a b : Reg) : Statement (.tscaleBind la a b) := one_word _ (fun _ => rfl) fun c => by
  refine ⟨by simp [majorAssigned], by simp, by simp [needsSecond, majorA3], fun hw x => by simp [decodeRaw, decTile]⟩

theorem wbufLd (la : BitVec 4) (a b : Reg) : Statement (.wbufLd la a b) := one_word _ (fun _ => rfl) fun c => by
  refine ⟨by simp [majorAssigned], by simp, by simp [needsSecond, majorA3], fun hw x => by simp [decodeRaw, decTile]⟩

theorem wbufLdsp (la : BitVec 4) (a b : Reg) : Statement (.wbufLdsp la a b) := one_word _ (fun _ => rfl) fun c => by
  refine ⟨by simp [majorAssigned], by simp, by simp [needsSecond, majorA3], fun hw x => by simp [decodeRaw, decTile]⟩

theorem cpyKick (a b : Reg) : Statement (.cpyKick a b) := one_word _ (fun _ => rfl) fun c => by
  refine ⟨by simp [majorAssigned], by simp, by simp [needsSecond, majorA3], fun hw x => by simp [decodeRaw, decTile]⟩

theorem cpyStat (done : Bool) (b a : Reg) : Statement (.cpyStat done b a) := one_word _ (fun _ => rfl) fun c => by
  refine ⟨by simp [majorAssigned], by simp, by simp [needsSecond, majorA3], fun hw x => ?_⟩
  cases done <;> simp [decodeRaw, decTile]

theorem barInit (bar : BarName) (b : Reg) : Statement (.barInit bar b) := one_word _ (fun _ => rfl) fun c => by
  refine ⟨by simp [majorAssigned], by simp, by simp [needsSecond, majorA3], fun hw x => ?_⟩
  simp [decodeRaw, decTile, decBar_encT]

theorem barExpect (bar : BarName) (b : Reg) : Statement (.barExpect bar b) := one_word _ (fun _ => rfl) fun c => by
  refine ⟨by simp [majorAssigned], by simp, by simp [needsSecond, majorA3], fun hw x => ?_⟩
  simp [decodeRaw, decTile, decBar_encT]

theorem barArrive (bar : BarName) : Statement (.barArrive bar) := one_word _ (fun _ => rfl) fun c => by
  refine ⟨by simp [majorAssigned], by simp, by simp [needsSecond, majorA3], fun hw x => ?_⟩
  simp [decodeRaw, decTile, decBar_encT]

theorem barWait (bar : BarName) : Statement (.barWait bar) := one_word _ (fun _ => rfl) fun c => by
  refine ⟨by simp [majorAssigned], by simp, by simp [needsSecond, majorA3], fun hw x => ?_⟩
  simp [decodeRaw, decTile, decBar_encT]

theorem barTest (b : Reg) (bar : BarName) : Statement (.barTest b bar) := one_word _ (fun _ => rfl) fun c => by
  refine ⟨by simp [majorAssigned], by simp, by simp [needsSecond, majorA3], fun hw x => ?_⟩
  simp [decodeRaw, decTile, decBar_encT]

theorem spring (s : BitVec 6) (d a b : Reg) : Statement (.spring s d a b) := one_word _ (fun _ => rfl) fun c => by
  have e := springSlot s
  rcases spring_major s with h | h | h | h <;> rw [h] at e <;> rw [h] <;>
    refine ⟨by simp [majorAssigned], by simp, by simp [needsSecond, majorA3], fun hw x => ?_⟩ <;>
    simpa [decodeRaw] using e

theorem hostCxlMemAccess (agent : Byte) (pa : Nat) (wr : Option (List Byte)) (len : Nat) : Statement (.hostCxlMemAccess agent pa wr len) := no_word _ fun _ => rfl

theorem partnerSnoop (pa : Nat) : Statement (.partnerSnoop pa) := no_word _ fun _ => rfl

theorem flitRetry (port : Nat) (flit : Nat) : Statement (.flitRetry port flit) := no_word _ fun _ => rfl

end Sys2Proof.Laws.WordForm
end

