-- ==== Sys2Proof/Laws/Requests.lean ====
section
/-! SUPPORT. What the metered requests for lines may change: the LLC, the balances of the regions, the queue of waiting
requests, the requests that have issued, and the counter of free values. `keepAsks s t = t` says that t differs from s in
nothing else. -/

set_option Elab.async false

namespace Sys2Proof.Machine

@[simp] theorem keepAsks_self (s : State) : keepAsks s s = s := rfl

theorem keepAsks_trans {s t u : State} (h : keepAsks s t = t) (k : keepAsks t u = u) : keepAsks s u = u := by
  rw [← k, ← h]; rfl

theorem keepAsks_frame {s t : State} (h : keepAsks s t = t) : t.mem = s.mem ∧ t.gangs = s.gangs ∧ t.cores = s.cores ∧
    t.cohorts = s.cohorts ∧ t.copies = s.copies ∧ t.iss = s.iss ∧ t.now = s.now := by
  rw [← h]; exact ⟨rfl, rfl, rfl, rfl, rfl, rfl, rfl⟩

theorem chargeAt_keeps (s : State) (region k r n : Nat) : keepAsks s (chargeAt s region k r n) = chargeAt s region k r n := by
  unfold chargeAt
  generalize holders s region (.budget k) = hs
  induction hs generalizing s with
  | nil => rfl
  | cons h hs ih =>
    refine keepAsks_trans ?_ (ih _)
    dsimp only
    split <;> rfl

theorem charge_keeps (s : State) (region : Nat) (a : Activity) (r n : Nat) : keepAsks s (charge s region a r n) = charge s region a r n :=
  chargeAt_keeps s region a.idx (a.reach r) n

theorem chargeAs_keeps (s : State) (who : Asker) (region : Nat) (a : Activity) (r line n : Nat) :
    keepAsks s (chargeAs s who region a r line n) = chargeAs s who region a r line n := by
  unfold chargeAs
  split
  · rfl
  · exact charge_keeps s region a r n

theorem waitFor_keeps (s : State) (who : Asker) (region : Nat) (a : Activity) (r line n : Nat) :
    keepAsks s (waitFor s who region a r line n) = waitFor s who region a r line n := by
  unfold waitFor; dsimp only; split <;> rfl

/-- A metered request, whatever its answer. -/
theorem ask_keeps (s : State) (who : Asker) (region : Nat) (a : Activity) (r line n : Nat) :
    keepAsks s (ask s who region a r line n).1 = (ask s who region a r line n).1 := by
  unfold ask
  split
  · exact keepAsks_trans (chargeAs_keeps s who region a r line n) rfl
  · exact waitFor_keeps s who region a r line n

/-- A request that has issued is not charged again. -/
theorem ask_issued {s : State} {who : Asker} {a : Activity} {line : Nat} (h : hasIssued s who a line = true) (region r n : Nat) :
    ask s who region a r line n = (s, true) := by
  have hs : s.sent.contains ⟨who, a.idx, line⟩ = true := h
  simp only [ask, mayAsk, chargeAs, h, hs, Bool.true_or, if_true]

theorem llcRoom_keeps (s : State) (line : Nat) : keepAsks s (llcRoom s line) = llcRoom s line := by
  unfold llcRoom nextFresh
  dsimp only
  split
  · rfl
  · split
    · rfl
    · split
      · exact keepAsks_trans (keepAsks_trans rfl (charge_keeps { s with fresh := s.fresh + 1 } _ _ _ _)) rfl
      · rfl

theorem llcAllocate_keeps (s : State) (region : Nat) (x : Xlat) : keepAsks s (llcAllocate s region x) = llcAllocate s region x := by
  unfold llcAllocate
  split
  · rfl
  · exact keepAsks_trans (llcRoom_keeps s _) rfl

theorem llcRead_keeps (s : State) (region : Nat) (x : Xlat) : keepAsks s (llcRead s region x) = llcRead s region x := by
  unfold llcRead
  split
  · rfl
  · exact keepAsks_trans (charge_keeps s _ _ _ _) (llcAllocate_keeps _ _ _)

theorem llcWrite_keeps (s : State) (region line cl : Nat) (wp : Bool) (evp : BitVec 2) (slot : Nat) :
    keepAsks s (llcWrite s region line cl wp evp slot) = llcWrite s region line cl wp evp slot := by
  unfold llcWrite
  dsimp only
  split
  · rfl
  · split
    · exact keepAsks_trans (charge_keeps s region .dram (reachOf (lineBase line)) 1) rfl
    · have through : keepAsks s (if wp then charge s region .dram (reachOf (lineBase line)) 1 else s) =
          if wp then charge s region .dram (reachOf (lineBase line)) 1 else s := by
        split
        · exact charge_keeps s _ _ _ _
        · rfl
      generalize (if wp then charge s region .dram (reachOf (lineBase line)) 1 else s) = t at through ⊢
      refine keepAsks_trans (keepAsks_trans through ?_) rfl
      split
      · rfl
      · exact llcRoom_keeps _ _

/-- A request for a line, whatever its answer. -/
theorem askLine_keeps (s : State) (who : Asker) (region : Nat) (x : Xlat) :
    keepAsks s (askLine s who region x).1 = (askLine s who region x).1 := by
  unfold askLine
  split
  · rfl
  · have h := ask_keeps s who region .dram (reachOf x.pa) (lineOf x.pa) 1
    split
    · rename_i t e
      rw [e] at h
      exact keepAsks_trans h (llcAllocate_keeps _ _ _)
    · rename_i t e
      rwa [e] at h

/-- The requests of an instruction, whatever their answer. -/
theorem askLines_keeps (s : State) (who : Asker) (region : Nat) (xs : List Xlat) :
    keepAsks s (askLines s who region xs).1 = (askLines s who region xs).1 := by
  induction xs generalizing s with
  | nil => rfl
  | cons x xs ih => exact keepAsks_trans (askLine_keeps s who region x) (ih _)

/-- All requests have issued exactly when each has. -/
theorem askLines_all (s : State) (who : Asker) (region : Nat) (x : Xlat) (xs : List Xlat) : (askLines s who region (x :: xs)).2 = true ↔
    (askLine s who region x).2 = true ∧ (askLines (askLine s who region x).1 who region xs).2 = true := by
  simp [askLines]

/-- A line that the LLC holds is asked for at no charge. -/
theorem askLine_held {s : State} (who : Asker) (region : Nat) {x : Xlat} (h : llcHolds s (lineOf x.pa) = true) :
    askLine s who region x = (s, true) := by
  simp [askLine, h]

end Sys2Proof.Machine
end

