-- ==== Sys2Proof/Tests/Slice0.lean ====
section
/-! SUPPORT. Tests: a witness of the hypotheses of every statement (`witness_` with its name), the words and entries of every
row, ill-formed terms, and single steps with results worked by hand from the spec. -/

set_option Elab.async false

namespace Sys2Proof.Tests
open Sys2Proof Sys2Proof.Machine

/-! ## States and evidence for the tests -/

/-- The machine with a gang of 32 lanes (uid 3, cohort 2, core 0) whose virtual page 0 is a page that it may read, write and
execute. -/
def boot : State := { State.reset.withFetchWord 32 0 with agenda := [] }

def gangAt (s : State) : Gang :=
  match s.gangs with
  | g :: _ => g
  | [] => mkGang s (bootGrid 1 1) 3 2 0 0 0

def g0 : Gang := gangAt boot

/-- That gang in another state, issuing. -/
def issueOf (g : Gang) : Issue := mkIssue g 0 0 1 none
def withGang0 (g : Gang) : State := { boot with gangs := [g], iss := some (issueOf g) }
def busy : State := withGang0 g0

/-- Registers of every lane. -/
def regsOf (l : List (Nat × Word)) : Gang :=
  l.foldl (fun g p => putLanes g p.1 (BitVec.allOnes 32) fun _ => p.2) g0

theorem issues_of (g : Gang) (h : g.uid = 3) : Issues (withGang0 g) (issueOf g) g :=
  ⟨rfl, by simp [withGang0, gang?, issueOf, mkIssue, h]⟩

def committed : CommitRes → Option State
  | .done s => some s
  | _ => none

theorem committed_eq {r : CommitRes} {s : State} (h : committed r = some s) : r = .done s := by
  cases r <;> simp_all [committed]

theorem some_getD {α : Type} {o : Option α} {d : α} (h : o.isSome = true) : o = some (o.getD d) := by cases o <;> simp_all

/-- The machine after the boundary of the issuing gang, and the gang in it. -/
def pastBoundary (s : State) (it : Issue) (g : Gang) (code : Nat) : State :=
  match committed (commitSpan (setGang s (standBefore g it)) it.gang code) with
  | some u => modGang u it.gang fun k => standAfter k it
  | none => s

def gangPast (s : State) (it : Issue) (g : Gang) (code : Nat) : Gang := (gang? (pastBoundary s it g code) it.gang).getD g

/-- AtBoundary in a form that evaluates. -/
def boundaryOk (s : State) (it : Issue) (g : Gang) (code : Nat) : Bool :=
  decide (g.span.tx = none ∧ offersOpen s it.gang = false ∧
    ∃ u ∈ committed (commitSpan (setGang s (standBefore g it)) it.gang code), deliverQueued u it.gang it.split = none ∧
      (gang? (modGang u it.gang fun k => standAfter k it) it.gang).isSome = true)

theorem atBoundary_of {s : State} {it : Issue} {g : Gang} (hi : Issues s it g) (code : Nat) (h : boundaryOk s it g code = true) :
    AtBoundary s it g code (pastBoundary s it g code) (gangPast s it g code) := by
  obtain ⟨noTx, noOffers, u, commits, calm, stands⟩ := of_decide_eq_true h
  have past : pastBoundary s it g code = modGang u it.gang fun k => standAfter k it := by simp [pastBoundary, Option.mem_def.mp commits]
  refine ⟨hi, noTx, noOffers, ⟨u, committed_eq commits, calm, past⟩, ?_⟩
  rw [gangPast, past]
  exact some_getD stands

/-- SpanEnds in a form that evaluates. -/
def endOk (s : State) (it : Issue) (g : Gang) (code : Nat) : Bool :=
  decide (g.span.tx = none ∧
    ∃ u ∈ committed (commitSpan (setGang s (standBefore g it)) it.gang code), (gang? u it.gang).isSome = true)

def endState (s : State) (it : Issue) (g : Gang) (code : Nat) : State :=
  (committed (commitSpan (setGang s (standBefore g it)) it.gang code)).getD s

def endGang (s : State) (it : Issue) (g : Gang) (code : Nat) : Gang := (gang? (endState s it g code) it.gang).getD g

theorem spanEnds_of {s : State} {it : Issue} {g : Gang} (hi : Issues s it g) (code : Nat) (h : endOk s it g code = true) :
    SpanEnds s it g code (endState s it g code) (endGang s it g code) := by
  obtain ⟨noTx, u, commits, stands⟩ := of_decide_eq_true h
  have after : endState s it g code = u := by simp [endState, Option.mem_def.mp commits]
  refine ⟨hi, noTx, after ▸ committed_eq commits, ?_⟩
  rw [endGang, after]
  exact some_getD stands

/-- The next state, where there is one. -/
def nextOf : Out → Option State
  | .next s => some s
  | _ => none

theorem nextOf_eq {o : Out} {s : State} (h : nextOf o = some s) : o = .next s := by cases o <;> simp_all [nextOf]

theorem next_of {o : Out} (h : (nextOf o).isSome = true) : ∃ s, o = .next s :=
  let ⟨s, hs⟩ := Option.isSome_iff_exists.mp h; ⟨s, nextOf_eq hs⟩


def bOk (s : State) (g : Gang) (code : Nat) : Bool :=
  decide (s.iss = some (issueOf g)) && decide (gang? s (issueOf g).gang = some g) && boundaryOk s (issueOf g) g code

theorem boundary_of (s : State) (g : Gang) (code : Nat) (h : bOk s g code = true) :
    AtBoundary s (issueOf g) g code (pastBoundary s (issueOf g) g code) (gangPast s (issueOf g) g code) := by
  simp only [bOk, Bool.and_eq_true, decide_eq_true_eq] at h
  exact atBoundary_of ⟨h.1.1, h.1.2⟩ code h.2

def okOf {α : Type} (r : LaneRes α) : Option α :=
  match r with
  | .ok x => some x
  | _ => none

theorem okOf_eq {α : Type} {r : LaneRes α} {x : α} (h : okOf r = some x) : r = .ok x := by cases r <;> simp_all [okOf]

theorem okOf_lanes {α : Type} {l : List Nat} {r : Nat → LaneRes α} {x : Nat → α} (h : ∀ i ∈ l, okOf (r i) = some (x i)) :
    ∀ i ∈ l, r i = .ok (x i) := fun i hi => okOf_eq (h i hi)

theorem granted_of {s : State} {who : Asker} {region : Nat} {xs : List Xlat} (h : (askLines s who region xs).2 = true) :
    ∃ u, Granted s u who region xs := ⟨_, Prod.ext rfl h⟩

def goOf : StoreGate → Option State
  | .go s => some s
  | _ => none

theorem go_of {r : StoreGate} (h : (goOf r).isSome = true) : ∃ u, r = .go u := by cases r <;> simp_all [goOf]

/-- Lanes 0 and 1 of the gang alone, register 4 with `n` and `n + 1` in them, registers 0 and 1 holding an address. -/
def pairGang (a : Word) (n : Nat) : Gang :=
  putLanes (putLanes { g0 with live := 3, launchMask := 3 } 0 3 fun _ => a) 4 3 fun i => BitVec.ofNat 32 (n + i)

/-- What lane i of a gang finds at an address. -/
def found (s : State) (g : Gang) (need : Need) (n : Nat) (va : Nat → DWord) (i : Nat) : Xlat :=
  (okOf (laneCheck s g need n (va i))).getD ⟨0, 0, 0, false⟩

def foundL (s : State) (g : Gang) (n : Nat) (va : Nat → Word) (i : Nat) : LocalAddr :=
  (okOf (localCheck s g n (va i))).getD ⟨0, 0, 0⟩
/-! ## Witnesses: every statement's hypotheses are met -/

theorem issues0 : Issues busy (issueOf g0) g0 := issues_of g0 (by decide +kernel)

theorem boundary0 : AtBoundary busy (issueOf g0) g0 0 (pastBoundary busy (issueOf g0) g0 0) (gangPast busy (issueOf g0) g0 0) :=
  atBoundary_of issues0 0 (by decide +kernel)

theorem witness_RoundTrip :
    (∃ (i : Instr) (w : Word), i.wellFormed = true ∧ encode true i = [w] ∧ ((2 : Nat) ≠ 2 ∨ ([] : List Word) = [])) ∧
    ∃ (i : Instr) (w x : Word), i.wellFormed = true ∧ encode false i = [w, x] := by
  refine ⟨⟨.iadd 127 1 2, (encode true (.iadd 127 1 2)).headD 0, by decide, by decide, .inr rfl⟩, .stq ⟨some 0xFFFFFFFF, 15, 124, 15, 127, 3⟩,
    (encode false (.stq ⟨some 0xFFFFFFFF, 15, 124, 15, 127, 3⟩)).headD 0, 0xFFFFFFFF, by decide +kernel⟩

theorem witness_DecodeExact : decode 0 0b01001001010100010000010000011110#32 0xFFFFFFFC#32 = .ok (.ld ⟨some 0xFFFFFFFC#32, 5, 8, 2, 7, 2⟩) ∧
    decode 2 0b00010000000101000010011111111111#32 7 = .ok (.iaddi 5 4 0b11111111111#11) := by decide

theorem witness_FirmwareRoundTrip :
    ∃ (i : Instr) (e : BitVec 512), encodeCommand i = some e ∧ i.wellFormed = true ∧ commandLayoutOK e i = true := by
  refine ⟨.poisonClear ⟨0xFFFF, 0⟩ 0xFFFFFFFFFFFFF000 0xFFFFFFFFFFFFFFF8 63, (encodeCommand (.poisonClear ⟨0xFFFF, 0⟩ 0xFFFFFFFFFFFFF000 0xFFFFFFFFFFFFFFF8 63)).getD 0,
    by decide +kernel⟩

theorem witness_QuietKept : ∃ t, step (State.reset.withFetchWord 32 0) = .next t ∧ ∃ u, step State.reset = .next u := by
  have h : (nextOf (step (State.reset.withFetchWord 32 0))).isSome = true := by decide +kernel
  have k : (nextOf (step State.reset)).isSome = true := by decide +kernel
  obtain ⟨t, ht⟩ := Option.isSome_iff_exists.mp h
  obtain ⟨u, hu⟩ := Option.isSome_iff_exists.mp k
  exact ⟨t, nextOf_eq ht, u, nextOf_eq hu⟩

theorem witness_MemoryLaws : (keyPair boot 0).isSome = true ∧ Memory.wf boot.mem = true ∧ (∃ a, ¬(0x104000 ≤ a ∧ a < 0x104000 + 4)) := by
  exact ⟨by decide +kernel, by decide +kernel, 0x104004, by decide⟩

/-- The word of IADD v3, v1, v2 in slot 0, fetched. -/
def fetched : State := State.reset.withFetchWord 32 0b00000010000000001100000010000010

def fetchedOf (r : Fetch) : Option (State × Packet) :=
  match r with
  | .ok s p => some (s, p)
  | _ => none

theorem fetchedOf_eq {r : Fetch} {s : State} {p : Packet} (h : fetchedOf r = some (s, p)) : r = .ok s p := by
  cases r <;> simp_all [fetchedOf]

/-- What StepRunsDecoded assumes of the packet that a split's fetch answers: it decodes to i, which runs alone. -/
abbrev RunsAlone (g : Gang) (split : Nat) (i : Instr) (q : State × Packet) : Prop :=
  (gang? q.1 g.uid = some g ∧ decodeFor q.1 g 0 (q.2.word 0) (q.2.word 1) = .ok i) ∧ fChain (q.2.word 0) = false ∧
    rangeFault g.alloc (usesOf q.1 g i).touches = none ∧
    stillExecutes { setGang q.1 (startIssue g split 1 q.2 true) with iss := some (mkIssue (startIssue g split 1 q.2 true) split 0 1 none) } = true

theorem witness_StepRunsDecoded :
    let g := gangAt fetched
    let s0 := { fetched with agenda := [] }
    fetched.agenda = .issue 0 0 :: [] ∧ dueEvent fetched = none ∧ pick s0 0 0 = some (g, 0) ∧ Unhindered s0 g ∧
    ∃ s1 p, packetFor s0 g 0 (splitPc g 0) = .ok s1 p ∧ gang? s1 g.uid = some g ∧
      decodeFor s1 g 0 (p.word 0) (p.word 1) = .ok (.iadd 3 1 2) ∧ fChain (p.word 0) = false ∧ privFault (.iadd 3 1 2) = none ∧
      rangeFault g.alloc (usesOf s1 g (.iadd 3 1 2)).touches = none ∧ g.regPoison = [] ∧ g.prot = false ∧
      stillExecutes { setGang s1 (startIssue g 0 1 p true) with iss := some (mkIssue (startIssue g 0 1 p true) 0 0 1 none) } = true := by
  intro g s0
  have fetch : ∃ q ∈ fetchedOf (packetFor s0 g 0 (splitPc g 0)), RunsAlone g 0 (.iadd 3 1 2) q := by decide +kernel
  have here : (fetched.agenda = .issue 0 0 :: [] ∧ dueEvent fetched = none ∧ pick s0 0 0 = some (g, 0)) ∧ g.regPoison = [] ∧ g.prot = false := by
    decide +kernel
  have free : atLimit g = false ∧ g.trap.queue = [] ∧ (g.stepDue = false ∧ g.trap.replay = none ∧ aheadFull s0 g.uid = false ∧
    g.trap.pending = none) := by decide +kernel
  obtain ⟨q, found, ⟨same, word⟩, alone, fits, runs⟩ := fetch
  obtain ⟨⟨turns, calm, picked⟩, clean⟩ := here
  obtain ⟨quiet, awake, still, owes, behind, due⟩ := free
  exact ⟨turns, calm, picked, ⟨quiet, .inl awake, still, owes, behind, due⟩, q.1, q.2, fetchedOf_eq found, same, word, alone, rfl, fits, clean.1, clean.2, runs⟩

/-! ### Control -/

theorem witness_Branches : ∃ s it g, Issues s it g ∧ packetAddr g (getReg g 1 0 ++ getReg g 0 0) = true ∧
    validPc g (getReg g 1 0 ++ getReg g 0 0) = true :=
  ⟨_, _, _, issues0, by decide +kernel⟩

theorem witness_DivergingBranch : ∃ s it g, Issues s it g := ⟨_, _, _, issues0⟩

/-- The gang with a pending path in slice 0. -/
def forked : Gang := modSlices g0 fun k sl => if k = 0 then { sl with stack := [.pending 12 1, .join 15 none] } else sl

/-- The gang with slice 7 in another split. -/
def halved : Gang := modSlices g0 fun k sl => if k = 7 then { sl with split := 1 } else sl

theorem witness_RegangAndYield :
    (∃ s it g, Issues s it g ∧ ∃ sl ∈ g.slices, (sl.split = it.split ∧ sl.ended = false ∧ sl.held = false) ∧ sl.stack ≠ []) ∧
    (∃ s it g, Issues s it g ∧ (∃ sl ∈ g.slices, sl.split = it.split ∧ sl.ended = false ∧ sl.held = false) ∧
      (∀ sl ∈ g.slices, sl.stack = []) ∧
      ∀ sl ∈ g.slices, (sl.ended = true ∨ sl.held = true) ∨ sl.split = it.split ∨ (sl.wait = .regang ∧ sl.pc = it.pc)) ∧
    ∃ s it g, Issues s it g ∧ (∀ sl ∈ g.slices, sl.stack = []) ∧
      ¬∀ sl ∈ g.slices, (sl.ended = true ∨ sl.held = true) ∨ sl.split = it.split ∨ (sl.wait = .regang ∧ sl.pc = it.pc) :=
  ⟨⟨_, _, _, issues_of forked (by decide +kernel), by decide +kernel⟩, ⟨_, _, _, issues0, by decide +kernel⟩,
    ⟨_, _, _, issues_of halved (by decide +kernel), by decide +kernel⟩⟩

/-- The gang with a handler at 12, and in its handler. -/
def handled : Gang := { g0 with trap := { g0.trap with base := 12 } }
def nested : Gang := { handled with trap := { handled.trap with nest := true } }

theorem witness_TrapEntry :
    (∃ s u it g k, SpanEnds s it g 6 u k ∧ it.replay = none ∧ g.trap.pending = none ∧ k.freeze = false ∧ k.trap.nest = false ∧
      handlerUsable k = true) ∧
    (∃ s u it g k, SpanEnds s it g 6 u k ∧ it.replay = none ∧ g.trap.pending = none ∧ k.freeze = false ∧ k.trap.nest = true) ∧
    ∃ s u it g k, SpanEnds s it g 6 u k ∧ it.replay = none ∧ g.trap.pending = none ∧ k.freeze = false ∧ handlerUsable k = false :=
  ⟨⟨_, _, _, _, _, spanEnds_of (issues_of handled (by decide +kernel)) 6 (by decide +kernel), by decide +kernel⟩,
    ⟨_, _, _, _, _, spanEnds_of (issues_of nested (by decide +kernel)) 6 (by decide +kernel), by decide +kernel⟩,
    ⟨_, _, _, _, _, spanEnds_of issues0 6 (by decide +kernel), by decide +kernel⟩⟩

/-- The frame of a delivery at PC 1 to every slice. -/
def frame0 : Frame := frameOf g0 ⟨⟨cTRAPI, 5, none, none, none⟩, 1, none, 0, BitVec.allOnes 32, false, false⟩
def returning : Gang := { nested with trap := { nested.trap with frame := some frame0, pc := 1 } }
def outOfOrder : Gang := { forked with trap := { nested.trap with frame := some frame0, pc := 1 } }
def rewritten : Gang := { nested with trap := { nested.trap with frame := some frame0, pc := 12 } }

theorem witness_TrapReturn :
    (∃ s it g, Issues s it g ∧ g.trap.frame = none) ∧
    (∃ s it g f, Issues s it g ∧ g.trap.frame = some f ∧ rttOK g f it.split = false) ∧
    (∃ s it g f u k, Issues s it g ∧ g.trap.frame = some f ∧ rttOK g f it.split = true ∧ SpanEnds s it g 6 u k ∧ k.trap = g.trap ∧
      k.trap.queue = [] ∧ g.trap.pc = f.trapPc) ∧
    ∃ s it g f u k, Issues s it g ∧ g.trap.frame = some f ∧ rttOK g f it.split = true ∧ SpanEnds s it g 6 u k ∧ k.trap = g.trap ∧
      k.trap.queue = [] ∧ g.trap.pc ≠ f.trapPc ∧ validPc g g.trap.pc = true :=
  ⟨⟨_, _, _, issues0, by decide +kernel⟩,
    ⟨_, _, _, frame0, issues_of outOfOrder (by decide +kernel), by decide +kernel⟩,
    ⟨_, _, _, frame0, _, _, issues_of returning (by decide +kernel), by decide +kernel, by decide +kernel,
      spanEnds_of (issues_of returning (by decide +kernel)) 6 (by decide +kernel), by decide +kernel⟩,
    ⟨_, _, _, frame0, _, _, issues_of rewritten (by decide +kernel), by decide +kernel, by decide +kernel,
      spanEnds_of (issues_of rewritten (by decide +kernel)) 6 (by decide +kernel), by decide +kernel⟩⟩

theorem witness_TrapConditions :
    (∃ s it g u k, Issues s it g ∧ g.trap.pending = none ∧ g.span.tx = none ∧ commitSpan s it.gang 6 = .done u ∧ gang? u it.gang = some k ∧
      k.trap.nest = false ∧ handlerUsable k = true ∧ k.freeze = false) ∧
    (∃ s it g, Issues s it g ∧ packetAddr g (getReg g 1 0 ++ getReg g 0 0) = false ∧ validPc g (getReg g 1 0 ++ getReg g 0 0) = false) ∧
    ∃ s it g, Issues s it g ∧ (execMask g it).getLsbD 0 = true ∧ g.alloc ≤ (getReg g 2 0).toNat := by
  refine ⟨?_, ⟨_, _, _, issues_of (regsOf [(0, 3)]) (by decide +kernel), by decide +kernel⟩,
    ⟨_, _, _, issues_of (regsOf [(2, 128)]) (by decide +kernel), by decide +kernel⟩⟩
  have h : ((committed (commitSpan (withGang0 handled) 3 6)).elim false fun u => (gang? u 3).elim false fun k =>
    !k.trap.nest && handlerUsable k && !k.freeze) = true := by decide +kernel
  cases hc : committed (commitSpan (withGang0 handled) 3 6) with
  | none => simp [hc] at h
  | some u =>
    cases hk : gang? u 3 with
    | none => simp [hc, hk] at h
    | some k =>
      simp only [hc, hk, Option.elim_some, Bool.and_eq_true, Bool.not_eq_true'] at h
      exact ⟨_, _, _, u, k, issues_of handled (by decide +kernel), by decide +kernel, by decide +kernel, committed_eq hc, hk, h.1.1, h.1.2, h.2⟩

/-! ### Control registers, ordering and synchronisation -/

theorem witness_CsrReads :
    (∃ s it g, ∃ csr : BitVec 12, Issues s it g ∧ csr.toNat < 0x800 ∧ ¬(csr = 0x111#12 ∧ engineOpen s it.gang = true)) ∧
    (∃ g : Gang, g.lease.meas < 2 ^ 12 ∧ g.lease.decl < 2 ^ 12 ∧ g.grant.base + g.grant.rows < 2 ^ 9 ∧ g.grant.panels.length < 2 ^ 3 ∧
      g.grant.scales.length / 16 < 2 ^ 6) ∧
    ∃ s g c gr, cohortOf s g = some c ∧ grid? s c.grid = some gr := by
  refine ⟨⟨_, _, _, 0x7FF, issues0, by decide +kernel⟩, ⟨g0, by decide +kernel⟩, busy, g0, ?_⟩
  have h : ((cohortOf busy g0).bind fun c => grid? busy c.grid).isSome = true := by decide +kernel
  cases hc : cohortOf busy g0 with
  | none => simp [hc] at h
  | some c =>
    simp only [hc, Option.bind_some] at h
    exact ⟨c, _, rfl, Option.some_get h |>.symm⟩

theorem witness_CsrWrites : ∃ s it g, ∃ csr : BitVec 12, Issues s it g ∧ csr.toNat < 0x800 ∧
    csr ∉ [0x110#12, 0x200#12, 0x20C#12, 0x202#12, 0x203#12] ∧ engineOpen s it.gang = false :=
  ⟨_, _, _, 0x7FF, issues0, by decide +kernel⟩

/-- A gang at the boundary of code `code`, with `n` in register 2 of every lane. -/
abbrev valued (n : Nat) : Gang := regsOf [(2, BitVec.ofNat 32 n)]

/-- The machine with a second gang (uid 4) of the workgroup, of 24 registers for each of its lanes. -/
def beside (g : Gang) : State := { withGang0 g with gangs := [g, { g0 with uid := 4, gangid := 4, alloc := 128 }] }

theorem issues_beside (g : Gang) (h : g.uid = 3) : Issues (beside g) (issueOf g) g :=
  ⟨rfl, by simp [beside, gang?, issueOf, mkIssue, h]⟩

/-- REGQ of the region at 64, and at 8. -/
def smallRegq (s : State) : State := modRegion s bootRcb fun r => { r with regq := 8 }

theorem issues_small (g : Gang) (h : g.uid = 3) : Issues (smallRegq (withGang0 g)) (issueOf g) g :=
  ⟨rfl, by simp [smallRegq, modRegion, withGang0, gang?, issueOf, mkIssue, h]⟩

def lean8 : Gang := { valued 128 with alloc := 8 }

/-- A gang of 128 registers asks for n. -/
abbrev growAsked (t : State) (h : Gang) (it : Issue) (n : Nat) : Prop :=
  engineOpen t it.gang = false ∧ h.alloc = 128 ∧ (getReg h 2 ((leader (execMask h it)).getD 0)).toNat = n

theorem witness_FencesLeasesRegisters :
    (∃ s t it g h, AtBoundary s it g 0 t h) ∧
    (∃ s it g, Issues s it g ∧ (getReg g 2 ((leader (execMask g it)).getD 0)).toNat = 15) ∧
    (∃ s it g, Issues s it g ∧ (getReg g 2 ((leader (execMask g it)).getD 0)).toNat = 2049) ∧
    (∃ s it g, Issues s it g ∧ (getReg g 2 ((leader (execMask g it)).getD 0)).toNat = 16) ∧
    (∃ s it g, Issues s it g ∧ (getReg g 2 ((leader (execMask g it)).getD 0)).toNat = 2048) ∧
    -- REGS.GROW and REGS.SHRINK: 0, above 128, beyond REGQ, at the allocation, below it, above it granted and waiting
    (∀ n ∈ [0, 129, 128, 120], ∃ s t it g h, AtBoundary s it g 2 t h ∧ engineOpen t it.gang = false ∧ h.alloc = 128 ∧
      (getReg h 2 ((leader (execMask h it)).getD 0)).toNat = n) ∧
    (∃ s t it g h, AtBoundary s it g 2 t h ∧ engineOpen t it.gang = false ∧ h.alloc = 8 ∧ heldRegq t (regionOf t h) = 8 ∧
      (getReg h 2 ((leader (execMask h it)).getD 0)).toNat = 128) ∧
    (∃ s t it g h, AtBoundary s it g 2 t h ∧ engineOpen t it.gang = false ∧ h.alloc = 8 ∧ 128 / 8 ≤ heldRegq t (regionOf t h) ∧
      (getReg h 2 ((leader (execMask h it)).getD 0)).toNat = 128 ∧ growersOf t h.core (h.gangid % 4) = [] ∧
      128 / 8 - h.alloc / 8 ≤ freeGranules t h.core (h.gangid % 4)) := by
  refine ⟨⟨_, _, _, _, _, boundary0⟩, ⟨_, _, _, issues_of (valued 15) (by decide +kernel), by decide +kernel⟩,
    ⟨_, _, _, issues_of (valued 2049) (by decide +kernel), by decide +kernel⟩, ⟨_, _, _, issues_of (valued 16) (by decide +kernel), by decide +kernel⟩,
    ⟨_, _, _, issues_of (valued 2048) (by decide +kernel), by decide +kernel⟩, ?_,
    ⟨_, _, _, _, _, atBoundary_of (issues_small lean8 (by decide +kernel)) 2 (by decide +kernel), by decide +kernel⟩,
    ⟨_, _, _, _, _, atBoundary_of (issues_of lean8 (by decide +kernel)) 2 (by decide +kernel), by decide +kernel⟩⟩
  have met : ∀ n ∈ [0, 129, 128, 120], let g := valued n
      bOk (withGang0 g) g 2 = true ∧
        growAsked (pastBoundary (withGang0 g) (issueOf g) g 2) (gangPast (withGang0 g) (issueOf g) g 2) (issueOf g) n := by decide +kernel
  exact fun n mem => ⟨_, _, _, _, _, boundary_of (withGang0 (valued n)) (valued n) 2 (met n mem).1, (met n mem).2⟩

/-- REGS.GROW waits behind an earlier grower. -/
def queued : State := modCore { withGang0 lean8 with gangs := [lean8, { g0 with uid := 4, gangid := 4, alloc := 8 }] } 0 fun c =>
  { c with growers := [(4, 16)] }

theorem witness_RegsGrowWaits : ∃ s t it g h, AtBoundary s it g 2 t h ∧ engineOpen t it.gang = false ∧ h.alloc = 8 ∧
    (getReg h 2 ((leader (execMask h it)).getD 0)).toNat = 128 ∧ growersOf t h.core (h.gangid % 4) ≠ [] :=
  ⟨queued, _, issueOf lean8, lean8, _, atBoundary_of ⟨by decide +kernel, by decide +kernel⟩ 2 (by decide +kernel), by decide +kernel⟩

def opened : Gang := { g0 with span := { emptySpan g0 with tx := some ⟨5, BitVec.allOnes 32, 0, 1, 0⟩ } }

theorem witness_Transactions :
    (∃ s t it g h, AtBoundary s it g 1 t h) ∧
    (∃ s u it g k, Issues s it g ∧ offersOpen s it.gang = false ∧ commitSpan (setGang s (standBefore g it)) it.gang 1 = .done u ∧
      deliverQueued u it.gang it.split = none ∧ gang? u it.gang = some k) ∧
    ∃ s it g tx, Issues s it g ∧ g.span.tx = some tx ∧ (boundaryCode .exit).isSome = true ∧ Instr.exit ≠ .spanClose := by
  refine ⟨⟨_, _, _, _, _, boundary_of busy g0 1 (by decide +kernel)⟩, ?_, ⟨_, _, _, _, issues_of opened (by decide +kernel), rfl,
    by decide +kernel⟩⟩
  have h : (committed (commitSpan (setGang (withGang0 opened) (standBefore opened (issueOf opened))) 3 1)).elim false (fun u =>
      (deliverQueued u 3 0).isNone && (gang? u 3).isSome) = true := by decide +kernel
  cases hc : committed (commitSpan (setGang (withGang0 opened) (standBefore opened (issueOf opened))) 3 1) with
  | none => simp [hc] at h
  | some u =>
    cases hk : gang? u 3 with
    | none => simp [hc, hk] at h
    | some k =>
      simp only [hc, hk, Option.elim_some, Option.isSome_some, Bool.and_true, Option.isNone_iff_eq_none] at h
      exact ⟨_, u, _, _, k, issues_of opened (by decide +kernel), by decide +kernel, committed_eq hc, h, hk⟩

theorem witness_ExitAndRegangWg :
    -- EXIT: the last lanes, and others left, with another gang of the workgroup unfinished
    (∃ s t it g h, AtBoundary s it g 0 t h ∧ engineOpen t it.gang = false ∧ h.live &&& (h.launchMask &&& ~~~(execMask h it)) = 0#32) ∧
    (∃ s t it g h, AtBoundary s it g 0 t h ∧ engineOpen t it.gang = false ∧ h.live &&& (h.launchMask &&& ~~~(execMask h it)) ≠ 0#32 ∧
      h.ended = false ∧ ∃ x ∈ t.gangs, (x.uid ≠ h.uid ∧ x.cohort = h.cohort ∧ x.wg = h.wg ∧ x.ended = false) ∧
        ∃ sl ∈ x.slices, sl.ended = false ∧ sl.wait ≠ .regangWg) ∧
    -- REGANG.WG: divergence left, not all arrived, all arrived
    (∃ s t it g h, AtBoundary s it g 0 t h ∧ ∃ sl ∈ h.slices, (sl.split = it.split ∧ sl.ended = false ∧ sl.held = false) ∧ sl.stack ≠ []) ∧
    (∃ s t it g h, AtBoundary s it g 0 t h ∧ (∀ sl ∈ h.slices, sl.split = it.split ∧ sl.ended = false ∧ sl.held = false → sl.stack = []) ∧
      wgArrived ((setGang t (parkIfStuck (waitSlices h it .regangWg))).gangs.filter fun x =>
        x.cohort == h.cohort && x.wg == h.wg && !x.ended) = false) ∧
    ∃ s t it g h, AtBoundary s it g 0 t h ∧ (∀ sl ∈ h.slices, sl.split = it.split ∧ sl.ended = false ∧ sl.held = false → sl.stack = []) ∧
      wgArrived ((setGang t (parkIfStuck (waitSlices h it .regangWg))).gangs.filter fun x =>
        x.cohort == h.cohort && x.wg == h.wg && !x.ended) = true :=
  ⟨⟨_, _, _, _, _, boundary0, by decide +kernel⟩,
    ⟨_, _, _, _, _, boundary_of (beside halved) halved 0 (by decide +kernel), by decide +kernel⟩,
    ⟨_, _, _, _, _, boundary_of (withGang0 forked) forked 0 (by decide +kernel), by decide +kernel⟩,
    ⟨_, _, _, _, _, boundary_of (beside g0) g0 0 (by decide +kernel), by decide +kernel⟩,
    ⟨_, _, _, _, _, boundary0, by decide +kernel⟩⟩

/-! Barriers: name 0 of the workgroup is bound to object 5. -/

def bound (ob : BarObj) (k : Nat) (s : State) : State :=
  let s := setBarObj s 0 k ob
  { s with cohorts := s.cohorts.map fun c => { c with wgs := c.wgs.map fun x => { x with names := setK k k x.names } } }

def ready (ob : BarObj) (g : Gang) : State := bound ob 5 (withGang0 g)

def workgroup0 (t : State) : Workgroup := (barWg t 2 0).getD ⟨0, 0, [], [], [], [], []⟩

def object0 : BarObj := { e := 2, arr := 2, bytes := 2 ^ 31 - 2, phase := 0, part := [], stamp := 9, arrived := false }
def halfDone : BarObj := { object0 with arr := 1, bytes := 0, phase := 1 }
def spent : BarObj := { object0 with arr := 0 }

/-- All objects bound but object 127, or all. -/
def crowded (n : Nat) : State := (List.range n).foldl (fun s k => setBarObj s 0 k object0) busy

theorem witness_Barriers :
    (∃ s t it g h bar, AtBoundary s it g 0 t h ∧ barWg t h.cohort (barTarget h bar).1 = none) ∧
    -- BAR.INIT: bad values, no free object, objects 0 and 127 free
    (∀ n ∈ [0xC0000001, 0x00000100, 0x20000000], ∃ s t it g h, AtBoundary s it g 0 t h ∧ (∃ x, barWg t h.cohort (barTarget h (.own 5)).1 = some x) ∧
      (let v := getReg h 2 ((leader (execMask h it)).getD 0)
       v.toNat / 2 ^ 30 = 3 ∨ v.toNat / 2 ^ 8 % 2 ^ 22 ≠ 0)) ∧
    (∃ s t it g h x, AtBoundary s it g 0 t h ∧ barWg t h.cohort (barTarget h (.own 127)).1 = some x ∧ getK 127 x.names = none ∧
      ∀ o, o < 128 → (barObj t x.core o).isSome = true) ∧
    (∃ s t it g h x, AtBoundary s it g 0 t h ∧ barWg t h.cohort (barTarget h (.own 127)).1 = some x ∧ getK 127 x.names = none ∧
      barObj t x.core 127 = none ∧ ∀ j, j < 127 → (barObj t x.core j).isSome = true) ∧
    (∃ s t it g h x, AtBoundary s it g 0 t h ∧ barWg t h.cohort (barTarget h (.basin 0 0)).1 = some x ∧ getK 0 x.names = none ∧
      barObj t x.core 0 = none) ∧
    -- a bound name: BAR.INIT of a busy object and of an idle one, BAR.EXPECT at 2^31 - 1 and above it, BAR.ARRIVE with arrivals left and without, a phase after W and not
    (∃ s t it g h x ob, AtBoundary s it g 0 t h ∧ barWg t h.cohort (barTarget h (.own 5)).1 = some x ∧ getK 5 x.names = some 5 ∧
      barObj t x.core 5 = some ob ∧ ob.bytes + ((getReg h 2 0).toNat : Int) = 2 ^ 31 - 1 ∧ ob.arr ≠ 0 ∧ ob.bytes ≠ 0 ∧
      (getReg h 2 ((leader (execMask h it)).getD 0)).toNat = 1 ∧
      later ob.phase (barRec h x.core 5).w = false) ∧
    (∃ s t it g h x ob, AtBoundary s it g 0 t h ∧ barWg t h.cohort (barTarget h (.own 5)).1 = some x ∧ getK 5 x.names = some 5 ∧
      barObj t x.core 5 = some ob ∧ ob.bytes + ((getReg h 2 0).toNat : Int) = 2 ^ 31 ∧ ob.arr = 0) ∧
    ∃ s t it g h x ob, AtBoundary s it g 0 t h ∧ barWg t h.cohort (barTarget h (.own 5)).1 = some x ∧ getK 5 x.names = some 5 ∧
      barObj t x.core 5 = some ob ∧ later ob.phase (barRec h x.core 5).w = true ∧ ob.arrived = false ∧ ob.bytes = 0 ∧
      (∀ y ∈ t.gangs, y.sched.wait = .none) ∧ (getReg h 2 ((leader (execMask h it)).getD 0)).toNat = 0 := by
  refine ⟨⟨_, _, _, _, _, .basin 3 0, boundary0, by decide +kernel⟩, ?_,
    ⟨_, _, _, _, _, workgroup0 boot, boundary_of (crowded 128) g0 0 (by decide +kernel), by decide +kernel⟩,
    ⟨_, _, _, _, _, workgroup0 boot, boundary_of (crowded 127) g0 0 (by decide +kernel), by decide +kernel⟩,
    ⟨_, _, _, _, _, workgroup0 boot, boundary0, by decide +kernel⟩,
    ⟨_, _, _, _, _, workgroup0 (ready object0 (valued 1)), object0, boundary_of (ready object0 (valued 1)) (valued 1) 0 (by decide +kernel),
      by decide +kernel⟩,
    ⟨_, _, _, _, _, workgroup0 (ready spent (valued 2)), spent, boundary_of (ready spent (valued 2)) (valued 2) 0 (by decide +kernel),
      by decide +kernel⟩,
    ⟨_, _, _, _, _, workgroup0 (ready halfDone g0), halfDone, boundary_of (ready halfDone g0) g0 0 (by decide +kernel),
      by decide +kernel⟩⟩
  intro n hn
  rcases hn with _ | ⟨_, _ | ⟨_, _ | ⟨_, hn⟩⟩⟩
  · exact ⟨_, _, _, _, _, boundary_of (withGang0 (valued 0xC0000001)) (valued 0xC0000001) 0 (by decide +kernel), ⟨workgroup0 boot, by decide +kernel⟩, by decide +kernel⟩
  · exact ⟨_, _, _, _, _, boundary_of (withGang0 (valued 0x00000100)) (valued 0x00000100) 0 (by decide +kernel), ⟨workgroup0 boot, by decide +kernel⟩, by decide +kernel⟩
  · exact ⟨_, _, _, _, _, boundary_of (withGang0 (valued 0x20000000)) (valued 0x20000000) 0 (by decide +kernel), ⟨workgroup0 boot, by decide +kernel⟩, by decide +kernel⟩
  · cases hn

/-! ### Memory: lanes 0 and 1 at addresses of the gang's page -/

theorem witness_TrackedAccess : ∃ s uid g, ∃ x : Xlat, gang? s uid = some g ∧ (∀ c ∈ (coreOf s g.core).l1, c.data.length = 128) ∧
    x.pa % 128 + 4 ≤ 128 ∧ (∃ j, j < 4 ∧ getK (x.pa + j) g.span.ver = none) :=
  ⟨busy, 3, g0, ⟨0x10407C, 0x5F, 0, false⟩, by decide +kernel⟩

/-- The addresses n (i + k) behind the base. -/
abbrev vaOf (g : Gang) (n : Nat) (i : Nat) : DWord := globalEa g (globalBase g (issueOf g) (execMask g (issueOf g)) 0 none) 4 n i

/-- Lanes at 0xFE0 and 0xFF0: the last is the last quad of the page. -/
def lastQuad : Gang := pairGang 0 0xFE
def words : Gang := pairGang 0x100 1

theorem witness_LoadsAndStores :
    -- loads of each size
    (∀ n ∈ [1, 2, 4, 8, 16], ∃ s it g, ∃ x : Nat → Xlat, Issues s it g ∧ g.live &&& g.launchMask ≠ 0#32 ∧ g.span.locate = false ∧
      touchesStores s it.gang ((lanesOf (execMask g it)).map fun i => (x i).pa) = false ∧
      (∀ i ∈ lanesOf (execMask g it), (x i).poison = false) ∧
      (∀ i ∈ lanesOf (execMask g it), laneCheck s g .load n (vaOf g n i) = .ok (x i)) ∧ g.span.exact = false ∧
      (∀ i ∈ lanesOf (execMask g it), lineOf (x i).pa ∉ s.linePoison) ∧
      ∃ u, Granted s u (.gang it.gang it.split) (regionOf s g) (homeReads s g n ((lanesOf (execMask g it)).map fun i => (vaOf g n i, x i)))) ∧
    -- stores of each size, up to the end of the page
    ∀ n ∈ [1, 2, 4, 8, 16], ∃ s it g, ∃ x : Nat → Xlat, Issues s it g ∧ g.live &&& g.launchMask ≠ 0#32 ∧ g.span.locate = false ∧
      touchesStores s it.gang ((lanesOf (execMask g it)).map fun i => (x i).pa) = false ∧
      (∀ i ∈ lanesOf (execMask g it), (x i).poison = false) ∧
      (∀ i ∈ lanesOf (execMask g it), laneCheck s g .store n (vaOf g n i) = .ok (x i)) ∧
      ∃ u, storeGate s g it ((lanesOf (execMask g it)).map fun i => (x i).pa) = .go u := by
  constructor
  · intro n hn
    refine ⟨withGang0 words, issueOf words, words, found (withGang0 words) words .load n (vaOf words n), issues_of words (by decide +kernel),
      by decide +kernel, by decide +kernel, ?_, ?_, okOf_lanes ?_, by decide +kernel, ?_, granted_of ?_⟩ <;> revert n <;> decide +kernel
  · intro n hn
    refine ⟨withGang0 lastQuad, issueOf lastQuad, lastQuad, found (withGang0 lastQuad) lastQuad .store n (vaOf lastQuad n), issues_of lastQuad (by decide +kernel),
      by decide +kernel, by decide +kernel, ?_, ?_, okOf_lanes ?_, go_of ?_⟩ <;> revert n <;> decide +kernel

abbrev pastWords : State := pastBoundary (withGang0 words) (issueOf words) words 0
abbrev wordsPast : Gang := gangPast (withGang0 words) (issueOf words) words 0

/-- What the homes' accesses assume of n bytes of each executing lane. -/
def homeAccess (t : State) (it : Issue) (h : Gang) (need : Need) (n : Nat) (x : Nat → Xlat) : Prop :=
  h.live &&& h.launchMask ≠ 0#32 ∧ lanesOf (execMask h it) ≠ [] ∧
    (∀ i ∈ lanesOf (execMask h it), laneCheck t h need n (vaOf h n i) = .ok (x i)) ∧
    (∀ i ∈ lanesOf (execMask h it), (x i).poison = false ∧ lineOf (x i).pa ∉ t.linePoison ∧ (keyPair t (pteKey (x i).pte)).isSome = true ∧
      (x i).pa % n = 0) ∧
    (∃ u, Granted t u (.gang it.gang it.split) (regionOf t h) ((lanesOf (execMask h it)).map x)) ∧
    favourBlocks t (some it.gang) (coveredBytes n ((lanesOf (execMask h it)).map fun i => (i, vaOf h n i, x i))) [] = false ∧
    ∀ k ∈ t.gangs, k.span.pins = [] ∧ k.span.moves = []

theorem witness_HomeAccesses :
    (∀ n ∈ [1, 4, 8, 16], ∃ s it g x, Issues s it g ∧ homeAccess s it g .load n x ∧ ∀ i ∈ lanesOf (execMask g it), earlyFor g (x i) = none) ∧
    (∀ n ∈ [1, 2, 4, 8], ∃ s t it g h x, AtBoundary s it g 0 t h ∧ homeAccess t it h .loadNormal n x) ∧
    (∀ n ∈ [1, 2, 4, 8], ∃ s t it g h x, AtBoundary s it g 0 t h ∧ homeAccess t it h .store n x) := by
  refine ⟨?_, ?_, ?_⟩ <;> intro n hn
  · refine ⟨withGang0 words, issueOf words, words, found (withGang0 words) words .load n (vaOf words n), issues_of words (by decide +kernel),
      ⟨by decide +kernel, by decide +kernel, okOf_lanes ?_, ?_, granted_of ?_, ?_, by decide +kernel⟩, fun _ _ => rfl⟩ <;> revert n <;> decide +kernel
  · refine ⟨_, _, _, _, _, found pastWords wordsPast .loadNormal n (vaOf wordsPast n), boundary_of (withGang0 words) words 0 (by decide +kernel),
      by decide +kernel, by decide +kernel, okOf_lanes ?_, ?_, granted_of ?_, ?_, by decide +kernel⟩ <;> revert n <;> decide +kernel
  · refine ⟨_, _, _, _, _, found pastWords wordsPast .store n (vaOf wordsPast n), boundary_of (withGang0 words) words 0 (by decide +kernel),
      by decide +kernel, by decide +kernel, okOf_lanes ?_, ?_, granted_of ?_, ?_, by decide +kernel⟩ <;> revert n <;> decide +kernel

/-- The lines that prefetches of the words ask for. -/
def prefetched : List Xlat :=
  (lanesOf (execMask words (issueOf words))).filterMap fun i => prefLane (withGang0 words) words (vaOf words 128 i)

theorem witness_Prefetches : ∀ xs ∈ [prefetched.filter (missesL1 (withGang0 words) words), prefetched], xs ≠ [] ∧
    ∃ u, Granted (withGang0 words) u (.gang 3 0) (regionOf (withGang0 words) words) xs := by
  intro xs hx
  exact ⟨by revert xs; decide +kernel, granted_of (by revert xs; decide +kernel)⟩

/-- One lane, for which the home slice has read its line early. -/
def single : Gang := putLanes { g0 with live := 1, launchMask := 1 } 0 1 fun _ => 0x100
def early : Gang := { single with span := { single.span with early := [⟨0x104100 / 128, 0, 0, List.replicate 128 7, List.replicate 128 0⟩] } }

abbrev vaOne (g : Gang) (i : Nat) : DWord := globalEa g (globalBase g (issueOf g) (execMask g (issueOf g)) 0 none) 0 8 i
abbrev eaOne (g : Gang) (i : Nat) : Word := localEa g (localBase g (issueOf g) (execMask g (issueOf g)) 0 none) 0 8 i

theorem witness_EarlyRead : ∃ s it g, ∃ x : Nat → Xlat, ∃ e, Issues s it g ∧ lanesOf (execMask g it) = [0] ∧
    laneCheck s g .load 16 (vaOne g 0) = .ok (x 0) ∧ (x 0).poison = false ∧ lineOf (x 0).pa ∉ s.linePoison ∧
    (∃ u, Granted s u (.gang it.gang it.split) (regionOf s g) [x 0]) ∧ earlyFor g (x 0) = some e ∧ 16 ≤ (e.data.drop ((x 0).pa % 128)).length :=
  ⟨withGang0 early, issueOf early, early, found (withGang0 early) early .load 16 (vaOne early), _, issues_of early (by decide +kernel), by decide +kernel,
    okOf_eq (by decide +kernel), by decide +kernel, by decide +kernel, granted_of (by decide +kernel), some_getD (d := ⟨0, 0, 0, [], []⟩) (by decide +kernel),
    by decide +kernel⟩

/-- The cohort has 1 KiB of local memory. -/
def roomy (g : Gang) : State := { withGang0 g with cohorts := (withGang0 g).cohorts.map fun c => { c with localBytes := 1024 } }
abbrev pastRoomy : State := pastBoundary (roomy words) (issueOf words) words 0
abbrev roomyPast : Gang := gangPast (roomy words) (issueOf words) words 0

/-- Two lanes at one location. -/
theorem witness_Atomics :
    (∃ s t it g h, ∃ x : Nat → Xlat, AtBoundary s it g 0 t h ∧ h.live &&& h.launchMask ≠ 0#32 ∧ lanesOf (execMask h it) = [0, 1] ∧
      (∀ i ∈ lanesOf (execMask h it), laneCheck t h .store 8 (vaOne h i) = .ok (x i)) ∧
      (∀ i ∈ [0, 1], (x i).poison = false ∧ lineOf (x i).pa ∉ t.linePoison ∧ (keyPair t (pteKey (x i).pte)).isSome = true ∧ x i = x 0) ∧
      favourBlocks t (some it.gang) (coveredBytes 8 ([0, 1].map fun i => (i, vaOne h i, x i))) [] = false ∧
      (∃ u, Granted t u (.gang it.gang it.split) (regionOf t h) ([0, 1].map x)) ∧
      (∀ q, q < 8 → lineOf ((x 0).entry + q) ≠ lineOf (x 0).pa) ∧ (∀ y ∈ t.gangs, y.span.pins = [] ∧ y.span.moves = []) ∧
      (atomBytes ⟨.add, true, .dev, .acqRel, 6, 0, 0, 8⟩ h 1 (readBytes t (pteKey (x 1).pte) (x 1).pa 8)).isSome = true) ∧
    ∃ s t it g h, ∃ y : Nat → LocalAddr, AtBoundary s it g 0 t h ∧ h.live &&& h.launchMask ≠ 0#32 ∧ lanesOf (execMask h it) = [0, 1] ∧
      (∀ i ∈ lanesOf (execMask h it), localCheck t h 8 (eaOne h i) = .ok (y i)) ∧
      ∀ i ∈ [0, 1], localPoisoned t h.cohort (y i).wg (y i).off 8 = false ∧ overlaps t h.cohort (y i).wg (y i).off ((y i).off + 8) = [] ∧ y i = y 0 :=
  ⟨⟨_, _, _, _, _, found pastWords wordsPast .store 8 (vaOne wordsPast), boundary_of (withGang0 words) words 0 (by decide +kernel),
      by decide +kernel, by decide +kernel, okOf_lanes (by decide +kernel), by decide +kernel, by decide +kernel,
      granted_of (by decide +kernel), by decide +kernel⟩,
    ⟨_, _, _, _, _, foundL pastRoomy roomyPast 8 (eaOne roomyPast), boundary_of (roomy words) words 0 (by decide +kernel),
      by decide +kernel, by decide +kernel, okOf_lanes (by decide +kernel), by decide +kernel⟩⟩

def rooms : Gang := pairGang 0x300 0xE
abbrev eaOf (g : Gang) (n i : Nat) : Word := localEa g (localBase g (issueOf g) (execMask g (issueOf g)) 0 none) 4 n i

theorem witness_LocalAccesses :
    ∀ n ∈ [1, 2, 4, 8, 16], ∃ s it g, ∃ y : Nat → LocalAddr, Issues s it g ∧ g.live &&& g.launchMask ≠ 0#32 ∧
      (∀ i ∈ lanesOf (execMask g it), (eaOf g n i).toNat % n = 0 ∧ localOk s g.cohort (localAddr (eaOf g n i)) = true ∧
        y i = localAddr (eaOf g n i)) ∧
      (∀ i ∈ lanesOf (execMask g it), overlaps s g.cohort (y i).wg (y i).off ((y i).off + n) = []) ∧
      ∀ i ∈ lanesOf (execMask g it), localPoisoned s g.cohort (y i).wg (y i).off n = false := by
  intro n hn
  refine ⟨roomy rooms, issueOf rooms, rooms, fun i => localAddr (eaOf rooms n i), ⟨by decide +kernel, by decide +kernel⟩, by decide +kernel,
    ?_, ?_, ?_⟩ <;> revert n <;> decide +kernel

/-! ### The matrix engine -/

/-- An ARW: init, panel, first slot / 16, rows, first row, columns / 16, first column / 16. -/
def arw (init panel slot rows row0 cols col : Nat) : Word :=
  BitVec.ofNat 32 (init * 2 ^ 31 + panel * 2 ^ 29 + slot * 2 ^ 25 + rows * 2 ^ 16 + row0 * 2 ^ 8 + (cols - 1) * 16 + col)

def wholeGrant : Grant := ⟨0, 256, [0, 1, 2, 3], List.range 512, []⟩

/-- The gang with every row, panel and entry, `a` in registers 2 and 3 and `b` in register 4. -/
def mat (a b : Word) : Gang := { regsOf [(2, a), (4, b)] with grant := wholeGrant }

/-- The gang with peers in workgroups 1 to 3 of its cohort. -/
def basinOfFour (g : Gang) : State :=
  { withGang0 g with
    cohorts := (withGang0 g).cohorts.map fun c => { c with wgs := [0, 1, 2, 3].map fun k => { (workgroup0 boot) with core := k } },
    gangs := [g, { g with uid := 4, wg := 1, core := 1 }, { g with uid := 5, wg := 2, core := 2 }, { g with uid := 6, wg := 3, core := 3 }] }

abbrev matPast (g : Gang) : State := pastBoundary (withGang0 g) (issueOf g) g 2
abbrev pastMat (g : Gang) : Gang := gangPast (withGang0 g) (issueOf g) g 2

/-- Row stride 144 at the start of the workgroup's allocation. -/
def rows144 : Word := 0b00000001001000000000000000000000

abbrev opW (h : Gang) : Word := uniform h (execMask h (issueOf h)) 4
abbrev opX (h : Gang) : Word := uniform h (execMask h (issueOf h)) 2
abbrev opVa (h : Gang) : DWord := tilePair h (issueOf h) (execMask h (issueOf h)) 2
abbrev opLow (h : Gang) : Word := tileWord h (issueOf h) (execMask h (issueOf h)) 2

/-- 16 rows and all columns; one row at the last row. -/
def mmaArw : Word := arw 1 3 0 16 240 16 0
def lastRow : Word := arw 0 0 0 1 255 16 0
def narrow : Word := arw 0 0 0 1 255 1 15

theorem checked {s : State} {g : Gang} {need : Need} {ps : List (DWord × Nat)} (h : (checkPieces s g need ps).1 = .pass) :
    checkPieces s g need ps = (.pass, (checkPieces s g need ps).2) := by rw [← h]

theorem witness_EngineIssue :
    (∃ s t it g h, AtBoundary s it g 2 t h ∧ mmaVerdict t h 0 (tileWord h it (execMask h it) 2) (uniform h (execMask h it) 4) = .pass) ∧
    (∃ s t it g h, AtBoundary s it g 2 t h ∧ mmaBVerdict t h 8 (tileWord h it (execMask h it) 2) (uniform h (execMask h it) 4) = .pass) ∧
    (∃ s t it g h, AtBoundary s it g 2 t h ∧ arwVerdict h (uniform h (execMask h it) 4) = .pass) ∧
    (∃ s t it g h, AtBoundary s it g 2 t h ∧ lmVerdict t h (tileWord h it (execMask h it) 2) (uniform h (execMask h it) 4) = .pass) ∧
    (∃ s t it g h, AtBoundary s it g 2 t h ∧ ∀ fmt, cvtVerdict h fmt (uniform h (execMask h it) 2) (uniform h (execMask h it) 4) = .pass) ∧
    (∃ s t it g h, AtBoundary s it g 2 t h ∧ scaccVerdict h (uniform h (execMask h it) 2) (uniform h (execMask h it) 4) = .pass) ∧
    -- ACC.LD, TSCALE.BIND, WBUF.LD and WBUF.LDSP over readable memory
    (∃ s t it g h, AtBoundary s it g 2 t h ∧ (arwVerdict h (uniform h (execMask h it) 4)).andThen (alignVerdict (tilePair h it (execMask h it) 2) 16) = .pass ∧
      ∃ xs, checkPieces t h .load (linesOf (tilePair h it (execMask h it) 2)
        (4 * (parseArw (uniform h (execMask h it) 4)).rows * (parseArw (uniform h (execMask h it) 4)).width)) = (.pass, xs)) ∧
    (∃ s t it g h, AtBoundary s it g 2 t h ∧ bindVerdict h (tilePair h it (execMask h it) 2) (uniform h (execMask h it) 4) = .pass ∧
      ∃ xs, checkPieces t h .load (linesOf (tilePair h it (execMask h it) 2) (4 * bindCount (uniform h (execMask h it) 4))) = (.pass, xs)) ∧
    (∃ s t it g h, AtBoundary s it g 2 t h ∧ fillVerdict h (tilePair h it (execMask h it) 2) (uniform h (execMask h it) 4) = .pass ∧
      ∃ xs, checkPieces t h .load ((List.range (parseFill (uniform h (execMask h it) 4)).cols).flatMap fun j =>
        linesOf (tilePair h it (execMask h it) 2 + BitVec.ofNat 64 ((parseFill (uniform h (execMask h it) 4)).stride * j)) 144) = (.pass, xs)) ∧
    -- ACC.TOLM and ACC.ST
    (∃ s it g, Issues s it g ∧ lmVerdict s g (tileWord g it (execMask g it) 2) (uniform g (execMask g it) 4) = .pass) ∧
    ∃ s it g, Issues s it g ∧ accStWords g (tilePair g it (execMask g it) 2) (uniform g (execMask g it) 4) = .pass ∧
      ∃ xs, checkPieces s g .store (linesOf (tilePair g it (execMask g it) 2) (parseArw (uniform g (execMask g it) 4)).size) = (.pass, xs) ∧
        raceTrap g 4 (pieceWords ((leader (execMask g it)).getD 0) (linesOf (tilePair g it (execMask g it) 2)
          (parseArw (uniform g (execMask g it) 4)).size) xs) = none ∧ (∃ u, storeOpGate s g xs = .go u) :=
  ⟨⟨_, _, _, _, _, boundary_of (withGang0 (mat rows144 mmaArw)) (mat rows144 mmaArw) 2 (by decide +kernel), by decide +kernel⟩,
    ⟨_, _, _, _, _, boundary_of (basinOfFour (mat rows144 mmaArw)) (mat rows144 mmaArw) 2 (by decide +kernel), by decide +kernel⟩,
    ⟨_, _, _, _, _, boundary_of (withGang0 (mat 0 lastRow)) (mat 0 lastRow) 2 (by decide +kernel), by decide +kernel⟩,
    ⟨_, _, _, _, _, boundary_of (withGang0 (mat 0 lastRow)) (mat 0 lastRow) 2 (by decide +kernel), by decide +kernel⟩,
    ⟨_, _, _, _, _, boundary_of (withGang0 (mat 0xFF0 narrow)) (mat 0xFF0 narrow) 2 (by decide +kernel), by decide +kernel⟩,
    ⟨_, _, _, _, _, boundary_of (withGang0 (mat 0x3FE00000 narrow)) (mat 0x3FE00000 narrow) 2 (by decide +kernel), by decide +kernel⟩,
    ⟨_, _, _, _, _, boundary_of (withGang0 (mat 0xC00 lastRow)) (mat 0xC00 lastRow) 2 (by decide +kernel), by decide +kernel, _,
      checked (by decide +kernel)⟩,
    ⟨_, _, _, _, _, boundary_of (withGang0 (mat 0x800 0x01FF0000)) (mat 0x800 0x01FF0000) 2 (by decide +kernel), by decide +kernel, _,
      checked (by decide +kernel)⟩,
    ⟨_, _, _, _, _, boundary_of (withGang0 (mat 0x40 0xFF804009)) (mat 0x40 0xFF804009) 2 (by decide +kernel), by decide +kernel, _,
      checked (by decide +kernel)⟩,
    ⟨_, _, _, issues_of (mat 0 lastRow) (by decide +kernel), by decide +kernel⟩,
    ⟨_, _, _, issues_of (mat 0xC00 lastRow) (by decide +kernel), by decide +kernel, _, checked (by decide +kernel), by decide +kernel,
      go_of (by decide +kernel)⟩⟩

/-- Register 2 with a word of ACC.WIN: everything, and nothing. -/
def wanting (w : Word) : Gang := regsOf [(2, w)]
def everything : Word := 0x02040100

/-- Another gang of the core holds row 16. -/
def partly (g : Gang) : State := { beside g with gangs := [g, { g0 with uid := 4, gangid := 4, grant := ⟨16, 1, [2], [], []⟩ }] }

/-- The queue of waiting windows. -/
def lined (s : State) (l : List (Nat × Word)) : State := modCore s 0 fun c => { c with accWaiters := l }

def waitingGang : Gang := { g0 with sched := { g0.sched with wait := .accWin everything 0, active := false } }

abbrev winCond (t : State) (it : Issue) (h : Gang) : Prop :=
  winVerdict (uniform h (execMask h it) 2) = .pass ∧ engineBusy (coreOf t h.core) it.gang = false

abbrev grantOf (t : State) (it : Issue) (h : Gang) : Option Grant :=
  tryGrant (modGang t it.gang fun k => { k with grant := Grant.none }) h.core (uniform h (execMask h it) 2)

theorem witness_AccWindow :
    (∃ s t it g h gr, AtBoundary s it g 2 t h ∧ winCond t it h ∧ (coreOf t h.core).accWaiters = [] ∧ grantOf t it h = some gr ∧
      gr.rows = 256 ∧ gr.panels.length = 4 ∧ gr.scales.length = 512) ∧
    (∃ s t it g h gr, AtBoundary s it g 2 t h ∧ winCond t it h ∧ (coreOf t h.core).accWaiters = [] ∧ grantOf t it h = some gr ∧
      gr.rows = 0 ∧ gr.panels = []) ∧
    (∃ s t it g h, AtBoundary s it g 2 t h ∧ winCond t it h ∧ (coreOf t h.core).accWaiters = [] ∧ grantOf t it h = none) ∧
    (∃ s t it g h, AtBoundary s it g 2 t h ∧ winCond t it h ∧ (coreOf t h.core).accWaiters ≠ []) ∧
    (∃ s core uid w rest, (coreOf s core).accWaiters = (uid, w) :: rest ∧ tryGrant s core w = none) ∧
    ∃ s core uid w rest gr g w' split, (coreOf s core).accWaiters = (uid, w) :: rest ∧ tryGrant s core w = some gr ∧
      gang? s uid = some g ∧ g.sched.wait = .accWin w' split := by
  refine ⟨⟨_, _, _, _, _, ⟨0, 256, [0, 1, 2, 3], List.range 512, []⟩, boundary_of (withGang0 (wanting everything)) (wanting everything) 2 (by decide +kernel),
      by decide +kernel⟩,
    ⟨_, _, _, _, _, ⟨0, 0, [], [], []⟩, boundary_of (withGang0 (wanting 0)) (wanting 0) 2 (by decide +kernel), by decide +kernel, by decide +kernel, by decide +kernel, rfl, rfl⟩,
    ⟨_, _, _, _, _, boundary_of (partly (wanting everything)) (wanting everything) 2 (by decide +kernel), by decide +kernel⟩,
    ⟨_, _, _, _, _, boundary_of (lined (withGang0 (wanting 0)) [(4, 0)]) (wanting 0) 2 (by decide +kernel), by decide +kernel⟩,
    ⟨lined (partly waitingGang) [(3, everything)], 0, 3, everything, [], by decide +kernel⟩,
    ⟨lined (withGang0 waitingGang) [(3, everything)], 0, 3, everything, [], ⟨0, 256, [0, 1, 2, 3], List.range 512, []⟩, waitingGang, everything, 0,
      by decide +kernel⟩⟩

/-- An engine instruction of the gang. -/
def opOf (work : Work) (a : DWord) (b : Word) : EngineOp := mkOp busy g0 work 0 a b

def offering (g : Gang) (l : List EngineOp) : State := modCore (withGang0 g) 0 fun c => { c with offers := l }
def queuedOn (g : Gang) (l : List EngineOp) : State := modCore (withGang0 g) 0 fun c => { c with engine := l }

/-- 64 bytes at the start of the page, read by ACC.LD. -/
def loadOp : EngineOp := { opOf .load 0x100 (arw 0 0 0 1 255 1 0) with pieces := [(0x104100, 0x5F, 64)] }
def bindOp : EngineOp :=
  { opOf .bind 0x100 0x00010000 with pieces := [(0x104100, 0x5F, 8)], bytes := List.replicate 8 7, ready := true, left := [0, 1] }
def mmaOp : EngineOp := opOf (.mma 0 0) 0x01200000 (arw 1 0 0 16 0 1 0)

/-- The region has a matrix budget and nothing left of it. -/
def metered (s : State) (k : Nat) : State :=
  modRegion s bootRcb fun r => { r with budget := r.budget.set k 1, balance := List.replicate 24 0 }

/-- A basin-wide MMA of the gang's own engine, without its rows; one of them behind an instruction that writes those rows. -/
def wideOp : EngineOp := opOf (.mmaB 0 0) 0x01200000 (arw 1 0 0 16 0 1 0)
def rowsOut : EngineOp := opOf .toLm 0 (arw 0 0 0 16 0 16 0)

/-- The engine of core 0 of `s` holds o at `pos`, and nothing keeps it but what `asks` says of its requests. -/
def starts (s : State) (pos : Nat) (o : EngineOp) (asks : Bool) : Bool :=
  decide ((coreOf s 0).engine[pos]? = some o) && !mustFetch o && mayPerform s (coreOf s 0).engine pos o && operandsReady s o
    && (askOp s 0 o).2 == asks

theorem witness_EngineQueue :
    -- acceptance: queue full, an earlier offer of the gang, and accepted with and without memory and ranges
    (∃ (s : State) (core pos : Nat) (o : EngineOp), (coreOf s core).offers[pos]? = some o ∧ 16 ≤ (coreOf s core).engine.length) ∧
    (∃ (s : State) (core pos : Nat) (o : EngineOp), (coreOf s core).offers[pos]? = some o ∧ ∃ x ∈ (coreOf s core).offers.take pos, x.gang = o.gang) ∧
    (∀ op ∈ [mmaOp, loadOp], ∃ (s : State) (core pos : Nat) (o : EngineOp) (g : Gang), (coreOf s core).offers[pos]? = some o ∧ o = op ∧ (coreOf s core).engine.length < 16 ∧
      (∀ x ∈ (coreOf s core).offers.take pos, x.gang ≠ o.gang) ∧ gang? s o.gang = some g ∧ o.follow = none ∧
      (basinOf s 0).score.length < 64 ∧
      (askUntracked s (.engine o.uid) g (o.pieces.map fun p => (⟨p.1, p.2.1, 0, pagePoisoned s p.1⟩ : Xlat))).2 = true) ∧
    -- nothing performed: out of order, operands away, budget
    (∃ (s : State) (core pos : Nat) (o : EngineOp), (coreOf s core).engine[pos]? = some o ∧ mustFetch o = false ∧
      mayPerform s (coreOf s core).engine pos o = false ∧ o.left ≠ []) ∧
    (∃ (s : State) (core pos : Nat) (o : EngineOp), (coreOf s core).engine[pos]? = some o ∧ mustFetch o = false ∧ operandsReady s o = false) ∧
    (∃ s pos o, starts s pos o false = true) ∧
    -- a basin-wide MMA whose rows may not and may be fetched
    (∀ b ∈ [true, false], ∃ (s : State) (pos : Nat) (o : EngineOp), (coreOf s 0).engine[pos]? = some o ∧ mustFetch o = true ∧
      mayFetch s (coreOf s 0).engine pos o = b) ∧
    ∃ (s : State) (core entry e : Nat) (p : Gang) (o : EngineOp), pendingBind s (coreOf s core) entry = some (p, o, e) ∧ (∀ x ∈ (coreOf s core).engine, x.uid = o.uid → x = o) ∧
      o.work = .bind ∧ (gang? s p.uid).isSome = true := by
  refine ⟨⟨modCore (offering g0 [mmaOp]) 0 fun c => { c with engine := List.replicate 16 mmaOp }, 0, 0, mmaOp, by decide +kernel⟩,
    ⟨offering g0 [loadOp, mmaOp], 0, 1, mmaOp, by decide +kernel⟩, ?_,
    ⟨queuedOn g0 [bindOp], 0, 0, bindOp, by decide +kernel⟩,
    ⟨queuedOn g0 [{ wideOp with peer := 9 }], 0, 0, { wideOp with peer := 9 }, by decide +kernel⟩,
    ⟨metered (queuedOn g0 [mmaOp]) 3, 0, mmaOp, by decide +kernel⟩, ?_,
    ⟨queuedOn (mat 0 0) [bindOp], 0, 1, 1, mat 0 0, bindOp, by decide +kernel, by decide +kernel, rfl, by decide +kernel⟩⟩
  · intro op hop
    refine ⟨offering g0 [op], 0, 0, op, g0, ?_, rfl, ?_, ?_, ?_, ?_, ?_, ?_⟩ <;> revert op <;> decide +kernel
  · intro b hb
    refine ⟨queuedOn g0 (if b then [wideOp] else [rowsOut, wideOp]), if b then 0 else 1, wideOp, ?_, ?_, ?_⟩ <;> revert b <;> decide +kernel

/-- Whether the engine performs o next, by evaluation. -/
abbrev performsOk (s : State) (core pos : Nat) (o : EngineOp) (g p : Gang) : Bool :=
  decide ((coreOf s core).engine[pos]? = some o ∧ mustFetch o = false ∧ mayPerform s (coreOf s core).engine pos o = true ∧
    operandsReady s o = true ∧ (askOp s core o).2 = true ∧ gang? s o.gang = some g ∧ gang? s o.peer = some p)

theorem performs_of {s : State} {core pos : Nat} {o : EngineOp} {g p : Gang} (h : performsOk s core pos o g p = true) :
    Performs s core pos o g p :=
  let ⟨queued, fetched, order, ready, asked, issuer, peer⟩ := of_decide_eq_true h
  { queued, fetched, order, ready, asked, issuer, peer }

/-- The gang of the whole grant with one instruction in its core's engine. -/
def working (o : EngineOp) : State := queuedOn (mat 0 0) [o]

theorem works (o : EngineOp) (h : performsOk (working o) 0 0 o (mat 0 0) (mat 0 0) = true) : Performs (working o) 0 0 o (mat 0 0) (mat 0 0) :=
  performs_of h

/-- A cell of row 255 is poisoned. -/
def dirty (s : State) : State := modCore s 0 fun c => { c with accPoison := [accKey wholeGrant 255 240] }

def lastMma (func : BitVec 4) : EngineOp := opOf (.mma func 0) 0 (arw 0 3 15 1 255 1 15)

theorem witness_EngineEffects :
    (∀ func ∈ [0#4, 7, 8], ∃ s core pos o g p, Performs s core pos o g p ∧ o.work = .mma func 0 ∧ (parseArw o.b).col + (parseArw o.b).width ≤ 256 ∧
      mmaPoisoned func (parseArw o.b) (coreOf s core) p.grant = false ∧
      lmPoison s g.cohort (parseLow (o.a.extractLsb' 0 32)) (parseArw o.b).rows 144 = false) ∧
    (∃ s core pos o g p, Performs s core pos o g p ∧ o.work = .mma 0 0 ∧ (parseArw o.b).col + (parseArw o.b).width ≤ 256 ∧
      mmaPoisoned 0 (parseArw o.b) (coreOf s core) p.grant = true) ∧
    (∃ s core pos o g p, Performs s core pos o g p ∧ o.work = .zero ∧ (parseArw o.b).col + (parseArw o.b).width ≤ 256) ∧
    (∃ s core pos o g p, Performs s core pos o g p ∧ o.work = .load ∧ o.poisoned = []) ∧
    (∃ s core pos o g p, Performs s core pos o g p ∧ o.work = .fromLm ∧
      lmPoison s g.cohort (parseLow (o.a.extractLsb' 0 32)) (parseArw o.b).rows (4 * (parseArw o.b).width) = false) ∧
    (∃ s core pos o g p, Performs s core pos o g p ∧ o.work = .cvt 0 ∧ anyCellPoison (coreOf s core) p.grant (parseArw o.b).cells = false ∧
      16 * fld (o.a.extractLsb' 0 32) 0 4 + (parseArw o.b).width / (cvtFmt 0).2 ≤ 256) ∧
    (∃ s core pos o g p, Performs s core pos o g p ∧ o.work = .scacc true ∧
      scaccPoisoned (parseArw o.b) (parseSc (o.a.extractLsb' 0 32)) (coreOf s core) p.grant = false ∧
      (parseSc (o.a.extractLsb' 0 32)).pcol + (parseArw o.b).width ≤ 256) ∧
    (∃ s core pos o g p, Performs s core pos o g p ∧ o.work = .toLm ∧ anyCellPoison (coreOf s core) p.grant (parseArw o.b).cells = false ∧
      checkLow s g.cohort (parseLow (o.a.extractLsb' 0 32)) (parseArw o.b).rows (4 * (parseArw o.b).width) = .pass ∧ (parseArw o.b).rows = 1) ∧
    (∃ s core pos o g p, Performs s core pos o g p ∧ o.work = .store ∧ anyCellPoison (coreOf s core) p.grant (parseArw o.b).cells = false ∧
      (o.pieces.flatMap fun y => (List.range y.2.2).map (y.1 + ·)).Nodup) ∧
    (∃ s core pos o g p, Performs s core pos o g p ∧ o.work = .fill true ∧ (parseFill o.b).slot + (parseFill o.b).cols ≤ 256 ∧
      o.bytes.length = 120 * (parseFill o.b).cols) ∧
    (∃ s core pos o g p, Performs s core pos o g p ∧ o.work = .fill false ∧ (parseFill o.b).slot + (parseFill o.b).cols ≤ 256 ∧
      o.bytes.length = 144 * (parseFill o.b).cols) ∧
    ∃ s core pos o g p, Performs s core pos o g p ∧ o.work = .bind := by
  refine ⟨?_, ⟨_, 0, 0, lastMma 0, _, mat 0 0, performs_of (s := dirty (working (lastMma 0))) (g := mat 0 0) (by decide +kernel), rfl, by decide +kernel⟩,
    ⟨_, _, _, _, _, _, works (opOf .zero 0 narrow) (by decide +kernel), rfl, by decide +kernel⟩,
    ⟨_, _, _, _, _, _, works { loadOp with bytes := List.replicate 64 1, ready := true } (by decide +kernel), rfl, rfl⟩,
    ⟨_, _, _, _, _, _, works (opOf .fromLm 0 narrow) (by decide +kernel), rfl, by decide +kernel⟩,
    ⟨_, _, _, _, _, _, works (opOf (.cvt 0) 0xFF0 narrow) (by decide +kernel), rfl, by decide +kernel⟩,
    ⟨_, _, _, _, _, _, works (opOf (.scacc true) 0x3FE00000 narrow) (by decide +kernel), rfl, by decide +kernel⟩,
    ⟨_, _, _, _, _, _, works (opOf .toLm 0xFC0 narrow) (by decide +kernel), rfl, by decide +kernel⟩,
    ⟨_, _, _, _, _, _, works { opOf .store 0xFC0 narrow with pieces := [(0x104FC0, 0x5F, 64)] } (by decide +kernel), rfl, by decide +kernel⟩,
    ⟨_, _, _, _, _, _, works { opOf (.fill true) 0 0xFFC00000 with bytes := List.replicate 120 3, ready := true } (by decide +kernel), rfl, by decide +kernel⟩,
    ⟨_, _, _, _, _, _, works { opOf (.fill false) 0 0xFFC00000 with bytes := List.replicate 144 3, ready := true } (by decide +kernel), rfl, by decide +kernel⟩,
    ⟨_, _, _, _, _, _, works { bindOp with left := [] } (by decide +kernel), rfl⟩⟩
  intro func hf
  refine ⟨_, 0, 0, lastMma func, mat 0 0, mat 0 0, works (lastMma func) ?_, rfl, ?_, ?_, ?_⟩ <;> revert func <;> decide +kernel

/-! ### Surfaces, textures, tables, launches: descriptors in the page, slots in page 1, motion entries in page 2, an arena in page 3 -/

/-- Fields (offset, value) of a descriptor at pa. -/
def fieldsAt (s : State) (pa : Nat) (l : List (Nat × Nat)) : State :=
  l.foldl (fun s p => rawWrite s (pa + p.1) (bytesOf (Nat.log2 p.2 / 8 + 1) p.2)) s

theorem fieldsAt_iss (s : State) (pa : Nat) (l : List (Nat × Nat)) : (fieldsAt s pa l).iss = s.iss := by
  induction l generalizing s <;> simp_all [fieldsAt, rawWrite]

/-- A descriptor as words. -/
def wordsOf (l : List (Nat × Nat)) : List Byte := (List.range 64).map fun k =>
  BitVec.ofNat 8 (((l.find? fun p => decide (p.1 ≤ k) && decide (k < p.1 + 8)).map fun p => p.2 / 2 ^ (8 * (k - p.1))).getD 0)

def leaf (s : State) (page pa kind cl : Nat) : State :=
  rawWrite s (bootRoot + 0x3000 + 8 * page) (bytesOf 8 (pa + 0x5F + cl * 2 ^ 8 + kind * 2 ^ 55))

def pages (s : State) : State := leaf (leaf (leaf s 1 0x106000 1 0) 2 0x107000 2 0) 3 0x108000 3 0

/-- 8 × 8 samples of one channel of 8 bits in slots of 16 bytes, 64 spill entries: an anchor, and a dependent surface. -/
def anchorDesc : List (Nat × Nat) := [(0, 0x1000), (16, 0x3000), (40, 0x0000004000070007), (48, 0x7A00)]
def dependentDesc : List (Nat × Nat) := [(0, 0x1000), (8, 0x2000), (16, 0x3000), (40, 0x0000004000070007), (48, 0x7800)]

/-- Lane 0 at x, as (3, 3), lane 1 outside the extent; register 6 holds the data, registers 2 and 3 the descriptor's address. -/
def painting (va data : Word) (x : Nat) : Gang :=
  putLanes (putLanes (putLanes { g0 with live := 3, launchMask := 3 } 2 3 fun _ => va) 4 3 fun i => BitVec.ofNat 32 (x + 8 * i)) 6 3
    fun _ => data

def painted (g : Gang) : State := fieldsAt (fieldsAt (pages (withGang0 g)) 0x104200 anchorDesc) 0x104280 dependentDesc

def accOf {α : Type} (r : Acc α) : Option (State × α) :=
  match r with
  | .ok s v => some (s, v)
  | _ => none

theorem accOf_eq {α : Type} {r : Acc α} {s : State} {v : α} (h : accOf r = some (s, v)) : r = .ok s v := by cases r <;> simp_all [accOf]

def laneOf {α : Type} (r : Except State α) : Option α :=
  match r with
  | .ok x => some x
  | .error _ => none

theorem laneOf_eq {α : Type} {r : Except State α} {x : α} (h : laneOf r = some x) : r = .ok x := by cases r <;> simp_all [laneOf]

/-- A surface instruction goes ahead in every lane. -/
def surfOk (g : Gang) (op : SurfOp) : Bool :=
  decide (∃ p ∈ accOf (readSurface (viewOf (painted g) g) (painted g) (uniformPair g (execMask g (issueOf g)) 2)),
    let ls := (lanesOf (execMask g (issueOf g))).map fun l => (l, surfLane g 6 4 l)
    (surfRace op g (viewOf p.1 g) p.1 p.2 ls = none ∧ pinsFull p.1 g (newPins op g.span p.2 ls).length = false) ∧
      ∃ q ∈ laneOf (surfLanes op g p.2 p.1 ls), ∀ r ∈ q.2, (okOf r.2).isSome = true)

/-- What the statement assumes of a form, with the destination register 6 and the coordinates from register 4 on. -/
def SurfaceMet (op : SurfOp) : Prop :=
  ∃ s t u it g su rs, Issues s it g ∧ readSurface (viewOf s g) s (uniformPair g (execMask g it) 2) = .ok t su ∧
    surfRace op g (viewOf t g) t su ((lanesOf (execMask g it)).map fun l => (l, surfLane g 6 4 l)) = none ∧
    pinsFull t g (newPins op g.span su ((lanesOf (execMask g it)).map fun l => (l, surfLane g 6 4 l))).length = false ∧
    surfLanes op g su t ((lanesOf (execMask g it)).map fun l => (l, surfLane g 6 4 l)) = .ok (u, rs) ∧
    ∀ r ∈ rs, ∃ x, r.2 = .ok x

theorem surface_of (g : Gang) {op : SurfOp} (hg : gang? (painted g) (issueOf g).gang = some g) (h : surfOk g op = true) : SurfaceMet op := by
  obtain ⟨p, read, ⟨noRace, room⟩, q, lanes, every⟩ := of_decide_eq_true h
  exact ⟨painted g, p.1, q.1, issueOf g, g, p.2, q.2, ⟨by simp [painted, fieldsAt_iss, pages, leaf, rawWrite, withGang0], hg⟩,
    accOf_eq read, noRace, room, laneOf_eq lanes, fun r mem => (Option.isSome_iff_exists.mp (every r mem)).imp fun _ => okOf_eq⟩

/-- Each form: a load and a pixel write with a lane inside, and all four with lanes outside the extent. -/
theorem witness_SurfaceAccess : SurfaceMet .ld ∧ SurfaceMet .st ∧ SurfaceMet .stc ∧ SurfaceMet .mv :=
  ⟨surface_of (painting 0x200 0 0x30003) (by decide +kernel) (by decide +kernel),
    surface_of (painting 0x200 300 0x30003) (by decide +kernel) (by decide +kernel),
    surface_of (painting 0x200 40 0x80000) (by decide +kernel) (by decide +kernel),
    surface_of (painting 0x280 0 0x80000) (by decide +kernel) (by decide +kernel)⟩

/-- The surface that lane 0's instruction reads. -/
def surfOf (s : State) (g : Gang) : State × Surface :=
  (accOf (readSurface (viewOf s g) s (uniformPair g (execMask g (issueOf g)) 2))).getD (s, ⟨parseSurf 0 [], none, none⟩)

/-- The block at the origin, decoded in its cache. -/
def decoded (g : Gang) : State :=
  modCore (painted g) 0 fun c => { c with dbc := [⟨0x106000, 0x200, 0, 9, List.replicate 16 5, []⟩] }

theorem vplain_same {need : Need} {v : View} {s t : State} {va : DWord} {x : Xlat} (h : vplain need v s va = .ok t x) : t = s := by
  unfold vplain at h
  split at h <;> [cases h; cases h; skip]
  split at h <;> cases h
  rfl

/-- SURF.LD inside the extent, by decoding and from the cache. -/
def loadsOk (g : Gang) : Bool :=
  let r := surfOf (painted g) g
  decide (∃ q ∈ laneOf (surfLanes .ld g r.2 r.1 ((lanesOf (execMask g (issueOf g))).map fun l => (l, surfLane g 6 4 l))), q.1.mem = r.1.mem ∧
    (coreOf r.1 g.core).dbc = [] ∧ (surfLane g 6 4 0).x < r.2.d.width ∧ (surfLane g 6 4 0).y < r.2.d.height)

theorem vplain_of {need : Need} {v : View} {s : State} {va : DWord} {p : State × Xlat} (h : accOf (vplain need v s va) = some p) :
    vplain need v s va = .ok s p.2 := by
  have ok := accOf_eq (s := p.1) (v := p.2) h
  rwa [vplain_same ok] at ok

/-- Before its first lane a form has done nothing: the state that the clauses of one lane start from. -/
theorem surfLanes_nil (op : SurfOp) (g : Gang) (su : Surface) (t : State) : surfLanes op g su t [] = .ok (t, []) := rfl

def hitsOk (g : Gang) : Bool :=
  let t := decoded g
  let su := (surfOf t g).2
  (accOf (vplain (.surf 1 false) (viewOf t g) t (slotVA su.d 0 0 0))).any fun p =>
    pteCL p.2.pte == 0 && !ownBearing (viewOf t g) su 0 0 0 && (dbcHit (coreOf t g.core) p.2.pa su.d.va.toNat (pteKey p.2.pte) g.acq).isSome

theorem hits_of (g : Gang) (h : hitsOk g = true) : ∃ t su x e, vplain (.surf 1 false) (viewOf t g) t (slotVA su.d 0 0 0) = .ok t x ∧
    pteCL x.pte = 0 ∧ ownBearing (viewOf t g) su 0 0 0 = false ∧
    dbcHit (coreOf t g.core) x.pa su.d.va.toNat (pteKey x.pte) g.acq = some e := by
  simp only [hitsOk, Option.any_eq_true, Bool.and_eq_true, Bool.not_eq_true', beq_iff_eq] at h
  obtain ⟨p, found, ⟨cached, plain⟩, hit⟩ := h
  obtain ⟨e, he⟩ := Option.isSome_iff_exists.mp hit
  exact ⟨_, _, p.2, e, vplain_of found, cached, plain, he⟩

theorem witness_SurfaceLoads :
    loadsOk (painting 0x200 0 0x30003) = true ∧
    ∃ t su x e, ∃ g : Gang, vplain (.surf 1 false) (viewOf t g) t (slotVA su.d 0 0 0) = .ok t x ∧ pteCL x.pte = 0 ∧
      ownBearing (viewOf t g) su 0 0 0 = false ∧ dbcHit (coreOf t g.core) x.pa su.d.va.toNat (pteKey x.pte) g.acq = some e :=
  let ⟨t, su, x, e, h⟩ := hits_of (painting 0x200 0 0x30003) (by decide +kernel)
  ⟨by decide +kernel, t, su, x, e, _, h⟩

/-- The block at the origin is pinned, and then decodes and has its prediction. -/
def blockOk (g : Gang) : Bool :=
  let r := surfOf (painted g) g
  (accOf (pinBlock r.1 g.uid r.2 0 0 0)).any fun w => (accOf (blockAt (viewNow w.1 g.uid) w.1 r.2 0 0 0)).any fun w1 =>
    (accOf (predsAt (viewNow w.1 g.uid) w1.1 r.2 0 0 0)).isSome

/-- A dependent surface of one block. -/
def smallDesc : List (Nat × Nat) := [(0, 0x1000), (8, 0x2000), (16, 0x3000), (40, 0x0000004000030003), (48, 0x7800)]

/-- The line of a new motion entry is there, and the blocks of its patch are pinned and move. -/
def patchOk (g : Gang) : Bool :=
  let r := surfOf (fieldsAt (painted g) 0x1042C0 smallDesc) g
  let blocks := patchBlocks r.2.d 0 0
  (accOf (vcheck (.surf 2 true) (viewNow r.1 g.uid) r.1 (motionVA r.2.d 0 0))).any fun t =>
    (accOf (accList (fun s (b : Nat × Nat × Nat) => pinBlock s g.uid r.2 b.1 b.2.1 b.2.2) t.1 blocks)).any fun w =>
      (accOf (accList (fun s b => moveBlock s g.uid r.2 0 b) w.1 blocks)).isSome

def dependent : Surface := (surfOf (painted (painting 0x280 0 0)) (painting 0x280 0 0)).2

theorem witness_SurfaceCoefficients : blockOk (painting 0x200 0 0x30003) = true := by decide +kernel
theorem witness_SurfaceMotion : patchOk (painting 0x2C0 0 0x30003) = true := by decide +kernel
theorem witness_SurfaceSelectors : selectorBad .stc (parseSurf 0 []) ⟨0, 0, 0xF0, 0⟩ = false := by decide +kernel
theorem witness_SurfaceEntries :
    (!motionBad dependent 0 && !selectorBad .mv dependent.d ⟨0, 0, 0, 0⟩ && decide (0 < dependent.d.width)) = true := by decide +kernel

/-! ### Textures, launches, the raster unit -/

/-- The components of a lane that meets nothing. -/
def texelsOf (r : LaneRes (Except DWord (List Word))) : Option (List Word) :=
  match r with
  | .ok (.ok ws) => some ws
  | _ => none

theorem texelsOf_eq {r : LaneRes (Except DWord (List Word))} {ws : List Word} (h : texelsOf r = some ws) : r = .ok (.ok ws) := by
  unfold texelsOf at h; split at h <;> simp_all

/-- A texture of one texel at the start of the page: its descriptor is all zero. -/
def texOk (g : Gang) : Bool :=
  match accOf (readTex { viewOf (withGang0 g) g with pins := [], moves := [] } (withGang0 g) (uniformPair g (execMask g (issueOf g)) 2)) with
  | none => false
  | some (t, td) =>
    match laneOf (texLanes g td (fun l => (getReg g 4 l, getReg g 5 l, getReg g 6 l)) t (lanesOf (execMask g (issueOf g)))) with
    | none => false
    | some (_, rs) => rs.all fun r => (texelsOf r.2).isSome

theorem texture_of (g : Gang) (hg : gang? (withGang0 g) (issueOf g).gang = some g) (h : texOk g = true) :
    ∃ s t u it g, ∃ (td : TexDesc) (rs : List (Nat × LaneRes (Except DWord (List Word)))), Issues s it g ∧
      readTex { viewOf s g with pins := [], moves := [] } s (uniformPair g (execMask g it) 2) = .ok t td ∧
      texLanes g td (fun l => (getReg g 4 l, getReg g 5 l, getReg g 6 l)) t (lanesOf (execMask g it)) = .ok (u, rs) ∧
      ∀ r ∈ rs, ∃ ws, r.2 = .ok (.ok ws) := by
  unfold texOk at h
  split at h
  · cases h
  · rename_i t td h1
    split at h
    · cases h
    · rename_i u rs h2
      rw [List.all_eq_true] at h
      refine ⟨withGang0 g, t, u, issueOf g, g, td, rs, ⟨rfl, hg⟩, accOf_eq h1, laneOf_eq h2, fun r hr => ?_⟩
      obtain ⟨ws, hw⟩ := Option.isSome_iff_exists.mp (h r hr)
      exact ⟨ws, texelsOf_eq hw⟩

theorem witness_TextureSampling :
    (∃ s t u it g, ∃ (td : TexDesc) (rs : List (Nat × LaneRes (Except DWord (List Word)))), Issues s it g ∧
      readTex { viewOf s g with pins := [], moves := [] } s (uniformPair g (execMask g it) 2) = .ok t td ∧
      texLanes g td (fun l => (getReg g 4 l, getReg g 5 l, getReg g 6 l)) t (lanesOf (execMask g it)) = .ok (u, rs) ∧
      ∀ r ∈ rs, ∃ ws, r.2 = .ok (.ok ws)) ∧
    axisMode 2 1 (-1) = some 0 ∧ axisMode 3 4 4 = none ∧ (fdec fp32 0x7FC00000).isNan = true :=
  ⟨texture_of (painting 0x240 0x3F800000 0x3E800000) (by decide +kernel) (by decide +kernel), by decide +kernel⟩

/-- The descriptor of a launch of one lane at 0x2C0; a raster command on the anchor at 0x300. -/
def launchable (g : Gang) : State := fieldsAt (withGang0 g) 0x1042C0 [(16, 0x0000000100000001), (24, 0x0001000100000001), (32, 1)]
def kickable (g : Gang) : State := fieldsAt (fieldsAt (withGang0 g) 0x104200 anchorDesc) 0x104300 [(8, 1), (16, 0x200), (40, 0x00010001)]

def crowdedUnit (g : Gang) (c : RasterCmd) : State :=
  modCore (kickable g) 0 fun k => { k with raster := { k.raster with queue := [c, c, c, c] } }

abbrev launching (va : Word) : Gang := painting va 0 0
abbrev pastLaunch (va : Word) : State := pastBoundary (launchable (launching va)) (issueOf (launching va)) (launching va) 0
abbrev launchPast (va : Word) : Gang := gangPast (launchable (launching va)) (issueOf (launching va)) (launching va) 0

/-- GRID.LAUNCH reads its descriptor; the status is `st`. -/
def LaunchMet (st : Nat) : Prop := ∃ s t it g h x, AtBoundary s it g 0 t h ∧
  laneCheck t h .load 64 (uniformPair h (execMask h it) 2) = .ok x ∧ x.poison = false ∧ lineOf x.pa ∉ t.linePoison ∧
  (∃ u, Granted t u (.gang it.gang it.split) (regionOf t h) [x]) ∧
  launchStatus t (ctxOf t h) (some (regionOf t h)) (regionOf t h) (parseLaunch (readBytes (setAD t x false) (pteKey x.pte) x.pa 64)) = st

/-- RAST.KICK has its command's line, and reads the command and the surface. -/
def kickReads (t : State) (h : Gang) (it : Issue) (u : State) (x : Xlat) : Option (State × Surface) :=
  let u' := setAD (noteHome u (.gang it.gang it.split) x) x false
  accOf (readSurface { View.committed (ctxOf t h) (regionOf t h) with who := some (.gang it.gang it.split) } u'
    (parseRaster (readBytes u' (pteKey x.pte) x.pa 64)).target)

def kickStatus (it : Issue) (h : Gang) (u w : State) (x : Xlat) : Nat :=
  let u' := setAD (noteHome u (.gang it.gang it.split) x) x false
  if rasterMalformed (parseRaster (readBytes u' (pteKey x.pte) x.pa 64)) then 1
  else if 4 ≤ (coreOf w h.core).raster.queue.length then 2 else 0

def kickOk (s : State) (g : Gang) (st : Nat) : Bool :=
  let t := pastBoundary s (issueOf g) g 2
  let h := gangPast s (issueOf g) g 2
  bOk s g 2 && match okOf (laneCheck t h .load 64 (uniformPair h (execMask h (issueOf g)) 2)) with
  | none => false
  | some x =>
    let u := (askLines t (.gang (issueOf g).gang (issueOf g).split) (regionOf t h) [x]).1
    decide ((askLines t (.gang (issueOf g).gang (issueOf g).split) (regionOf t h) [x]).2 = true ∧ x.poison = false ∧
      lineOf x.pa ∉ t.linePoison) &&
      match kickReads t h (issueOf g) u x with
      | none => false
      | some (w, _) => decide (kickStatus (issueOf g) h u w x = st)

def KickMet (st : Nat) : Prop := ∃ s t u w it g h x su, AtBoundary s it g 2 t h ∧
  laneCheck t h .load 64 (uniformPair h (execMask h it) 2) = .ok x ∧ x.poison = false ∧ lineOf x.pa ∉ t.linePoison ∧
  Granted t u (.gang it.gang it.split) (regionOf t h) [x] ∧ kickReads t h it u x = some (w, su) ∧
  kickStatus it h u w x = st

theorem kick_of {s : State} {g : Gang} {st : Nat} (h : kickOk s g st = true) : KickMet st := by
  unfold kickOk at h
  obtain ⟨hb, h⟩ := Bool.and_eq_true_iff.mp h
  split at h
  · cases h
  · rename_i x hx
    obtain ⟨ha, h⟩ := Bool.and_eq_true_iff.mp h
    obtain ⟨asked, clean, line⟩ := of_decide_eq_true ha
    split at h
    · cases h
    · rename_i w su hw
      exact ⟨_, _, _, w, _, _, _, x, su, boundary_of s g 2 hb, okOf_eq hx, clean, line, Prod.ext rfl asked, hw, of_decide_eq_true h⟩

theorem witness_KickAndLaunch : LaunchMet 0 ∧ LaunchMet 1 ∧ KickMet 0 ∧ KickMet 1 ∧ KickMet 2 :=
  ⟨⟨_, pastLaunch 0x2C0, _, _, launchPast 0x2C0, found (pastLaunch 0x2C0) (launchPast 0x2C0) .load 64 (fun _ => uniformPair (launchPast 0x2C0) (execMask (launchPast 0x2C0) (issueOf (launching 0x2C0))) 2) 0, boundary_of (launchable (launching 0x2C0)) (launching 0x2C0) 0 (by decide +kernel),
      okOf_eq (by decide +kernel), by decide +kernel, by decide +kernel, granted_of (by decide +kernel), by decide +kernel⟩,
    ⟨_, pastLaunch 0x240, _, _, launchPast 0x240, found (pastLaunch 0x240) (launchPast 0x240) .load 64 (fun _ => uniformPair (launchPast 0x240) (execMask (launchPast 0x240) (issueOf (launching 0x240))) 2) 0, boundary_of (launchable (launching 0x240)) (launching 0x240) 0 (by decide +kernel),
      okOf_eq (by decide +kernel), by decide +kernel, by decide +kernel, granted_of (by decide +kernel), by decide +kernel⟩,
    kick_of (s := kickable (launching 0x300)) (g := launching 0x300) (by decide +kernel),
    kick_of (s := fieldsAt (kickable (launching 0x380)) 0x104380 [(16, 0x200)]) (g := launching 0x380) (by decide +kernel),
    kick_of (s := crowdedUnit (launching 0x300) (rasterCmd busy g0 (parseRaster []) ⟨parseSurf 0 [], none, none⟩)) (g := launching 0x300) (by decide +kernel)⟩

/-! ### Feature grids, stream code, copy commands, springs -/

/-- Lanes 0 and 1 with a LOW of stride 16 in register 2, the table's descriptor in registers 8 and 9, coordinates in 4 to 6. -/
def gridGang : Gang :=
  putLanes (putLanes (putLanes { g0 with live := 3, launchMask := 3 } 2 3 fun _ => 0x00200000) 8 3 fun _ => 0x4340) 4 3
    fun i => BitVec.ofNat 32 (0x3F000000 + i * 0x00800000)

/-- The page once more as page 4, outside the L1, with a table's descriptor. -/
def tabled (g : Gang) : State := fieldsAt (leaf (withGang0 g) 4 0x104000 0 1) 0x104340 [(0, 0x4400), (8, 0x21), (16, 1)]

abbrev gridState : State := pastBoundary (tabled gridGang) (issueOf gridGang) gridGang 2
abbrev gridPast : Gang := gangPast (tabled gridGang) (issueOf gridGang) gridGang 2
def gridX : Xlat := found gridState gridPast .load 1 (fun _ => 0x4340) 0
def gridDesc : GridDesc := parseGrid (readBytes gridState (pteKey gridX.pte) gridX.pa 64)
def gridVas (two : Bool) (l : Nat) : List DWord := gridAddrs two gridDesc (getReg gridPast 4 l) (getReg gridPast 5 l) (getReg gridPast 6 l)
def gridXs (two : Bool) (l : Nat) : List Xlat := (okOf (gridLane gridState gridPast (gridVas two l))).getD []

theorem plainRead_of {t : State} {x : Xlat} (h : decide (setAD t x false = t ∧ pteCL x.pte ≠ 0 ∧ x.poison = false ∧
    lineOf x.pa ∉ t.linePoison) = true) : PlainRead t x := by
  let ⟨marked, uncached, page, line⟩ := of_decide_eq_true h
  exact { marked, uncached, page, line }

theorem witness_FeatureGrid : ∀ two : Bool, ∃ s t it g h, ∃ x : Xlat, ∃ xs : Nat → List Xlat, AtBoundary s it g 2 t h ∧
    lowMalformed (uniform h (execMask h it) 2) = false ∧ (uniformPair h (execMask h it) 8).toNat % 64 = 0 ∧
    laneCheck t h .load 1 (uniformPair h (execMask h it) 8) = .ok x ∧ PlainRead t x ∧
    gridMalformed (parseGrid (readBytes t (pteKey x.pte) x.pa 64)) (readBytes t (pteKey x.pte) x.pa 64) = false ∧
    rowsFail t h (parseLow (uniform h (execMask h it) 2)) 4 [0, 1] = none ∧
    (∃ u u', askUntracked t (.gang it.gang it.split) h [x] = (u, true) ∧
      askUntracked u (.gang it.gang it.split) h ((lanesOf (execMask h it)).flatMap xs) = (u', true)) ∧
    (∀ l ∈ [0, 1], gridLane t h (gridAddrs two (parseGrid (readBytes t (pteKey x.pte) x.pa 64)) (getReg h 4 l) (getReg h 5 l)
      (getReg h 6 l)) = .ok (xs l) ∧ ∀ y ∈ xs l, PlainRead t y) ∧
    lanesOf (execMask h it) = [0, 1] ∧
    ∀ l ∈ [0, 1], overlaps t h.cohort (parseLow (uniform h (execMask h it) 2)).wg (16 * l) (16 * l + 4) = [] := by
  intro two
  refine ⟨_, gridState, _, _, gridPast, gridX, gridXs two, boundary_of (tabled gridGang) gridGang 2 (by decide +kernel), by decide +kernel, by decide +kernel,
    okOf_eq (by decide +kernel), plainRead_of (by decide +kernel), by decide +kernel, by decide +kernel, ?_, ?_, by decide +kernel⟩
  · have a : (askUntracked gridState (.gang 3 0) gridPast [gridX]).2 = true := by decide +kernel
    have b : (askUntracked (askUntracked gridState (.gang 3 0) gridPast [gridX]).1 (.gang 3 0) gridPast
      ((lanesOf (execMask gridPast (issueOf gridGang))).flatMap (gridXs two))).2 = true := by revert two; decide +kernel
    exact ⟨_, _, Prod.ext rfl a, Prod.ext rfl b⟩
  · intro l hl
    have a : okOf (gridLane gridState gridPast (gridVas two l)) = some (gridXs two l) := by revert two l; decide +kernel
    refine ⟨okOf_eq a, fun y hy => plainRead_of ?_⟩
    revert two l y; decide +kernel

/-- A pointer in register 2, a control word in register 4, values in register 6. -/
def streaming (ptr ctl : Word) : Gang := putLanes (regsOf [(2, ptr), (4, ctl)]) 6 (BitVec.allOnes 32) fun i => BitVec.ofNat 32 (3 * i)

abbrev groupFree (s : State) (g : Gang) (ptr n : Nat) : Prop :=
  firstBadByte s g.cohort (ptr / 8) n = none ∧ ∀ k, k < n →
    overlaps s g.cohort (localAddr (BitVec.ofNat 32 (ptr / 8 + k))).wg (localAddr (BitVec.ofNat 32 (ptr / 8 + k))).off
      ((localAddr (BitVec.ofNat 32 (ptr / 8 + k))).off + 1) = []

/-- The last bit that a group of bytes with w = 0 may start at in 4 KiB of local memory. -/
def lastPtr : Word := 32768 - 14

theorem witness_GroupCode :
    -- bad operands of each kind
    (∃ s it g, Issues s it g ∧ 2 ^ 24 ≤ (uniform g (execMask g it) 2).toNat ∧ execMask g it ≠ 0#32) ∧
    (∃ s it g, Issues s it g ∧ 32 ≤ (uniform g (execMask g it) 4).toNat ∧ execMask g it ≠ 0#32) ∧
    (∃ s it g, Issues s it g ∧ (uniform g (execMask g it) 4).toNat = 3 ∧ execMask g it ≠ 0#32) ∧
    -- UNPACK of signed bytes at the end of local memory
    (∃ s it g, Issues s it g ∧ execMask g it ≠ 0#32 ∧ uniform g (execMask g it) 2 = lastPtr ∧ (uniform g (execMask g it) 4).toNat = 16 ∧
      groupFree s g 32754 2 ∧ ∀ k, k < 2 → localPoisoned s g.cohort (localAddr (BitVec.ofNat 32 (32754 / 8 + k))).wg
        (localAddr (BitVec.ofNat 32 (32754 / 8 + k))).off 1 = false) ∧
    -- PACK of words from bit 7 on
    (∃ s it g, Issues s it g ∧ execMask g it ≠ 0#32 ∧ (uniform g (execMask g it) 2).toNat = 7 ∧ (uniform g (execMask g it) 4).toNat = 2 ∧
      groupFree s g 7 ((7 + 6 + 32 + 32 * (chooseGroup (wMin 32 1) ((List.range 32).map fun i => 3 * i)).2 + 7) / 8)) ∧
    (∃ w base top k e, ∃ offs : List Nat, w < 64 ∧ base < 2 ^ e ∧ (∀ j, j < 32 → offs.getD j 0 < 2 ^ w) ∧ top = 1 ∧ k < 32) :=
  ⟨⟨_, _, _, issues_of (streaming 0x1000000 0) (by decide +kernel), by decide +kernel⟩,
    ⟨_, _, _, issues_of (streaming 0 32) (by decide +kernel), by decide +kernel⟩,
    ⟨_, _, _, issues_of (streaming 0 3) (by decide +kernel), by decide +kernel⟩,
    ⟨_, _, _, issues_of (streaming lastPtr 16) (by decide +kernel), by decide +kernel⟩,
    ⟨_, _, _, issues_of (streaming 7 2) (by decide +kernel), by decide +kernel⟩,
    ⟨5, 0xFF, 1, 31, 8, List.replicate 32 31, by decide, by decide, by decide, rfl, by decide⟩⟩

/-! A copy of one byte from local 0x100 to 0x200, its command at local 0. -/

def command (ctl : Nat) : List Byte := wordsOf [(0, ctl), (8, 0x100), (16, 0x200), (36, 0x00010001), (44, 0x0001000100010001)]

def inLocal (s : State) (bs : List Byte) : State := localWrite s 2 0 0 bs

abbrev kicking : Gang := regsOf [(2, 0), (4, 0)]
abbrev copying (ctl : Nat) : State := inLocal (ready object0 kicking) (command ctl)
abbrev pastCopy (ctl : Nat) : State := pastBoundary (copying ctl) (issueOf kicking) kicking 0
abbrev copyPast (ctl : Nat) : Gang := gangPast (copying ctl) (issueOf kicking) kicking 0

/-- What the statement assumes of CPY.KICK from register 2 with a start chunk of 0 and a completion barrier `bar`, with a command
without follow-on. -/
def copyCond (t : State) (h : Gang) (addr : Word) (bar : Option (Nat × Nat)) : Prop :=
  let bs := localBytes t h.cohort (localAddr addr).wg (localAddr addr).off 64
  let c := parseCmd bs
  addr.toNat % 64 = 0 ∧ firstBadByte t h.cohort addr.toNat 64 = none ∧ chooseSlot t h.core = some 0 ∧
  localPoisoned t h.cohort (localAddr addr).wg (localAddr addr).off 64 = false ∧ c.malformed = false ∧ 0 < c.chunks ∧
  operandBad t h.cohort (localSrc t h.cohort c 0 none ++ knownDst t h.cohort c 0) = none ∧ c.follow = false ∧
  if c.baren = true then boundObj t h.cohort (barTarget h (cmdBar c)).1 (barTarget h (cmdBar c)).2 = bar ∧
    (bar.bind fun b => barObj t b.1 b.2).isSome = true ∧ (barWg t h.cohort (barTarget h (cmdBar c)).1).isSome = true
  else bar = none

/-- The ranges that the kick enters. -/
def rangesOf (t : State) (h : Gang) (addr : Word) : Option State :=
  let c := parseCmd (localBytes t h.cohort (localAddr addr).wg (localAddr addr).off 64)
  enterRanges t (((cohortOf t h).map (·.basin)).getD 0) (commandEntries t h.cohort h.core t.nextUid c 0 none)

def CopyMet (bar : Option (Nat × Nat)) : Prop := ∃ s t t1 it g h, AtBoundary s it g 0 t h ∧
  copyCond t h (uniform h (execMask h it) 2) bar ∧ rangesOf t h (uniform h (execMask h it) 2) = some t1

theorem copy_of (ctl : Nat) (bar : Option (Nat × Nat)) (h : bOk (copying ctl) kicking 0 = true)
    (k : copyCond (pastCopy ctl) (copyPast ctl) (uniform (copyPast ctl) (execMask (copyPast ctl) (issueOf kicking)) 2) bar)
    (r : (rangesOf (pastCopy ctl) (copyPast ctl)
      (uniform (copyPast ctl) (execMask (copyPast ctl) (issueOf kicking)) 2)).isSome = true) : CopyMet bar := by
  obtain ⟨t1, ht⟩ := Option.isSome_iff_exists.mp r
  exact ⟨_, _, t1, _, _, _, boundary_of _ _ 0 h, k, ht⟩

/-- A record of the command. -/
def recorded : State := modCore (withGang0 kicking) 0 fun c => { c with records := [⟨3, 9, 2, 0, 2, 0x17, 70000, 1⟩] }

theorem witness_CopyCommands :
    CopyMet none ∧ CopyMet (some (0, 5)) ∧
    (∃ s it g, Issues s it g ∧ copyRecord (coreOf s g.core) g.cohort (uniform g (execMask g it) 2).toNat = none) ∧
    ∃ s it g x, Issues s it g ∧ copyRecord (coreOf s g.core) g.cohort (uniform g (execMask g it) 2).toNat = some x ∧ x.state < 4 :=
  ⟨copy_of 0x10060000 none (by decide +kernel) (by unfold copyCond; decide +kernel) (by decide +kernel),
    copy_of 0x10064005 (some (0, 5)) (by decide +kernel) (by unfold copyCond; decide +kernel) (by decide +kernel),
    ⟨_, _, _, issues_of kicking (by decide +kernel), by decide +kernel⟩,
    ⟨recorded, _, kicking, ⟨3, 9, 2, 0, 2, 0x17, 70000, 1⟩, ⟨rfl, by decide +kernel⟩, by decide +kernel⟩⟩

/-- Spring 63 of the region's image: the slots given, in order. -/
def sprung (l : List DWord) (g : Gang) : State :=
  modCore (modRegion (withGang0 g) bootRcb fun r => { r with spring := 0x110000 }) 0 fun c =>
    { c with banks := [⟨0x110000, ((List.range 512).zip (l.flatMap fun w => bytesOf 8 w.toNat)).map fun p => (512 * 63 + p.1, p.2)⟩] }

def endSlot : DWord := 0x0400000000000000
/-- d := a + b; then END. An LDL at −1; then END. -/
def addSlot : DWord := 0x0A20000000000000 ||| (8 : DWord) <<< 50 ||| (9 : DWord) <<< 46
def ldlSlot : DWord := 0x6200000000000000 ||| (11 : DWord) <<< 50 ||| 0xFFFFFFFF

def imageOf (l : List DWord) : Image := (gangSpring (sprung l g0) g0 63).getD []
def envOf (l : List DWord) : SpEnv := ⟨g0, imageOf l, 63, 6, 2, 4⟩
def startOf : List SpLane := (lanesOf (execMask g0 (issueOf g0))).map fun l => (⟨l, List.replicate 8 0, getReg g0 6 l, getReg g0 7 l, 0⟩ : SpLane)
def runOf (l : List DWord) : SpOut := spFrom (envOf l) 65 0 ⟨sprung l g0, startOf, []⟩

def ranOf : SpOut → Option SpRun
  | .ok r => some r
  | _ => none
def trapOf : SpOut → Option Trap
  | .trap t => some t
  | _ => none
theorem ranOf_eq {o : SpOut} {r : SpRun} (h : ranOf o = some r) : o = .ok r := by cases o <;> simp_all [ranOf]
theorem trapOf_eq {o : SpOut} {t : Trap} (h : trapOf o = some t) : o = .trap t := by cases o <;> simp_all [trapOf]

theorem witness_Springs :
    (∃ s it g, Issues s it g ∧ gangSpring s g 63 = none) ∧
    (∃ s it g im, Issues s it g ∧ gangSpring s g 63 = some im ∧ uOpc (slotWord im 63 0) = 1) ∧
    (∃ s it g im, Issues s it g ∧ gangSpring s g 63 = some im ∧ ∃ r, r.dead = [] ∧
      spFrom ⟨g, im, 63, 6, 2, 4⟩ 65 0 ⟨s, (lanesOf (execMask g it)).map fun l => (⟨l, List.replicate 8 0, getReg g 6 l, getReg g 7 l, 0⟩ : SpLane), []⟩ = .ok r) ∧
    ∃ s it g im t, Issues s it g ∧ gangSpring s g 63 = some im ∧
      spFrom ⟨g, im, 63, 6, 2, 4⟩ 65 0 ⟨s, (lanesOf (execMask g it)).map fun l => (⟨l, List.replicate 8 0, getReg g 6 l, getReg g 7 l, 0⟩ : SpLane), []⟩ = .trap t := by
  have h1 : ((ranOf (runOf [addSlot, endSlot])).elim false fun r => r.dead.isEmpty) = true := by decide +kernel
  have h2 : (trapOf (runOf [ldlSlot, endSlot])).isSome = true := by decide +kernel
  refine ⟨⟨_, _, _, issues0, by decide +kernel⟩,
    ⟨sprung [endSlot] g0, issueOf g0, g0, imageOf [endSlot], ⟨rfl, by decide +kernel⟩, some_getD (by decide +kernel), by decide +kernel⟩, ?_, ?_⟩
  · cases hr : ranOf (runOf [addSlot, endSlot]) with
    | none => simp [hr] at h1
    | some r =>
      simp only [hr, Option.elim_some, List.isEmpty_iff] at h1
      exact ⟨sprung [addSlot, endSlot] g0, issueOf g0, g0, imageOf [addSlot, endSlot], ⟨rfl, by decide +kernel⟩, some_getD (by decide +kernel),
        r, h1, ranOf_eq hr⟩
  · obtain ⟨t, ht⟩ := Option.isSome_iff_exists.mp h2
    exact ⟨sprung [ldlSlot, endSlot] g0, issueOf g0, g0, imageOf [ldlSlot, endSlot], t, ⟨rfl, by decide +kernel⟩, some_getD (by decide +kernel),
      trapOf_eq ht⟩

/-- A table look-up; an LDL at 0x200; a loop of one turn over the addition after it. -/
def lutSlot : DWord := 0x6600000000000000 ||| (8 : DWord) <<< 50
def ldlOk : DWord := 0x6200000000000000 ||| (11 : DWord) <<< 50 ||| 0x100
def loopSlot : DWord := 0x6800000000000000 ||| (11 : DWord) <<< 50 ||| 0x101
def runAt (l : List DWord) : SpRun := ⟨sprung l g0, startOf, []⟩

theorem witness_SpringSlots :
    (∃ (e : SpEnv) (j : Nat), uOpc (slotWord e.im e.n j) = 0x19) ∧
    (∃ (e : SpEnv) (r : SpRun) (j : Nat), uOpc (slotWord e.im e.n j) = 0x18 ∧ (r.lanes.map (·.lane)).Nodup ∧ ∀ l ∈ r.lanes,
      let a := (if uS1 (slotWord e.im e.n j) < 8 then l.t.getD (uS1 (slotWord e.im e.n j)) 0 else (slotWord e.im e.n j).extractLsb' 0 32)
        + (slotWord e.im e.n j).extractLsb' 0 32
      a.toNat % 4 = 0 ∧ localOk r.s e.g.cohort (localAddr a) = true ∧
        overlaps r.s e.g.cohort (localAddr a).wg (localAddr a).off ((localAddr a).off + 4) = [] ∧
        localPoisoned r.s e.g.cohort (localAddr a).wg (localAddr a).off 4 = false) ∧
    -- a loop of one turn in every lane
    uOpc (slotWord (imageOf [loopSlot, addSlot, endSlot]) 63 0) = 0x1A ∧ uS1 (slotWord (imageOf [loopSlot, addSlot, endSlot]) 63 0) = 11 ∧
    fld (slotWord (imageOf [loopSlot, addSlot, endSlot]) 63 0) 0 5 = 1 ∧ fld (slotWord (imageOf [loopSlot, addSlot, endSlot]) 63 0) 8 6 = 1 ∧
    (startOf.map (·.lane)).Nodup ∧ startOf ≠ [] ∧
    (ranOf (spSlot (envOf [loopSlot, addSlot, endSlot]) (runAt [loopSlot, addSlot, endSlot]) 1 0 fun _ => true)).isSome = true :=
  ⟨⟨envOf [lutSlot, endSlot], 0, by decide +kernel⟩, ⟨envOf [ldlOk, endSlot], runAt [ldlOk, endSlot], 0, by decide +kernel⟩, by decide +kernel,
    by decide +kernel, by decide +kernel, by decide +kernel, by decide +kernel, by decide +kernel, by decide +kernel⟩

/-! ### Register instructions: any issuing gang; boundary values of the clauses -/

theorem witness_IntegerArithmetic : ∃ s it g, Issues s it g := ⟨_, _, _, issues0⟩
theorem witness_ImmediateForms : ∃ s it g, Issues s it g := ⟨_, _, _, issues0⟩
theorem witness_BitsAndShifts : ∃ s it g, Issues s it g := ⟨_, _, _, issues0⟩
theorem witness_Integer64 : ∃ s it g, Issues s it g := ⟨_, _, _, issues0⟩
theorem witness_IntegerCompares : ∃ s it g, Issues s it g := ⟨_, _, _, issues0⟩
theorem witness_LaneCollectives : ∃ s it g, Issues s it g := ⟨_, _, _, issues0⟩
theorem witness_FloatReductions : ∃ s it g, Issues s it g := ⟨_, _, _, issues0⟩
theorem witness_FloatCompares : ∃ s it g, Issues s it g := ⟨_, _, _, issues0⟩
theorem witness_FloatArithmetic : ∃ s it g, Issues s it g := ⟨_, _, _, issues0⟩
theorem witness_PackedArithmetic : ∃ s it g, Issues s it g := ⟨_, _, _, issues0⟩
theorem witness_AnchoredAccumulators : ∃ s it g, Issues s it g := ⟨_, _, _, issues0⟩

theorem witness_MovesAndIndirect : ∃ s it g, Issues s it g ∧
    ∀ l, l < 32 → (execMask g it).getLsbD l = true → (getReg g 2 l).toNat = 127 ∧ (getReg g 2 l).toNat < g.alloc :=
  ⟨_, _, _, issues_of (valued 127) (by decide +kernel), by decide +kernel⟩

/-- The number nearest to the start of an enclosure of which the free value is no part is finite where that number is. -/
theorem approx_finite (c : Word) (lo : Int) (p : Prop) [Decidable p] (h : ∃ n m e, fdec fp32 (nearest lo) = .fin n m e) :
    ∃ n m e, fdec fp32 (match fdec fp32 c.toNat with
      | .fin _ _ _ => if p then c.toNat else nearest lo
      | _ => nearest lo) = .fin n m e := by
  split
  · rename_i n m e hc
    split
    · exact ⟨n, m, e, hc⟩
    · exact h
  · exact h

/-- Enclosures of 2^0.5, log2 3 and sin (π/4), and their approximations' of each function at 0.5, narrow. -/
def narrowAt (fn : Nat) : Bool :=
  (exactBounds fn false 8388608 (-24)).any fun (b : Int × Int) =>
    decide (b.1 ≤ b.2 ∧ 4 * (b.2 - b.1) ≤ (approxBound fn (min b.1.natAbs b.2.natAbs) (inHalfTwo 8388608 (-24)) : Nat)) &&
      match fdec fp32 (nearest b.1) with | .fin _ _ _ => true | _ => false

def decidesAt (x : Enc) : Bool :=
  decide (31 ≤ Nat.log2 x.lo ∧ x.lo ≤ x.hi ∧ x.lo / 2 ^ (Nat.log2 x.lo - 31) = x.hi / 2 ^ (Nat.log2 x.lo - 31))

theorem witness_SpecialFunctions :
    (∃ s it g, Issues s it g) ∧ (∃ x : Word, 0x80000000 < x.toNat ∧ x.toNat ≤ 0xFF800000) ∧
    fdec fp32 (0x3F000000#32 : Word).toNat = .fin false 8388608 (-24) ∧ fdec fp32 (0x40400000#32 : Word).toNat = .fin false 12582912 (-22) ∧
    decidesAt (exp2Enc false 8388608 (-24)) = true ∧ (log2Enc 12582912 (-22)).any decidesAt = true ∧
    (match sinPi (mod2 false 8388608 (-25)).1 (mod2 false 8388608 (-25)).2 with | .irr x => decidesAt x | _ => false) = true ∧
    (∀ fn, 8 ≤ fn → fn ≤ 14 → narrowAt fn = true) ∧ 2 ^ 335 < (fixOf (fdec fp32 0x7F7FFFFF)).natAbs :=
  ⟨⟨_, _, _, issues0⟩, ⟨0xFF800000, by decide +kernel⟩, by decide +kernel, by decide +kernel, by decide +kernel, by decide +kernel, by decide +kernel,
    fun fn h k => by
      have : fn = 8 ∨ fn = 9 ∨ fn = 10 ∨ fn = 11 ∨ fn = 12 ∨ fn = 13 ∨ fn = 14 := by omega
      rcases this with rfl | rfl | rfl | rfl | rfl | rfl | rfl <;> decide +kernel,
    by decide +kernel⟩

theorem witness_Conversions : (∃ s it g, Issues s it g) ∧ (∃ lo hi : Int, lo ≤ 0 ∧ 0 ≤ hi) ∧ (FVal.nan false).isNan = true :=
  ⟨⟨_, _, _, issues0⟩, ⟨0, 0, by decide +kernel⟩, rfl⟩

theorem witness_ExtendedRoundingForms : (∃ s it g, Issues s it g) ∧
    (decodeRaw (encA3 false (encFpMajor .anchored) 6 2 4 6) 0).isSome = true ∧ (fpForm .anchored 6).isSome = true ∧
    decodeRaw (encA3 false (encFpMajor .fp32) 0 2 4 6) 0 = some (.fadd 2 4 6) ∧ (fpForm .fp32 0).isSome = true ∧ (0#4 : BitVec 4) ≠ 0xF#4 :=
  ⟨⟨_, _, _, issues0⟩, by decide +kernel⟩

/-- A tie, at the smallest shift. -/
theorem witness_RoundingModes : ∃ m sh : Nat, 1 ≤ sh ∧ 2 * m = (2 * (m / 2 ^ sh) + 1) * 2 ^ sh := ⟨3, 1, by decide +kernel⟩

/-! ### The firmware: DEVICE.INIT has run, context 1 exists, the host link is up -/

def linked : State := { boot with links := [(0, ⟨true, 64, 16⟩)] }
def head0 : CmdHead := ⟨7, 0⟩
def head1 : CmdHead := ⟨7, 1⟩

/-- Host memory at 0: an RCB image beside the region, and whatever else the commands read. -/
def rcbImage : List Byte := List.replicate 12 0 ++ [7, 0, 0, 0] ++ List.replicate 112 0
def served : State := rawWrite linked (2 ^ 48) rcbImage

/-- The firmware has an entry of zeros to read, whose operation is none. -/
def ringing : State := { linked with dev := { linked.dev with qEn := true, sqTail := 1 } }

/-- A launch descriptor of one gang at 0x2C0. -/
def launchable0 : State := fieldsAt linked 0x1042C0 [(16, 0x0000000100000001), (24, 0x0001000100000001), (32, 1), (40, bootRcb)]

/-- An engine instruction of core 0 that was translated through an entry in the line. -/
def walking (s : State) (line : Nat) : State := modCore s 0 fun c => { c with offers := [{ mmaOp with walks := [line] }] }

theorem of_elim {α : Type} {o : Option α} {f : α → Bool} (h : o.elim false f = true) : ∃ x, o = some x ∧ f x = true := by
  cases o <;> simp_all

theorem witness_FirmwareFrame :
    (linked.dev.current = none ∧ State.reset.dev.current = none ∧ State.reset.dev.boot ≠ 2 ∧ State.reset.dev.boot = 0 ∧
      linked.dev.boot = 2 ∧ head0.ctx = 0 ∧ head1.ctx ≠ 0 ∧ context? linked 2 = none ∧ (context? linked 1).isSome = true) ∧
    -- completion: the host link up, the ring at the end of host memory
    (∃ s : State, linkUp s 0 = true ∧ 2 ^ 48 + (s.dev.cqBase + BitVec.ofNat 64 (16 * s.dev.cqIndex)).toNat + 16 ≤ 2 ^ 51) ∧
    -- an unassigned operation in the ring
    (∃ x, ringing.dev.current = none ∧ ringing.dev.serving = none ∧ ringing.dev.qEn = true ∧ ringing.dev.sqHead ≠ ringing.dev.sqTail ∧
      nextEntry ringing = some x ∧ decodeCommandRaw x = none) ∧
    -- CONTEXT.CREATE
    (∃ root saveBase saveSize poolBase : DWord, root.toNat % 2 ^ 20 = 0 ∧ populated linked root.toNat = true ∧ saveBase.toNat % 4096 = 0 ∧
      saveSize ≠ 0 ∧ saveSize.toNat % (6 * 2 ^ 20) = 0 ∧ poolBase.toNat % 4096 = 0) ∧
    -- REGION.CREATE: image unreadable, good, bad
    (∃ image rcb : DWord, image.toNat % 8 = 0 ∧ rcb.toNat % 128 = 0 ∧ populated boot rcb.toNat = true ∧ hostRead boot image 128 = none) ∧
    (∃ (image rcb : DWord) (bs : List Byte), image.toNat % 8 = 0 ∧ rcb.toNat % 128 = 0 ∧ populated served rcb.toNat = true ∧
      hostRead served image 128 = some bs ∧ rcbBad served (parseRcb 1 rcb.toNat bs) bs = false ∧
      ∀ s ∈ [served, walking served (lineOf rcb.toNat)], hostRead s image 128 = some bs ∧ rcbBad s (parseRcb 1 rcb.toNat bs) bs = false ∧
        holdsWalk s ((List.range 128).map (rcb.toNat + ·)) = decide (s ≠ served)) ∧
    (∃ (image rcb : DWord) (bs : List Byte), image.toNat % 8 = 0 ∧ rcb.toNat % 128 = 0 ∧ populated served rcb.toNat = true ∧
      hostRead served image 128 = some bs ∧ rcbBad served (parseRcb 1 rcb.toNat bs) bs = true) ∧
    -- LAUNCH: descriptor unreadable, refused
    readLaunch linked 1 0x8000 = none ∧ (∃ d, readLaunch linked 1 0x240 = some d ∧ launchStatus linked 1 none d.region d ≠ 0) ∧
    (∃ s d, (context? s 1).isSome = true ∧ readLaunch s 1 0x2C0 = some d ∧ launchStatus s 1 none d.region d = 0) ∧
    -- PREEMPT and RESUME
    regionIn linked 1 0 = none ∧ (∃ r, regionIn linked 1 (BitVec.ofNat 64 bootRcb) = some r) := by
  have refused : ∃ d ∈ readLaunch linked 1 0x240, launchStatus linked 1 none d.region d ≠ 0 := by decide +kernel
  have launches : ∃ d ∈ readLaunch launchable0 1 0x2C0, launchStatus launchable0 1 none d.region d = 0 := by decide +kernel
  have known : (regionIn linked 1 (BitVec.ofNat 64 bootRcb)).isSome = true := by decide +kernel
  refine ⟨by decide +kernel,
    ⟨linked, by decide +kernel⟩,
    ⟨0, by decide +kernel⟩,
    ⟨0x100000, 0, 6 * 2 ^ 20, 0x200000, by decide +kernel⟩,
    ⟨0, 0x105080, by decide +kernel⟩,
    ⟨0, 0x105080, rcbImage, by decide +kernel⟩,
    ⟨0, 0x105000, rcbImage, by decide +kernel⟩,
    by decide +kernel, refused, ⟨launchable0, launches.imp fun d k => ⟨by decide +kernel, k⟩⟩, by decide +kernel,
    Option.isSome_iff_exists.mp known⟩

theorem natOfBytes_zero (l : List Byte) (h : ∀ b ∈ l, b = 0#8) : natOfBytes l = 0 := by
  induction l with
  | nil => rfl
  | cons b l ih => simp_all [natOfBytes]
theorem imageNat_nil (off n : Nat) : imageNat [] off n = 0 := natOfBytes_zero _ (by simp [readK, getK])
theorem verify_nil : verifyImage [] = none := by
  simp [verifyImage, verifySpring, slotWord, tableWord, imageNat_nil]

/-! PAGE.MIGRATE: page 5 is the host's, page 6 lies in the host window, with a pool frame to come home to. -/

def shared : State :=
  let s := rawWrite (rawWrite linked (bootRoot + 0x3028) (bytesOf 8 (0x104000 + 0x5F + 2 ^ 57))) (bootRoot + 0x3030)
    (bytesOf 8 (2 ^ 48 + 0x5F + 2 ^ 57))
  { s with links := [(0, ⟨true, 64, 16⟩), (1, ⟨true, 32, 8⟩)], contexts := s.contexts.map fun c => { c with pool := [0x120000] } }

def leafOf (s : State) (va : DWord) : Option (Nat × Nat × DWord) :=
  match walk s bootRoot va with
  | .leaf l e x => some (l, e, x)
  | _ => none
theorem leafOf_eq {s : State} {va : DWord} {l e : Nat} {x : DWord} (h : leafOf s va = some (l, e, x)) : walk s bootRoot va = .leaf l e x := by
  unfold leafOf at h; split at h <;> simp_all

theorem leafOf_none {s : State} {va : DWord} (h : leafOf s va = none) : ∃ f l, walk s bootRoot va = .fault f l := by
  unfold leafOf at h; split at h
  · cases h
  · rename_i h1; cases hw : walk s bootRoot va with
    | fault f l => exact ⟨f, l, rfl⟩
    | leaf l e x => exact absurd hw (h1 l e x)

def handed : Hand → Bool
  | .done _ => true
  | .failed _ => false
theorem handed_done {h : Hand} (k : handed h = true) : ∃ s, h = .done s := by cases h <;> simp_all [handed]
theorem handed_failed {h : Hand} (k : handed h = false) : ∃ n, h = .failed n := by cases h <;> simp_all [handed]

/-- A state with a reserved range, and a valid image of no springs at 0x120000. -/
def roomFor : State := { shared with dev := { shared.dev with reserved := [(0x3FC0000000, 2 ^ 30), (0, 0), (0, 0), (0, 0)] } }
def badImage : State := rawWrite roomFor 0x120007 [0xFC]

theorem witness_FirmwareCommands :
    roomFor.dev.current = none ∧ roomFor.dev.boot = 2 ∧ context? roomFor 1 = some ⟨1, bootRoot, 0, 0, [], [0x120000]⟩ ∧
    (∃ f l, walk shared bootRoot 0x7000 = .fault f l) ∧
    -- the device's page, to its owner, to the host, to a peer up and one down; the host's page, and one in the window, come home or fail
    (∃ e x, walk shared bootRoot 0 = .leaf 3 e x ∧ ownerOf shared x = 0 ∧ pteOwn x = false ∧ awayReady shared 1 0 = some (leafEntries e x) ∧
      linkUp shared 0 = true ∧ linkUp shared 1 = true ∧ linkUp shared 6 = false) ∧
    (∃ e x, walk (walking shared (lineOf (bootRoot + 0x3000))) bootRoot 0 = .leaf 3 e x ∧ pteOwn x = false ∧
      awayReady (walking shared (lineOf (bootRoot + 0x3000))) 1 0 = none) ∧
    (∃ e x, walk shared bootRoot 0x5000 = .leaf 3 e x ∧ ownerOf shared x ≠ 0 ∧ pteOwn x = true ∧
      (holdsWalk shared (entryBytes (leafEntries e x)) || awaitsParty shared (leafEntries e x) .partner) = false ∧
      ∃ t, bringHome shared 1 0x5000 x = .done t) ∧
    (∃ e x, walk (noteHanded shared [bootRoot + 0x3028] .partner) bootRoot 0x5000 = .leaf 3 e x ∧ pteOwn x = true ∧
      awaitsParty (noteHanded shared [bootRoot + 0x3028] .partner) (leafEntries e x) .partner = true) ∧
    (∃ e x, walk shared bootRoot 0x6000 = .leaf 3 e x ∧ pteOwn x = true ∧ ∃ n, bringHome { shared with links := [] } 1 0x6000 x = .failed n) ∧
    -- SPRING.BIND: misplaced, malformed, sealed
    populated roomFor 0 = true ∧ populated roomFor (2 ^ 40) = false ∧ (∀ k, k < 9 → populated roomFor (0x120000 + 4096 * k) = true) ∧
    verifyImage (sealedImage roomFor 0x120000) = none ∧ (verifyImage (sealedImage badImage 0x120000)).isSome = true ∧
    (sealPlace roomFor 0).isSome = true ∧
    -- KEY.LOAD, ATTEST, CAPACITY.MAP, ERROR.QUERY, POISON.CLEAR: read and unread, slot 63, page 0
    hostRead boot 0 64 = none ∧ (hostRead roomFor 0 64).isSome = true ∧ (63#8 : Byte).toNat ≤ 63 ∧ hostReach boot 0 208 = false ∧
    hostReach roomFor 0 208 = true ∧ hostReach roomFor 0 128 = true ∧ hostReach roomFor 0 0 = true ∧ hostReach boot 0 0 = false ∧
    keyPair roomFor 63 = none ∧ (keyPair roomFor 0).isSome = true ∧ (hostRead roomFor 8 4096).isSome = true ∧
    (∀ g ∈ roomFor.gangs, g.span.pins = [] ∧ g.span.moves = []) ∧ 0 + 4096 ≤ (poisonBit roomFor 0).1 := by
  refine ⟨by decide +kernel, by decide +kernel, by decide +kernel, ?_, ⟨bootRoot + 0x3000, 0x104000 + 0x5F, leafOf_eq (by decide +kernel), by decide +kernel⟩,
    ⟨bootRoot + 0x3000, 0x104000 + 0x5F, leafOf_eq (by decide +kernel), by decide +kernel⟩,
    ⟨bootRoot + 0x3028, BitVec.ofNat 64 (0x104000 + 0x5F + 2 ^ 57), leafOf_eq (by decide +kernel), by decide +kernel, by decide +kernel,
      by decide +kernel, handed_done (by decide +kernel)⟩,
    ⟨bootRoot + 0x3028, BitVec.ofNat 64 (0x104000 + 0x5F + 2 ^ 57), leafOf_eq (by decide +kernel), by decide +kernel⟩,
    ⟨bootRoot + 0x3030, BitVec.ofNat 64 (2 ^ 48 + 0x5F + 2 ^ 57), leafOf_eq (by decide +kernel), by decide +kernel, handed_failed (by decide +kernel)⟩,
    by decide +kernel, by decide +kernel, by decide +kernel, by rw [show sealedImage roomFor 0x120000 = [] by decide +kernel]; exact verify_nil,
    by decide +kernel⟩
  exact leafOf_none (by decide +kernel)

/-! ### Host side -/

/-- A hand-over of pages 5 and 6 of context 1 is asked for by the gang. -/
def asked (page : Nat) : State := { shared with handReqs := [⟨1, page, [3], [], [], []⟩] }
def hostLeaf : DWord := BitVec.ofNat 64 (0x104000 + 0x5F + 2 ^ 57)
def windowLeaf : DWord := BitVec.ofNat 64 (2 ^ 48 + 0x5F + 2 ^ 57)

theorem noPins_of {s : State} (h : decide (∀ g ∈ s.gangs, g.span.pins = [] ∧ g.span.moves = []) = true) : NoPins s :=
  fun g m => of_decide_eq_true h g m

theorem idle_of {s : State} (h : decide (∀ g ∈ s.gangs, g.span.ver = [] ∧ g.span.pins = [] ∧ g.span.moves = [] ∧ g.span.reads = [] ∧
    g.span.sigReads = [] ∧ g.span.formReads = [] ∧ g.span.touched = [] ∧ g.span.ovf = false) = true) : IdleSpans s :=
  fun g m => of_decide_eq_true h g m

def leaf0 : Nat := bootRoot + 0x3000
def leaf5 : Nat := bootRoot + 0x3028
def leaf6 : Nat := bootRoot + 0x3030
def ownLeaf : DWord := BitVec.ofNat 64 0x10405F
def ctx0 : Context := ⟨1, bootRoot, 0, 0, [], [0x120000]⟩
abbrev entryAt (e : Nat) : List Nat := (List.range 8).map (e + ·)

/-- The common premises of a hand-over that was asked for, of the page `page` with the leaf e at `entry`. -/
def Asked (s : State) (page entry : Nat) (e : DWord) (r : HandReq) : Prop :=
  (handReq? s 1 page = some r ∧ context? s 1 = some ctx0 ∧ pteOwn e = true ∧ ptePS e = false ∧ pteAt s entry = e) ∧
    walk s bootRoot (BitVec.ofNat 64 (4096 * page)) = .leaf 3 entry e

theorem asked_of {s : State} {page entry : Nat} {e : DWord} {r : HandReq}
    (h : decide (handReq? s 1 page = some r ∧ context? s 1 = some ctx0 ∧ pteOwn e = true ∧ ptePS e = false ∧ pteAt s entry = e) = true)
    (w : leafOf s (BitVec.ofNat 64 (4096 * page)) = some (3, entry, e)) : Asked s page entry e r := ⟨of_decide_eq_true h, leafOf_eq w⟩

theorem witness_HostSide :
    -- doorbell at the ring's size; the host link down and up; SQBASE while the ring is off
    (∃ (s : State) (w : Word), w.toNat + 1 = 2 ^ (s.dev.logN.toNat + 4)) ∧ linkUp boot 0 = false ∧ linkUp shared 0 = true ∧
    shared.dev.qEn = false ∧
    -- an access to the last populated byte, which no leaf maps; to the device's code page; to one that the device was just handed
    (mayReach shared 0 [2 ^ 30 - 1] = true ∧ holdsWalk shared [2 ^ 30 - 1] = false ∧ deviceLeaves shared [2 ^ 30 - 1] = []) ∧ NoPins shared ∧
    (mayReach shared 0 [0x104FFF] = true ∧ deviceLeaves shared [0x104FFF] = [(1, 0, 3)] ∧ awayReady shared 1 0 = some [leaf0]) ∧
    (let s := noteHanded shared [leaf0] .device
     handAllAway s 0 (deviceLeaves s [0x104FFF]) |>.isNone) = true ∧
    -- what a partner may not reach: no memory, the firmware's range, the host's page and a byte under no leaf by a peer
    (populated shared (2 ^ 40 - 1) = false ∧ inReserved roomFor 0x3FC0000000 = true ∧
      (∃ x ∈ leavesOver shared [0x104FFF], pteOwn x.2.2.2 = true ∧ ownerPort shared (pteFrame x.2.2.2) ≠ (2#8).toNat) ∧
      ∀ x ∈ leavesOver shared [2 ^ 30 - 1], leafMaps x.2.2.1 x.2.2.2 (2 ^ 30 - 1) = false) ∧
    -- hand-over to the device: none asked; waiting for an engine access, for the partner, for the budget
    handReq? shared 1 (pageKey shared 1 0x5000) = none ∧
    (∃ r, Asked (walking (asked 5) (lineOf leaf5)) 5 leaf5 hostLeaf r ∧ holdsWalk (walking (asked 5) (lineOf leaf5)) (entryAt leaf5) = true) ∧
    (∃ r, Asked (noteHanded (asked 5) [leaf5] .partner) 5 leaf5 hostLeaf r ∧
      (leaf5, Party.partner) ∈ (noteHanded (asked 5) [leaf5] .partner).handedOver) ∧
    (∃ r, Asked (metered (asked 6) 4) 6 leaf6 windowLeaf r ∧
      (askMove (metered (asked 6) 4) 1 r.page (handRegion (metered (asked 6) 4) r) windowLeaf [leaf6] .ok).2 = false) ∧
    -- a failed link, a page in device DRAM, a page of the window
    (∃ r, Asked (asked 5) 5 leaf5 hostLeaf r ∧ (∀ link ∈ [LinkResult.ok, .failed],
        (askMove (asked 5) 1 r.page (handRegion (asked 5) r) hostLeaf [leaf5] link).2 = true) ∧
      holdsWalk (asked 5) (entryAt leaf5) = false ∧ (leaf5, Party.partner) ∉ (asked 5).handedOver ∧ isDram (pteFrame hostLeaf) = true ∧
      r.cmds = [] ∧ linkUp (asked 5) (ownerPort (asked 5) (pteFrame hostLeaf)) = true) ∧ NoPins (asked 5) ∧
    (∃ n, handOver (asked 5) 1 0x5000 .failed = .failed n) ∧
    (∃ r, Asked (asked 6) 6 leaf6 windowLeaf r ∧ (askMove (asked 6) 1 r.page (handRegion (asked 6) r) windowLeaf [leaf6] .ok).2 = true ∧
      holdsWalk (asked 6) (entryAt leaf6) = false ∧ isDram (pteFrame windowLeaf) = false ∧
      (∀ l, l < 32 → lineOf (pteFrame windowLeaf) + l ∉ (asked 6).linePoison) ∧ poolFrame ctx0.pool 1 = some 0x120000 ∧
      (keyPair (asked 6) (pteKey windowLeaf)).isSome = true ∧ leaf6 + 8 ≤ 0x120000) ∧
    -- hand-over from the device: in place, to the host window, and while the device has not yet used the page
    (∃ c, context? shared 1 = some c ∧ walk shared c.root 0 = .leaf 3 leaf0 ownLeaf ∧ IdleSpans shared ∧
      (pteOwn ownLeaf = false ∧ ptePS ownLeaf = false ∧ pteAt shared leaf0 = ownLeaf ∧ (leaf0, Party.device) ∉ shared.handedOver ∧
        holdsWalk shared (entryAt leaf0) = false ∧ (∀ g ∈ shared.gangs, accStLines shared g.uid = []) ∧
        windowFrame shared 1 (2 ^ 48) = true ∧ isDram leaf0 = true) ∧
      IdleSpans (noteHanded shared [leaf0] .device) ∧ walk (noteHanded shared [leaf0] .device) c.root 0 = .leaf 3 leaf0 ownLeaf ∧
      (leaf0, Party.device) ∈ (noteHanded shared [leaf0] .device).handedOver) :=
  ⟨⟨State.reset, 15, by decide⟩, by decide +kernel, by decide +kernel, by decide +kernel, by decide +kernel, noPins_of (by decide +kernel),
    by decide +kernel, by decide +kernel, by decide +kernel, by decide +kernel,
    ⟨⟨1, 5, [3], [], [], []⟩, asked_of (by decide +kernel) (by decide +kernel), by decide +kernel⟩,
    ⟨⟨1, 5, [3], [], [], []⟩, asked_of (by decide +kernel) (by decide +kernel), by decide +kernel⟩,
    ⟨⟨1, 6, [3], [], [], []⟩, asked_of (by decide +kernel) (by decide +kernel), by decide +kernel⟩,
    ⟨⟨1, 5, [3], [], [], []⟩, asked_of (by decide +kernel) (by decide +kernel), by decide +kernel⟩, noPins_of (by decide +kernel),
    handed_failed (by decide +kernel),
    ⟨⟨1, 6, [3], [], [], []⟩, asked_of (by decide +kernel) (by decide +kernel), by decide +kernel⟩,
    ⟨ctx0, by decide +kernel, leafOf_eq (by decide +kernel), idle_of (by decide +kernel), by decide +kernel, idle_of (by decide +kernel),
      leafOf_eq (by decide +kernel), by decide +kernel⟩⟩

/-! ### Between instructions -/

def inSpan (f : Span → Span) : Gang := { g0 with span := { f g0.span with begun := true } }
def held : Gang → Gang := fun g => { g with sched := { g.sched with heldBy := some 9 } }

/-- One byte written in reach 0, two bytes in reaches 0 and 1, at the span's limit or under a freeze. -/
def wrote (l : List (Nat × Byte)) : Gang := inSpan fun s => { s with count := 65536, ver := l }
def stale : Gang := inSpan fun s => { s with count := 65536, reads := [⟨0x104100 / 128, 1, [(0, 4)]⟩] }
def staleState : State := { withGang0 stale with log := [⟨9, 5, 0, [0x104100], []⟩] }
def blocked : State :=
  { withGang0 (wrote [(0x104100, 1)]) with
    gangs := [wrote [(0x104100, 1)], { g0 with uid := 4, span := { g0.span with reads := [⟨0x104100 / 128, 1, []⟩] } }], favoured := some 4 }

def resOf : CommitRes → Nat
  | .done _ => 0
  | .failed _ => 1
  | .wait => 2
theorem res_done {r : CommitRes} (h : resOf r = 0) : ∃ t, r = .done t := by cases r <;> simp_all [resOf]
theorem res_failed {r : CommitRes} (h : resOf r = 1) : ∃ t, r = .failed t := by cases r <;> simp_all [resOf]
theorem res_wait {r : CommitRes} (h : resOf r = 2) : r = .wait := by cases r <;> simp_all [resOf]

/-- The whole premise of the commit clauses. -/
abbrev commitCond (s : State) (uid : Nat) (g : Gang) (code n : Nat) : Prop :=
  gang? s uid = some g ∧ commitDue g = some code ∧ (∀ h ∈ s.gangs, h.span.pins = [] ∧ h.span.moves = []) ∧
    ((g.span.ver.map fun p => lineOf p.1).eraseDups.map fun l => reachOf (lineBase l)).eraseDups.length = n ∧
    g.span.ver ≠ [] ∧ g.span.begun = true ∧ (g.span.ver.map (·.1)).Nodup ∧ accStLines s uid = [] ∧ staleReads s g.span = [] ∧
    staleSignature s g.span = false ∧ g.span.touched = [] ∧
    favourBlocks s (some uid) (g.span.ver.map (·.1)) [] = false ∧
    ∀ p ∈ g.span.ver, (keyPair s (pteKey ((getK (p.1 / 4096) g.span.leaves).getD 0))).isSome = true

def rotating (n : Nat) : Gang := modSlices g0 fun k sl => if k = 7 then { sl with stack := [.pending 12 5], back := n } else sl
def awaiting (n : Nat) : Gang := { g0 with alloc := 8, sched := { g0.sched with wait := .grow n 0, active := false } }
def growing (n : Nat) : State := modCore (withGang0 (awaiting n)) 0 fun c => { c with growers := [(3, n)] }

/-- An error waits for a gang that waits at a barrier, with a handler. -/
def erring : Gang :=
  { handled with trap := { handled.trap with queue := [⟨cPOISON, 0x31, none, none, none⟩] }, sched := { handled.sched with wait := .barrier 0 5 0 } }

theorem witness_BetweenInstructions :
    (∃ s uid g, gang? s uid = some g ∧ commitDue g = none) ∧ commitCond (withGang0 (wrote [(0x104100, 7)])) 3 (wrote [(0x104100, 7)]) 3 1 ∧
    commitCond (withGang0 (held (wrote [(0x104100, 7), (2 ^ 38 + 5, 8)]))) 3 (held (wrote [(0x104100, 7), (2 ^ 38 + 5, 8)])) 6 2 ∧
    -- the favoured span: someone's, nobody's, the second in the queue
    (∃ s : State, s.favoured.isSome = true) ∧ (∃ s : State, s.favoured = none ∧ s.favourQueue = [] ++ 3 :: [] ∧ gang? s 3 = some g0 ∧ g0.span.count = 0 ∧
      g0.ended = false ∧ cohortResident s g0 = true) ∧
    -- the limit: 65,535 and 65,536; a transaction; done, failed, waiting
    (∃ g, gang? (withGang0 g) 3 = some g ∧ g.ended = false ∧ g.span.count = 65535) ∧
    (∃ g, gang? (withGang0 g) 3 = some g ∧ g.ended = false ∧ g.span.count = 65536 ∧ g.span.tx.isSome = true) ∧
    (∃ t, gang? (withGang0 (wrote [(0x104100, 7)])) 3 = some (wrote [(0x104100, 7)]) ∧ commitSpan (withGang0 (wrote [(0x104100, 7)])) 3 3 = .done t) ∧
    (∃ t, gang? staleState 3 = some stale ∧ commitSpan staleState 3 3 = .failed t) ∧
    (gang? blocked 3 = some (wrote [(0x104100, 1)]) ∧ commitSpan blocked 3 3 = .wait) ∧
    -- rotation at 63 and 64 backward branches
    (∃ sl, (rotating 63).slices[7]? = some sl ∧ sl.back = 63) ∧
    (∃ sl p m r, (rotating 64).slices[7]? = some sl ∧ sl.back = 64 ∧ sl.ended = false ∧ sl.held = false ∧ sl.stack = .pending p m :: r ∧
      m &&& nibble (rotating 64).live 7 &&& nibble (rotating 64).launchMask 7 ≠ 0#4 ∧ gang? (withGang0 (rotating 64)) 3 = some (rotating 64)) ∧
    -- REGS.GROW granted with the last granule, and not
    (growersOf (growing 128) 0 0 = [(3, 128)] ∧ gang? (growing 128) 3 = some (awaiting 128) ∧ 128 / 8 - 8 / 8 ≤ freeGranules (growing 128) 0 0) ∧
    (∃ s : State, growersOf s 0 0 = [(3, 128)] ∧ freeGranules s 0 0 = 14) ∧
    -- errors: none, under NEST, delivered at a barrier
    (g0.trap.queue = [] ∧ gang? (withGang0 erring) 3 = some erring ∧ erring.trap.nest = false ∧ erring.ended = false ∧
      erring.sched.heldBy = none ∧ erring.trap.pending = none ∧ erring.trap.replay = none ∧ (held erring).sched.heldBy ≠ none ∧
      cohortResident (withGang0 erring) erring = true ∧ handlerUsable erring = true ∧ erring.freeze = false) ∧
    -- uncorrectable errors
    (0x104100 / 128 ∈ (wrote [(0x104100, 7)]).span.ver.map (fun p => lineOf p.1) ∧ (wrote [(0x104100, 7)]).span.pins = [] ∧
      (wrote [(0x104100, 7)]).span.tx = none ∧ (∃ c w, cohort? busy 2 = some c ∧ c.wgs[0]? = some w) ∧ 127 < g0.alloc) := by
  have e : ((cohort? busy 2).bind fun c => c.wgs[0]?).isSome = true := by decide +kernel
  refine ⟨⟨busy, 3, g0, by decide +kernel⟩,
    by decide +kernel, by decide +kernel,
    ⟨blocked, rfl⟩, ⟨{ busy with favourQueue := [3] }, by decide +kernel, rfl, by decide +kernel⟩,
    ⟨inSpan fun s => { s with count := 65535 }, by decide +kernel, by decide +kernel, rfl⟩,
    ⟨{ opened with span := { opened.span with count := 65536 } }, by decide +kernel, by decide +kernel, rfl, rfl⟩, ?_, ?_,
    ⟨by decide +kernel, res_wait (by decide +kernel)⟩, ?_, ?_, by decide +kernel,
    ⟨{ growing 128 with gangs := [awaiting 128, { g0 with uid := 4, gangid := 4, alloc := 8 * 49 }] }, by decide +kernel⟩,
    by decide +kernel,
    ⟨by decide +kernel, by decide +kernel, by decide +kernel, ?_, by decide +kernel⟩⟩
  · obtain ⟨t, ht⟩ := res_done (r := commitSpan (withGang0 (wrote [(0x104100, 7)])) 3 3) (by decide +kernel)
    exact ⟨t, by decide +kernel, ht⟩
  · obtain ⟨t, ht⟩ := res_failed (r := commitSpan staleState 3 3) (by decide +kernel)
    exact ⟨t, by decide +kernel, ht⟩
  · have h : ((rotating 63).slices[7]?.elim false fun sl => decide (sl.back = 63)) = true := by decide +kernel
    obtain ⟨sl, h1, h2⟩ := of_elim h
    exact ⟨sl, h1, of_decide_eq_true h2⟩
  · have h : ((rotating 64).slices[7]?.elim false fun sl => decide (sl.back = 64 ∧ sl.ended = false ∧ sl.held = false ∧
        sl.stack = [.pending 12 5])) = true := by decide +kernel
    obtain ⟨sl, h1, h2⟩ := of_elim h
    obtain ⟨back, ended, held, stack⟩ := of_decide_eq_true h2
    exact ⟨sl, 12, 5, [], h1, back, ended, held, stack, by decide +kernel⟩
  · cases hc : cohort? busy 2 with
    | none => simp [hc] at e
    | some c =>
      simp only [hc, Option.bind_some] at e
      obtain ⟨w, hw⟩ := Option.isSome_iff_exists.mp e
      exact ⟨c, w, rfl, hw⟩

/-! ### Scheduling -/

def timed (n : Nat) (f : Gang → Gang) : State := { withGang0 (f g0) with clock := n }
def aged (g : Gang) : Gang := { g with sched := { g.sched with active := false, readySince := 0 } }
def protectedTo (n : Nat) (g : Gang) : Gang := { g with sched := { g.sched with protUntil := some n } }
def measured (n d : Nat) (g : Gang) : Gang := { g with lease := { g.lease with winCount := n, winLines := List.range d } }
def lossy : State := modCore { beside g0 with clock := 4096 } 0 fun c => { c with lostCount := 257 }

/-- A request of the gang for the DRAM of reach 3 waits, its region metered. -/
def thirsty : State := { metered (timed 65536 id) 0 with waiting := [⟨.gang 3 0, bootRcb, 0, 3, 7, 1⟩] }

theorem witness_Scheduling :
    (thirsty.waiting.filter (fun x => x.reach == 3) = [⟨.gang 3 0, bootRcb, 0, 3, 7, 1⟩] ∧ stillAsks thirsty (.gang 3 0) = true ∧
      holders thirsty bootRcb (.budget 0) ≠ [] ∧ ∀ h ∈ holders thirsty bootRcb (.budget 0), h.budget.getD 0 0 ≠ 0 ∧
        0 < min (h.balance.getD 3 0) 0 + ((h.budget.getD 0 0 : Nat) : Int)) ∧
    (∃ s : State, s.periodStart.length = 4 ∧ s.clock = 65535 ∧ s.periodStart.getD 3 0 = 0) ∧
    (∃ s : State, s.periodStart.length = 4 ∧ s.clock = 65536 ∧ s.periodStart.getD 3 0 = 0) ∧
    (∃ s core, coreCycle s core = 65535 ∧ (coreOf s core).creditStart = 0) ∧ (∃ s core, coreCycle s core = 65536 ∧ (coreOf s core).creditStart = 0) ∧
    (∃ s core, coreCycle s core = 4095 ∧ (coreOf s core).lostStart = 0) ∧
    (∃ s core g l, coreCycle s core = 4096 ∧ (coreOf s core).lostStart = 0 ∧ 256 < (coreOf s core).lostCount ∧ 2 ≤ (activeOn s core).length ∧
      parkable s core 0 = g :: l ∧ gang? s g.uid = some g) ∧
    (∃ s g, gang? s 3 = some g ∧ cohortResident s g = true ∧ parkedReady g = true ∧ g.sched.aged = none ∧
      g.sched.readySince + 65536 < coreCycle s g.core) ∧
    (∃ s g, gang? s 3 = some g ∧ ¬(parkedReady g = true ∧ g.sched.readySince + 65536 < coreCycle s g.core)) ∧
    (∃ s g, gang? s 3 = some g ∧ g.sched.protUntil = some 9 ∧ coreCycle s g.core = 9) ∧
    (∃ s g, gang? s 3 = some g ∧ g.sched.protUntil = some 9 ∧ coreCycle s g.core = 8) ∧
    (∃ s g, gang? s 3 = some g ∧ g.lease.winCount = 4095) ∧ (∃ s g, gang? s 3 = some g ∧ g.lease.winCount = 4096 ∧ g.lease.winLines.length = 0) ∧
    (∃ s g, gang? s 3 = some g ∧ g.lease.winCount = 4096 ∧ g.lease.winLines.length = 13) ∧
    -- an event that is due
    (∃ s : State, dueEvent s = some (.meteringPeriod 0) ∧ ∃ t, exec (.meteringPeriod 0) s = .next t) ∧
    -- an admission decision with no lease changed and one parked gang beside an active one
    (∃ s : State, (s.gangs.map (·.uid)).Nodup ∧ (∀ g ∈ residents s 0, g.lease.changed = false ∧ g.sched.aged = none) ∧
      leaseSum (activeOn s 0) ≤ 1792 ∧ (scheduled s 0).any parkedReady = true) := by
  have p : ((parkable lossy 0 0).head?.elim false fun g => decide (gang? lossy g.uid = some g)) = true := by decide +kernel
  refine ⟨by decide +kernel, ⟨timed 65535 id, by decide +kernel, rfl, by decide +kernel⟩, ⟨timed 65536 id, by decide +kernel, rfl, by decide +kernel⟩,
    ⟨timed 65535 id, 0, by decide +kernel⟩, ⟨timed 65536 id, 0, by decide +kernel⟩,
    ⟨timed 4095 id, 0, by decide +kernel⟩, ?_,
    ⟨timed 65537 aged, aged g0, by decide +kernel⟩,
    ⟨timed 65536 aged, aged g0, by decide +kernel⟩,
    ⟨timed 9 (protectedTo 9), protectedTo 9 g0, by decide +kernel⟩,
    ⟨timed 8 (protectedTo 9), protectedTo 9 g0, by decide +kernel⟩,
    ⟨timed 9 (measured 4095 0), measured 4095 0 g0, by decide +kernel, rfl⟩, ⟨timed 9 (measured 4096 0), measured 4096 0 g0, by decide +kernel, rfl, rfl⟩,
    ⟨timed 9 (measured 4096 13), measured 4096 13 g0, by decide +kernel, rfl, by decide +kernel⟩,
    ⟨timed 65536 id, by decide +kernel, next_of (by decide +kernel)⟩,
    ⟨{ beside g0 with gangs := [g0, aged { g0 with uid := 4, gangid := 4 }] }, by decide +kernel⟩⟩
  obtain ⟨g, h1, h2⟩ := of_elim p
  obtain ⟨l, hl⟩ := List.head?_eq_some_iff.mp h1
  exact ⟨lossy, 0, g, l, by decide +kernel, by decide +kernel, by decide +kernel, by decide +kernel, hl, of_decide_eq_true h2⟩

/-! ### Copy engines -/

/-- A command of `bytes` in the request engine of core 0, with nothing done yet. -/
def copyCmd (bytes : List Byte) : CopyCmd :=
  { uid := 50, basin := 0, core := 0, slot := 3, cohort := 2, wg := 0, gang := 3, ctx := 1, region := bootRcb, addr := 0, bytes, next := 0,
    total := (parseCmd bytes).chunks, bar := none, flags := 0, sat := 0, csn := 0, kickFloor := 0, engine := some 1, pos := none, follow := .none }

def copyState (c : CopyCmd) : State :=
  { modCore shared 0 fun k => { k with records := [⟨3, 50, 2, 0, 1, 0, 0, 0⟩] } with copies := [c] }

def planFails : Except ChunkFail Plan → Option ChunkFail
  | .error f => some f
  | .ok _ => none
def planGot : Except ChunkFail Plan → Option Plan
  | .error _ => none
  | .ok p => some p
theorem planFails_eq {r : Except ChunkFail Plan} {f : ChunkFail} (h : planFails r = some f) : r = .error f := by cases r <;> simp_all [planFails]
theorem planGot_eq {r : Except ChunkFail Plan} {p : Plan} (h : planGot r = some p) : r = .ok p := by cases r <;> simp_all [planGot]

/-- What the clauses of COPY_CHUNK assume of a command that an engine runs. -/
def ChunkMet (P : State → CopyCmd → Cmd → Prop) : Prop := ∃ s u c, (copy? s u = some c ∧ c.next < c.total ∧ c.follow = .none ∧ c.engine.isSome = true) ∧
  (∀ h ∈ cohort? s c.cohort, h.refills = []) ∧ P s c (parseCmd c.bytes)

theorem chunk_of {P : State → CopyCmd → Cmd → Prop} (s : State) (c : CopyCmd)
    (h : decide ((copy? s 50 = some c ∧ c.next < c.total ∧ c.follow = .none ∧ c.engine.isSome = true) ∧
      ∀ h ∈ cohort? s c.cohort, h.refills = []) = true)
    (p : P s c (parseCmd c.bytes)) : ChunkMet P := ⟨s, 50, c, (of_decide_eq_true h).1, (of_decide_eq_true h).2, p⟩

/-- The plan's checks answer r and the plan's own fault is b. -/
def checksTo (r : SpanRes) (b : Option ChunkFail) (t : State) (d : CopyCmd) (k : Cmd) : Bool :=
  (planGot (planOf t d d.answer k)).elim false fun p => decide (planCheck t d k p.pieces = r ∧ p.bad = b)

/-- Commands: one byte from local to global memory; to page 5 that the host owns; past the gang's local memory; a bad stream. -/
def toGlobal : List Byte := wordsOf [(0, 0x10040000), (8, 0x100), (16, 0xFFF), (36, 0x00010001), (44, 0x0001000100010001)]
def toHost : List Byte := wordsOf [(0, 0x10040000), (8, 0x100), (16, 0x5000), (36, 0x00010001), (44, 0x0001000100010001)]
def pastEnd : List Byte := wordsOf [(0, 0x10060000), (8, 0x100), (16, 0x1000), (36, 0x00010001), (44, 0x0001000100010001)]
def badStream : List Byte := wordsOf [(0, 0x30060000), (8, 0x100), (16, 0x200), (44, 0x0001000100010001)]
def noStream : List Byte := wordsOf [(0, 0x30060000), (8, 0x1000), (16, 0x200), (44, 0x0001000100010001)]
def following : List Byte := wordsOf [(0, 0x10070000), (8, 0x100), (16, 0x200), (36, 0x00010001), (44, 0x0001000100010001), (56, 0x8010000000000000)]

def dueCmd (bytes : List Byte) : CopyCmd := { copyCmd bytes with follow := .due }
/-- The gang holds the whole grant. -/
def granted (c : CopyCmd) : State := { copyState c with gangs := [mat 0 0] }

/-- The command's bytes have been asked for; then the source lines of a plan. -/
def askedFor (s : State) (c : CopyCmd) (k : Cmd) (p : Plan) : State × Bool :=
  askReads (ask s (.command 50) c.region .copy 0 0 0).1 (.command 50) c.region (dedupLines (srcXlats s c k p.pieces))

/-- The plan passes its checks; `may` and `all` say whether its requests may go and have gone. -/
def asks (s : State) (c : CopyCmd) (k : Cmd) (may all : Bool) : Bool :=
  (planGot (planOf s c c.answer k)).elim false fun p => decide (planCheck s c k p.pieces = .ok ∧ p.bad = none) &&
    mayAsk s (.command 50) c.region .copy 0 0 == may && (!may || (askedFor s c k p).2 == all)

/-- The source bytes of the plan arrive, or are refused as f. -/
def arrives (s : State) (c : CopyCmd) (k : Cmd) (f : Option ChunkFail) : Bool :=
  (planGot (planOf s c c.answer k)).elim false fun p =>
    decide (planReads (askedFor s c k p).1 c c.answer k p.pieces = f)

/-- The global byte 0xFFF of a chunk's plan: its page's bits are set already, nobody's favour is hit. -/
def writesTo (s : State) (c : CopyCmd) (k : Cmd) : Bool :=
  (planGot (planOf s c c.answer k)).elim false fun p =>
    let t := (askedFor s c k p).1
    match byteCheck t c .store k.dloc 0xFFF with
    | .glob x => decide (setAD t x true = t) && (keyPair s (pteKey x.pte)).isSome && !favourBlocks t none [x.pa] []
    | _ => false

/-- Page 0's D bit is set. -/
def dirtyPage (s : State) : State := rawWrite s (bootRoot + 0x3000) (bytesOf 8 0x10407F)

/-- A command that waits for an engine, with one before it. -/
def unstarted (bytes : List Byte) : CopyCmd := { copyCmd bytes with engine := none }

/-- A command that reads a byte of the host window's page 7, over a link. -/
def fromWindow : List Byte := wordsOf [(0, 0x10020000), (8, 0x7000), (16, 0x100), (36, 0x00010001), (44, 0x0001000100010001)]
/-- Its link fails. -/
def refusedRead : CopyCmd := { copyCmd fromWindow with answer := .failed }
def windowed (c : CopyCmd) : State := leaf (copyState c) 7 (2 ^ 57 + 2 ^ 48) 0 0

theorem witness_CopySteps :
    copy? shared 50 = none ∧ (∃ s c, copy? s 50 = some c ∧ c.total ≤ c.next) ∧ (∃ s c, copy? s 50 = some c ∧ c.follow = .due) ∧
    (∃ s c, copy? s 50 = some c ∧ c.next < c.total ∧ ¬∀ h ∈ cohort? s c.cohort, h.refills = []) ∧
    -- starting: no engine is free, and one is
    (∃ s c, copy? s 50 = some c ∧ (c.next < c.total ∧ c.follow = .none ∧ c.engine = none) ∧ freeEngine s c.basin = none) ∧
    (∃ s c e, copy? s 50 = some c ∧ (c.next < c.total ∧ c.follow = .none ∧ c.engine = none) ∧ mayStart s c = true ∧ freeEngine s c.basin = some e) ∧
    -- a chunk: no plan, a failed check, a bad record, a page to fetch, requests that wait, a dead link, and done
    ChunkMet (fun s c k => ∃ f, planOf s c c.answer k = .error f) ∧
    ChunkMet (fun s c k => ∃ f, checksTo (.fail f) none s c k = true) ∧
    ChunkMet (fun s c k => ∃ f, checksTo .ok (some f) s c k = true) ∧
    ChunkMet (fun s c k => ∃ a, checksTo (.own a) none s c k = true) ∧
    ChunkMet (fun s c k => asks s c k false false = true) ∧
    ChunkMet (fun s c k => asks s c k true false = true) ∧
    ChunkMet (fun s c k => asks s c k true true = true ∧ ∃ f, arrives s c k (some f) = true) ∧
    ChunkMet (fun s c k => (asks s c k true true = true ∧ arrives s c k none = true ∧ writesTo s c k = true) ∧ NoPins s) ∧
    (∃ k : Cmd, 0 < k.win0 ∧ 0 < k.win1 ∧ 0 < k.win2 ∧ 0 < k.win3 ∧ isCopy k = true) ∧
    -- the follow-on: not due, refused, no gang, offered
    (∃ s c, copy? s 50 = some c ∧ c.follow ≠ .due) ∧
    (∃ s c g, copy? s 50 = some c ∧ c.follow = .due ∧ gang? s c.gang = some g ∧ g.ended = false ∧ followOk s g (parseCmd c.bytes) = false) ∧
    (∃ s c, copy? s 50 = some c ∧ c.follow = .due ∧ gang? s c.gang = none) ∧
    ∃ s c g, copy? s 50 = some c ∧ c.follow = .due ∧ gang? s c.gang = some g ∧ g.ended = false ∧ followOk s g (parseCmd c.bytes) = true :=
  ⟨by decide +kernel, ⟨copyState { copyCmd toGlobal with next := 1 }, { copyCmd toGlobal with next := 1 }, by decide +kernel⟩,
    ⟨copyState (dueCmd toGlobal), dueCmd toGlobal, by decide +kernel⟩,
    ⟨modCohort (copyState (copyCmd toGlobal)) 2 fun c => { c with refills := [(3, ⟨0, 0, 0, 0x5000⟩)] }, copyCmd toGlobal, by decide +kernel⟩,
    ⟨{ copyState (unstarted toGlobal) with
        copies := [{ copyCmd toGlobal with uid := 48, engine := some 0 }, { copyCmd toGlobal with uid := 49, engine := some 1 }, unstarted toGlobal] },
      unstarted toGlobal, by decide +kernel⟩,
    ⟨copyState (unstarted toGlobal), unstarted toGlobal, 0, by decide +kernel⟩,
    chunk_of (copyState (copyCmd noStream)) (copyCmd noStream) (by decide +kernel) ⟨(0x16, 0x1000), planFails_eq (by decide +kernel)⟩,
    chunk_of (copyState (copyCmd pastEnd)) (copyCmd pastEnd) (by decide +kernel) ⟨(0x16, 0x1000), by decide +kernel⟩,
    chunk_of (copyState (copyCmd badStream)) (copyCmd badStream) (by decide +kernel) ⟨(0x45, 0x100), by decide +kernel⟩,
    chunk_of (copyState (copyCmd toHost)) (copyCmd toHost) (by decide +kernel) ⟨0x5000, by decide +kernel⟩,
    chunk_of (metered (copyState (copyCmd toGlobal)) 2) (copyCmd toGlobal) (by decide +kernel) (by decide +kernel),
    chunk_of (metered (windowed (copyCmd fromWindow)) 4) (copyCmd fromWindow) (by decide +kernel) (by decide +kernel),
    chunk_of (windowed refusedRead) refusedRead (by decide +kernel) ⟨by decide +kernel, (0x22, 0x7000), by decide +kernel⟩,
    chunk_of (dirtyPage (copyState (copyCmd toGlobal))) (copyCmd toGlobal) (by decide +kernel) ⟨by decide +kernel, noPins_of (by decide +kernel)⟩,
    ⟨parseCmd toGlobal, by decide +kernel⟩,
    ⟨copyState (copyCmd toGlobal), copyCmd toGlobal, by decide +kernel⟩,
    ⟨copyState (dueCmd following), dueCmd following, g0, by decide +kernel⟩,
    ⟨{ copyState (dueCmd following) with gangs := [] }, dueCmd following, by decide +kernel⟩,
    ⟨granted (dueCmd following), dueCmd following, mat 0 0, by decide +kernel⟩⟩

/-! ### The raster unit -/

/-- A command of core 0 on a surface of 4 × 4 samples. -/
def rasterOn : RasterCmd :=
  { rasterCmd busy g0 (parseRaster (wordsOf [(0, 0x400), (8, 1), (16, 0x200), (40, 0x00040004)])) ⟨parseSurf 0x200 (wordsOf [(0, 0x1000), (16, 0x3000), (40, 0x0000004000030003), (48, 0x7A00)]), none, none⟩ with binned := false }

/-- A triangle over pixel (0, 0) to (7, 7), its fragment in block 0, launched, and ended with an output. -/
def halfSquare : Tri := (0, [0, 0, 2048, 0, 0, 2048], [0, 0, 0x3F800000, 0, 0, 0x3F800000], false)
def frag0 : Fragment := { tri := 0, block := 0, pixels := [(0, 0), (1, 0)], grid := none, out := none, floor := 0, blended := false }
def fragEnded : Fragment := { frag0 with grid := some 70, out := some [(0, 0, 77), (1, 0, 300)] }
def shaded : Fragment := { fragEnded with blended := true }

def unit (c : RasterCmd) (f : Raster → Raster) : State :=
  modCore (pages (withGang0 g0)) 0 fun k => { k with raster := f { k.raster with queue := [c] } }

def binnedCmd : RasterCmd := { rasterOn with binned := true, tris := [halfSquare] }
def shading (fs : List Fragment) (touched : List Nat) (loaded : Bool) : State :=
  unit binnedCmd fun r => { r with phase := .shading, frags := fs, touched, loaded, tileMem := [] }

def accBad {α : Type} : Acc α → Bool
  | .bad _ _ _ _ => true
  | _ => false
def accWait {α : Type} : Acc α → Bool
  | .wait _ => true
  | _ => false
theorem accBad_eq {α : Type} {r : Acc α} (h : accBad r = true) : ∃ t k i a, r = .bad t k i a := by cases r <;> simp_all [accBad]
theorem accWait_eq {α : Type} {r : Acc α} (h : accWait r = true) : ∃ t, r = .wait t := by cases r <;> simp_all [accWait]
theorem accOk_eq {α : Type} {r : Acc α} (h : (accOf r).isSome = true) : ∃ t v, r = .ok t v := by cases r <;> simp_all [accOf]

def triangles (s : State) (c : RasterCmd) : Acc (List (Option Tri)) := accList (readTri (unitView c) c) s (List.range c.nprim)

/-- The region's DRAM budget is used up. -/
def starved (s : State) : State := metered s 0

def doneRes : DoneRes → Nat
  | .done _ => 0
  | .wait _ => 1
  | .own => 2
  | .fault _ => 3
theorem doneRes_done {r : DoneRes} (h : doneRes r = 0) : ∃ t, r = .done t := by cases r <;> simp_all [doneRes]
theorem doneRes_wait {r : DoneRes} (h : doneRes r = 1) : ∃ t, r = .wait t := by cases r <;> simp_all [doneRes]

def pinsOf (s : State) : Acc (List Pin) := tilePins binnedCmd (coreOf s 0).raster s (dirtyBlocks binnedCmd [0]) []
def oneTouched : State := shading [shaded] [0] true

/-- A favoured span has read the slot that the tile writes. -/
def favouring : State :=
  { oneTouched with gangs := [g0, { g0 with uid := 4, span := { g0.span with reads := [⟨0x106000 / 128, 1, []⟩] } }], favoured := some 4 }

/-- The write-back of the tile of a unit: the pins hold, and whether its commit goes on. -/
def writesTile (s : State) (goes : Bool) : Bool :=
  (accOf (tilePins binnedCmd (coreOf s 0).raster s (dirtyBlocks binnedCmd [0]) [])).elim false fun p =>
    match writeTile p.1 binnedCmd p.2 with
    | some (u, _) => goes && decide (rasterHead u 0 = some binnedCmd)
    | none => !goes

theorem written_of {s : State} (h : writesTile s true = true) : ∃ t pins u csn,
    tilePins binnedCmd (coreOf s 0).raster s (dirtyBlocks binnedCmd [0]) [] = .ok t pins ∧ writeTile t binnedCmd pins = some (u, csn) ∧
      rasterHead u 0 = some binnedCmd := by
  obtain ⟨⟨t, pins⟩, a, b⟩ := of_elim h
  cases w : writeTile t binnedCmd pins with
  | none => simp [w] at b
  | some q => exact ⟨t, pins, q.1, q.2, accOf_eq a, w, by simpa [w] using b⟩

theorem held_of {s : State} (h : writesTile s false = true) : ∃ t pins,
    tilePins binnedCmd (coreOf s 0).raster s (dirtyBlocks binnedCmd [0]) [] = .ok t pins ∧ writeTile t binnedCmd pins = none := by
  obtain ⟨⟨t, pins⟩, a, b⟩ := of_elim h
  cases w : writeTile t binnedCmd pins with
  | none => exact ⟨t, pins, accOf_eq a, w⟩
  | some q => simp [w] at b

theorem witness_RasterSteps :
    (rasterHead busy 0 = none ∧ rasterHead (shading [] [] false) 0 = some binnedCmd ∧ binnedCmd.core = 0) ∧
    -- binning: read, out of reach, waiting for the budget
    ((∃ t ts, triangles (unit rasterOn id) rasterOn = .ok t ts ∧ rasterHead t 0 = some rasterOn) ∧ rasterOn.binned = false ∧
      (∃ t k i a, triangles (unit rasterOn id) { rasterOn with vtx := 0x9000 } = .bad t k i a) ∧
      ∃ t, triangles (starved (unit rasterOn id)) rasterOn = .wait t) ∧
    -- launch of the first fragment
    (binnedCmd.tris.find? (fun x => x.1 == frag0.tri) = some halfSquare ∧ binnedCmd.coarse ∈ [1, 2, 4] ∧
      (coreOf (shading [frag0] [] false) 0).raster.frags[0]? = some frag0 ∧ (coreOf (shading [frag0] [] false) 0).raster.phase = .shading) ∧
    -- blending: none due, the read-in done, failing and waiting, a blend
    (blendNext (shading [frag0] [] false) [frag0]).isNone = true ∧
    (∃ i f out floor, blendNext (shading [fragEnded] [] false) [fragEnded] = some (i, f, out, floor) ∧ f.pixels.Nodup ∧
      (out.map fun o => (o.1, o.2.1)).Nodup ∧ ∀ p ∈ f.pixels, p.1 / 4 = f.block % 65536 ∧ p.2 / 4 = f.block / 65536) ∧
    (∃ t m, readIn (shading [fragEnded] [] false) binnedCmd 0 = .ok t m ∧ (m.map (·.1)).Nodup) ∧
    (∃ t k n a, readIn busy binnedCmd 0 = .bad t k n a) ∧ (∃ t, readIn (starved (shading [fragEnded] [] false)) binnedCmd 0 = .wait t) ∧
    -- write-back: pinned and written, unreadable, waiting; the counter at DONE
    (∃ t pins u csn, pinsOf oneTouched = .ok t pins ∧ writeTile t binnedCmd pins = some (u, csn) ∧ rasterHead u 0 = some binnedCmd) ∧
    (∃ t pins, pinsOf favouring = .ok t pins ∧ writeTile t binnedCmd pins = none) ∧ accBad (pinsOf busy) = true ∧
    accWait (pinsOf (starved oneTouched)) = true ∧ (∀ f ∈ (coreOf oneTouched 0).raster.frags, f.blended = true) ∧
    (coreOf oneTouched 0).raster.ownerFail = [] ∧ (∃ t, completionAdd oneTouched (.unit 0) 1 bootRcb 0x500 0 none = .done t) ∧
    (∃ t, completionAdd (starved oneTouched) (.unit 0) 1 bootRcb 0x500 0 none = .wait t) ∧
    (∃ x : Nat, 0 < rasterOn.surf.d.width ∧ x = rasterOn.surf.d.width - 1) ∧
    -- two triangles on both sides of an edge through the centre of pixel (0, 0)
    (let t : Tri := (0, [-128, -128, 384, 384, 512, 0], [], decide (edge (-128) (-128) 384 384 512 0 < 0))
     let u : Tri := (1, [-128, -128, 384, 384, 0, 512], [], decide (edge (-128) (-128) 384 384 0 512 < 0))
     edge (-128) (-128) 384 384 128 128 = 0 ∧ (∀ i, i < 2 → 0 < (edges t 128 128).getD i 0) ∧ (∀ i, i < 2 → 0 < (edges u 128 128).getD i 0) ∧
       edge (-128) (-128) 384 384 512 0 < 0 ∧ 0 < edge (-128) (-128) 384 384 0 512) := by
  have a : ((accOf (triangles (unit rasterOn id) rasterOn)).elim false fun p => decide (rasterHead p.1 0 = some rasterOn)) = true := by decide +kernel
  have b : ((accOf (readIn (shading [fragEnded] [] false) binnedCmd 0)).elim false fun p => decide ((p.2.map (·.1)).Nodup)) = true := by decide +kernel
  have d : ((blendNext (shading [fragEnded] [] false) [fragEnded]).elim false fun q => decide (q.2.1.pixels.Nodup ∧
      (q.2.2.1.map fun o => (o.1, o.2.1)).Nodup ∧ ∀ p ∈ q.2.1.pixels, p.1 / 4 = q.2.1.block % 65536 ∧ p.2 / 4 = q.2.1.block / 65536)) = true := by
    decide +kernel
  obtain ⟨⟨i4, f4, o4, l4⟩, d1, d2⟩ := of_elim d
  obtain ⟨⟨t1, v1⟩, a1, a2⟩ := of_elim a
  obtain ⟨⟨t2, v2⟩, b1, b2⟩ := of_elim b
  exact ⟨by decide +kernel,
    ⟨⟨t1, v1, accOf_eq a1, of_decide_eq_true a2⟩, rfl, accBad_eq (by decide +kernel), accWait_eq (by decide +kernel)⟩,
    by decide +kernel, by decide +kernel,
    ⟨i4, f4, o4, l4, d1, of_decide_eq_true d2⟩,
    ⟨t2, v2, accOf_eq b1, of_decide_eq_true b2⟩, accBad_eq (by decide +kernel), accWait_eq (by decide +kernel),
    written_of (by decide +kernel), held_of (by decide +kernel), by decide +kernel, by decide +kernel, by decide +kernel, by decide +kernel,
    doneRes_done (by decide +kernel), doneRes_wait (by decide +kernel), ⟨3, by decide +kernel⟩, by decide⟩

/-! ### Cohorts -/

/-- The boot cohort changed, its gang as given. -/
def cohorted (g : Gang) (f : Cohort → Cohort) : State := modCohort (withGang0 g) 2 f
def endedGang : Gang := { g0 with ended := true }
def finishing (va : DWord) (n : Nat) : State := modGrid (pages (withGang0 endedGang)) 1 fun g => { g with doneVa := va, dims := (n, 1, 1) }
def cohort0 : Cohort := (cohort? busy 2).getD { uid := 0, grid := 0, ctx := 0, region := 0, number := 0, basin := 0, wgs := [], localBytes := 0, age := 0, resident := false, stop := none, savedRows := [], savedRecs := [], savedCmds := [], saveSlot := none }
def bootGr : Grid := (grid? busy 1).getD (bootGrid 0 0)
def addOf (s : State) (va : DWord) : DoneRes := completionAdd s (.grid 1) 1 bootRcb va 0 none

theorem doneRes_fault {r : DoneRes} (h : doneRes r = 3) : ∃ t, r = .fault t := by cases r <;> simp_all [doneRes]

/-- Page 4 marked and dirty already, under the cached class. -/
def donePage : State := rawWrite busy (bootRoot + 0x3020) (bytesOf 8 (0x10A000 + 0x17F))
def accessOf (s : State) (va : DWord) : Option Xlat :=
  match checkAccess s 1 bootRcb .store va with
  | .ok x => some x
  | _ => none
theorem accessOf_eq {s : State} {va : DWord} {x : Xlat} (h : accessOf s va = some x) : checkAccess s 1 bootRcb .store va = .ok x := by
  unfold accessOf at h; split at h <;> simp_all

/-- Work in the boot region's queue, and a second region whose head needs the 64 granules of each partition of core 0. -/
def waitlist (q : List Waiting) : State := modRegion (pages busy) bootRcb fun r => { r with queue := q }
def rival (r : Option Nat) (clock : Nat) : State :=
  { busy with
    regions := busy.regions ++ [{ bootRegion 1 with pa := 0x110000, prio := 7, coreMask := 1, queue := [.fresh 70 0], reserved := r }],
    grids := busy.grids ++ [{ bootGrid 70 1 with region := 0x110000, wgdim := (512, 1, 1) }],
    contexts := busy.contexts.map fun c => { c with saveSlots := 1 }, clock }

/-- A gang waits for registers that another cohort's gang holds. -/
def jammed (stop : Option Stop) : State :=
  let s := growing 512
  { s with gangs := [awaiting 512, { g0 with uid := 4, cohort := 8, alloc := 128, sched := { g0.sched with wait := .barrier 0 5 0 } }],
           cohorts := s.cohorts ++ [{ cohort0 with uid := 8, age := 5, stop }], contexts := s.contexts.map fun c => { c with saveSlots := 1 } }

/-- Core 0 at a temperature, its cohort there for longer than the residency; save slots, and a request made already. -/
def heated (temp slots : Nat) (stop : Option Stop) : State :=
  let s := modCore (cohorted g0 fun c => { c with stop }) 0 fun k => { k with temp }
  { s with clock := 2 ^ 24, contexts := s.contexts.map fun c => { c with saveSlots := slots } }

/-- A core that the cohort occupies is above its threshold, for longer than the residency. -/
abbrev HotCore (s : State) (c : Cohort) : Prop :=
  ∃ w ∈ c.wgs, (coreOf s w.core).hot.getD s.dev.hotThreshold < (coreOf s w.core).temp ∧ Config.residency < residencyOn s w

def stopping (k : Stop) : State := cohorted g0 fun c => { c with stop := some k, saveSlot := some 0 }
def saved (k : Option Stop) (q : List Waiting) : State :=
  modRegion (cohorted g0 fun c => { c with resident := false, stop := k, saveSlot := some 0 }) bootRcb fun r => { r with queue := q }

/-- Every basin is hot. -/
def noneCool : State := { saved (some .migrate) [] with dev := { busy.dev with hotThreshold := 0 } }

/-- A restored cohort with one recorded fill left, from page 1 or from page 5, which the host owns. -/
def fillOf (kind : Nat) (va : DWord) : FillRec := ⟨kind, 0, 0, va⟩
def refilling (f : FillRec) : State := cohorted (mat 0 0) fun c => { c with refills := [(3, f)] }
def hostPage (s : State) : State := rawWrite s (bootRoot + 0x3028) (bytesOf 8 (0x104000 + 0x5F + 2 ^ 57))

def laneOk (s : State) (g : Gang) (va : DWord) : Option Xlat :=
  match laneCheck s g .load 1 va with
  | .ok x => some x
  | _ => none

/-- The fill's lines are readable, their pages marked already. -/
abbrev Fillable (s : State) (g : Gang) (f : FillRec) : Prop :=
  let asked := askLines s (.restore 2) bootRcb (refillXlats s g f)
  refillOwn s g f = none ∧ asked.2 = true ∧
    ∀ q ∈ linesOf f.va (if f.kind = 0 then 144 else 4), ∃ x ∈ laneOk asked.1 g q.1, setAD asked.1 x false = asked.1

/-- The region that places next, with its head w on a basin. -/
abbrev NextHead (s : State) (w : Waiting) (b : Nat) (P : State → Nat → Prop) : Prop :=
  ∃ p ∈ nextRegion s, P p.1 p.2 ∧ ∃ r ∈ region? p.1 p.2, findBasin p.1 r = some b ∧ headOf r = some w ∧ r.queue = [w] ∧ r.suspended = false

theorem witness_Cohorts_end :
    -- none, not done, one of several, the last with and without a DONE, which waits and fails
    (cohort? busy 9 = none ∧ cohort? busy 2 = some cohort0 ∧ cohortDone busy cohort0 = false ∧ cohort0.resident = true) ∧
    (∀ n ∈ [1, 2], ∃ c ∈ cohort? (finishing 0 n) 2, c.resident = true ∧ cohortDone (finishing 0 n) c = true ∧
      ∃ gr ∈ grid? (finishing 0 n) c.grid, gridCohorts gr = n ∧ gr.doneVa = 0 ∧ gr.retired = 0) ∧
    (grid? (finishing 0x500 1) 1).map (·.doneVa) = some 0x500 ∧ (∃ t, addOf (finishing 0x500 1) 0x500 = .done t) ∧
    (∃ t, addOf (starved (finishing 0x500 1)) 0x500 = .wait t) ∧ (∃ t, addOf (finishing 0x9000 1) 0x9000 = .fault t) ∧
    ∃ x, checkAccess donePage 1 bootRcb .store 0x4FF8 = .ok x ∧ (PlainRead donePage x ∧ NoPins donePage) ∧
      (setAD donePage x true = donePage ∧ (askLine donePage (.grid 1) bootRcb x).2 = true ∧
        favourBlocks donePage none ((List.range 8).map (x.pa + ·)) [] = false ∧ isDram x.pa = true ∧ (keyPair donePage (pteKey x.pte)).isSome = true) := by
  have b : ∃ x ∈ accessOf donePage 0x4FF8, (setAD donePage x false = donePage ∧ pteCL x.pte ≠ 0 ∧ x.poison = false ∧
      lineOf x.pa ∉ donePage.linePoison) ∧ (setAD donePage x true = donePage ∧ (askLine donePage (.grid 1) bootRcb x).2 = true ∧
        favourBlocks donePage none ((List.range 8).map (x.pa + ·)) [] = false ∧ isDram x.pa = true ∧
        (keyPair donePage (pteKey x.pte)).isSome = true) := by decide +kernel
  obtain ⟨x, found, plain, rest⟩ := b
  exact ⟨by decide +kernel, by decide +kernel, by decide +kernel, doneRes_done (by decide +kernel), doneRes_wait (by decide +kernel),
    doneRes_fault (by decide +kernel), x, accessOf_eq found, ⟨plainRead_of (decide_eq_true plain), noPins_of (by decide +kernel)⟩, rest⟩

/-- A reservation, a pre-emption, nothing, the first cohort of a grid. -/
theorem witness_Cohorts_placement :
    dueReservation (rival none 0) = some (0x110000, 0) ∧
    (dueReservation (rival (some 0) (2 ^ 24)) = none ∧ duePreemption (rival (some 0) (2 ^ 24)) = some (0x110000, 0, [cohort0]) ∧
      ((rival (some 0) (2 ^ 24)).cohorts.map (·.uid)).Nodup) ∧
    (dueReservation busy = none ∧ duePreemption busy = none ∧ nextRegion busy = none) ∧
    dueReservation (waitlist [.fresh 1 0]) = none ∧ duePreemption (waitlist [.fresh 1 0]) = none ∧
      NextHead (waitlist [.fresh 1 0]) (.fresh 1 0) 0 fun t pa => grid? t 1 = some bootGr ∧ (fitCores t t pa (headDemand t (.fresh 1 0)) 0).isSome = true := by
  decide +kernel

/-- A gang can issue, nobody waits, a cohort to stop, one stopped already. -/
theorem witness_Cohorts_growth :
    (∃ g ∈ residents busy 0, canIssue g = true) ∧ stalledGrower busy 0 = none ∧
    ∀ k ∈ [none, some Stop.requeue], (∀ h ∈ residents (jammed k) 0, canIssue h = false) ∧
      stalledGrower (jammed k) 0 = some (awaiting 512, []) ∧ (∀ d ∈ (jammed k).cohorts, d.uid ≠ 0) ∧
      cohort? (jammed k) 8 = some { cohort0 with uid := 8, age := 5, stop := k } ∧
      ((cohortsOn (jammed k) 0).filter fun d => d.uid != 2 && removable (jammed k) d) = [{ cohort0 with uid := 8, age := 5, stop := k }] := by
  decide +kernel

/-- At the threshold, asked already, and above it with and without a slot. -/
theorem witness_Cohorts_heat :
    (∀ p ∈ [(100, none), (101, some Stop.migrate)], ∃ c ∈ cohort? (heated p.1 1 p.2) 2, ¬(HotCore (heated p.1 1 p.2) c ∧ c.stop = none)) ∧
    ∀ n ∈ [0, 1], ∃ c ∈ cohort? (heated 101 n none) 2, c.resident = true ∧ c.stop = none ∧ elapsed (heated 101 n none) c = true ∧
      c.recheck = none ∧ HotCore (heated 101 n none) c ∧ coolerRoom (heated 101 n none) c = true ∧
      (freeSaveSlot (heated 101 n none) c.ctx).isSome = decide (n = 1) := by
  decide +kernel

/-- Not asked, the commit waits, and done for both requests. -/
theorem witness_Cohorts_preemption :
    cohort0.stop = none ∧ (stopSpans blocked 2).2 = false ∧ ∀ k ∈ [Stop.requeue, Stop.migrate], ∃ c ∈ cohort? (stopping k) 2,
      c.resident = true ∧ c.stop = some k ∧ cohortQuiet (stopping k) 2 = true ∧ (stopSpans (stopping k) 2).2 = true ∧ (cohort? (stopSpans (stopping k) 2).1 2).isSome = true := by
  decide +kernel

/-- Resident with nothing left; refilling from a page to fetch, with the budget spent, and readable; migrating to its basin and to
none; at the head of its queue and not. -/
theorem witness_Cohorts_restore :
    (cohort? busy 2).any (fun c => c.refills.isEmpty) = true ∧
    refillOwn (hostPage (refilling (fillOf 2 0x5000))) (mat 0 0) (fillOf 2 0x5000) = some 0x5000 ∧
    (refillOwn (starved (refilling (fillOf 2 0x100))) (mat 0 0) (fillOf 2 0x100) = none ∧
      (askLines (starved (refilling (fillOf 2 0x100))) (.restore 2) bootRcb
        (refillXlats (starved (refilling (fillOf 2 0x100))) (mat 0 0) (fillOf 2 0x100))).2 = false) ∧
    (∀ k ∈ [0, 2], Fillable (refilling (fillOf k 0x100)) (mat 0 0) (fillOf k 0x100)) ∧
    (∃ c ∈ cohort? (saved (some .migrate) []) 2, c.resident = false ∧ c.stop = some .migrate ∧
      migrationBasin (saved (some .migrate) []) c = some 0) ∧
    (∃ c ∈ cohort? noneCool 2, c.resident = false ∧ c.stop = some .migrate ∧ migrationBasin noneCool c = none) ∧
    nextRegion (saved none []) = none ∧
    ∃ c ∈ cohort? (saved none [.saved 2]) 2, c.resident = false ∧ c.stop = none ∧
      NextHead (saved none [.saved 2]) (.saved 2) 0 fun _ _ => True := by
  decide +kernel

/-! ### Decoding: one word of every row, its fields laid out as the encoding tables of R187 to R193 and R201 give them -/

/-- Every word pair reads as the instruction beside it. -/
noncomputable def reads (l : List (Word × Word × Instr)) : Bool :=
  l.all fun p => match decode 0 p.1 p.2.1 with
    | .ok i => decide (i = p.2.2)
    | .error _ => false

theorem test_decode_integer : reads [
  (0b0_100000_0000_0000000_0000000_0000000, 0, .nop),
  (0b0_000001_0000_1100100_1000100_0011100, 0, .iadd 100 68 28),
  (0b0_000001_0001_1100100_1000100_0011100, 0, .isub 100 68 28),
  (0b0_000001_0010_1100100_1000100_0011100, 0, .imul 100 68 28),
  (0b0_000001_0011_1100100_1000100_0011100, 0, .imulhi 100 68 28),
  (0b0_000001_0100_1100100_1000100_0011100, 0, .imulhiu 100 68 28),
  (0b0_000001_0101_1100100_1000100_0011100, 0, .imin 100 68 28),
  (0b0_000001_0110_1100100_1000100_0011100, 0, .imax 100 68 28),
  (0b0_000001_0111_1100100_1000100_0011100, 0, .iminu 100 68 28),
  (0b0_000001_1000_1100100_1000100_0011100, 0, .imaxu 100 68 28),
  (0b0_000001_1001_1100100_1000100_0000000, 0, .iabs 100 68),
  (0b0_000001_1010_1100100_1000100_0011100, 0, .iadds 100 68 28),
  (0b0_000001_1011_1100100_1000100_0011100, 0, .isubs 100 68 28),
  (0b0_000001_1100_1100100_1000100_0011100, 0, .idivu 100 68 28),
  (0b0_000001_1101_1100100_1000100_0011100, 0, .iremu 100 68 28),
  (0b0_000001_1110_1100100_1000100_0011100, 0, .imad 100 68 28),
  (0b0_000001_1111_1100100_1000100_0011100, 0b00000001_000_0000000_00_000000000000, .idiv 100 68 28),
  (0b0_000001_1111_1100100_1000100_0011100, 0b00000010_000_0000000_00_000000000000, .irem 100 68 28),
  (0b0_000001_1111_1100100_1000100_0011100, 0b00000011_000_0000000_00_000000000000, .iaddsu 100 68 28),
  (0b0_000001_1111_1100100_1000100_0011100, 0b00000100_000_0000000_00_000000000000, .isubsu 100 68 28)] = true := by decide +kernel

theorem test_decode_bits : reads [
  (0b0_000010_0000_1100100_1000100_0011100, 0, .and 100 68 28),
  (0b0_000010_0001_1100100_1000100_0011100, 0, .or 100 68 28),
  (0b0_000010_0010_1100100_1000100_0011100, 0, .xor 100 68 28),
  (0b0_000010_0011_1100100_1000100_0011100, 0, .andn 100 68 28),
  (0b0_000010_0100_1100100_1000100_0000000, 0, .not 100 68),
  (0b0_000010_0101_1100100_1000100_0011100, 0, .shl 100 68 28),
  (0b0_000010_0110_1100100_1000100_0011100, 0, .shr 100 68 28),
  (0b0_000010_0111_1100100_1000100_0011100, 0, .sar 100 68 28),
  (0b0_000010_1000_1100100_1000100_0011100, 0, .rol 100 68 28),
  (0b0_000010_1001_1100100_1000100_0000000, 0, .popc 100 68),
  (0b0_000010_1010_1100100_1000100_0000000, 0, .clz 100 68),
  (0b0_000010_1011_1100100_1000100_0000000, 0, .brev 100 68),
  (0b0_000010_1100_1100100_1000100_0011100, 0, .bfe 100 68 28),
  (0b0_000010_1101_1100100_1000100_0011100, 0, .bfes 100 68 28),
  (0b0_000010_1110_1100100_1000100_0011100, 0, .bfi 100 68 28),
  (0b0_000011_0000_1100100_1000100_0011100, 0, .iadd64 100 68 28),
  (0b0_000011_0001_1100100_1000100_0011100, 0, .isub64 100 68 28),
  (0b0_000011_0010_1100100_1000100_0011100, 0, .imul64 100 68 28),
  (0b0_000011_0011_1100100_1000100_0011100, 0, .shl64 100 68 28),
  (0b0_000011_0100_1100100_1000100_0011100, 0, .shr64 100 68 28),
  (0b0_000011_0101_1100100_1000100_0011100, 0, .sar64 100 68 28),
  (0b0_000011_0110_1100100_1000100_0011100, 0, .imin64 100 68 28),
  (0b0_000011_0111_1100100_1000100_0011100, 0, .imax64 100 68 28),
  (0b0_000011_1000_1100100_1000100_0011100, 0, .iminu64 100 68 28),
  (0b0_000011_1001_1100100_1000100_0011100, 0, .imaxu64 100 68 28),
  (0b0_000011_1010_1100100_1000100_0011100, 0, .imulw 100 68 28),
  (0b0_000011_1011_1100100_1000100_0011100, 0, .imulwu 100 68 28)] = true := by decide +kernel

theorem test_decode_compare : reads [
  (0b0_000100_0000_1100100_1000100_0011100, 0, .cmpeq 100 68 28),
  (0b0_000100_0001_1100100_1000100_0011100, 0, .cmpne 100 68 28),
  (0b0_000100_0010_1100100_1000100_0011100, 0, .cmplt 100 68 28),
  (0b0_000100_0011_1100100_1000100_0011100, 0, .cmple 100 68 28),
  (0b0_000100_0100_1100100_1000100_0011100, 0, .cmpltu 100 68 28),
  (0b0_000100_0101_1100100_1000100_0011100, 0, .cmpleu 100 68 28),
  (0b0_000100_0110_1100100_1000100_0011100, 0, .cmpeq64 100 68 28),
  (0b0_000100_0111_1100100_1000100_0011100, 0, .cmplt64 100 68 28),
  (0b0_000100_1000_1100100_1000100_0011100, 0, .cmpltu64 100 68 28),
  (0b0_000100_1001_1100100_1000100_0011100, 0, .cmple64 100 68 28),
  (0b0_000100_1010_1100100_1000100_0011100, 0, .cmpleu64 100 68 28),
  (0b0_000101_0000_1100100_1000100_0011100, 0, .fcmpeq 100 68 28),
  (0b0_000101_0001_1100100_1000100_0011100, 0, .fcmpne 100 68 28),
  (0b0_000101_0010_1100100_1000100_0011100, 0, .fcmplt 100 68 28),
  (0b0_000101_0011_1100100_1000100_0011100, 0, .fcmple 100 68 28),
  (0b0_000101_0100_1100100_1000100_0011100, 0, .fcmpun 100 68 28),
  (0b0_000101_1000_1100100_1000100_0011100, 0, .dcmpeq 100 68 28),
  (0b0_000101_1001_1100100_1000100_0011100, 0, .dcmpne 100 68 28),
  (0b0_000101_1010_1100100_1000100_0011100, 0, .dcmplt 100 68 28),
  (0b0_000101_1011_1100100_1000100_0011100, 0, .dcmple 100 68 28),
  (0b0_000101_1100_1100100_1000100_0011100, 0, .dcmpun 100 68 28)] = true := by decide +kernel

theorem test_decode_move_and_collective : reads [
  (0b0_000110_0000_1100100_1000100_0000000, 0, .mov 100 68),
  (0b0_000110_0001_1100100_1000100_0011100, 0, .sel 100 68 28),
  (0b0_000110_0010_1100100_1000100_0000000, 0, .rdind 100 68),
  (0b0_000110_0011_0000000_1000100_0011100, 0, .wrind 68 28),
  (0b0_000110_0100_1100100_1000100_0000000, 0, .mov64 100 68),
  (0b0_000111_0000_1100100_1000100_0011100, 0, .shflIdx 100 68 28),
  (0b0_000111_0001_1100100_1000100_0011100, 0, .shflUp 100 68 28),
  (0b0_000111_0010_1100100_1000100_0011100, 0, .shflDown 100 68 28),
  (0b0_000111_0011_1100100_1000100_0011100, 0, .shflXor 100 68 28),
  (0b0_000111_0100_1100100_1000100_0000000, 0, .voteBallot 100 68),
  (0b0_000111_0101_1100100_1000100_0000000, 0, .voteAny 100 68),
  (0b0_000111_0110_1100100_1000100_0000000, 0, .voteAll 100 68),
  (0b0_000111_0111_1100100_0000000_0000000, 0, .elect 100),
  (0b0_000111_1000_1100100_1000100_0000000, 0, .redadd 100 68),
  (0b0_000111_1001_1100100_1000100_0000000, 0, .redmin 100 68),
  (0b0_000111_1010_1100100_1000100_0000000, 0, .redmax 100 68),
  (0b0_000111_1011_1100100_1000100_0000000, 0, .redminu 100 68),
  (0b0_000111_1100_1100100_1000100_0000000, 0, .redmaxu 100 68),
  (0b0_000111_1101_1100100_1000100_0000000, 0, .redand 100 68),
  (0b0_000111_1110_1100100_1000100_0000000, 0, .redor 100 68),
  (0b0_000111_1111_1100100_1000100_0000000, 0b00000001_000_0000000_00_000000000000, .redxor 100 68),
  (0b0_000111_1111_1100100_1000100_0000000, 0b00000101_000_0000000_00_000000000000, .scanadd 100 68),
  (0b0_000111_1111_1100100_1000100_0000000, 0b00000010_101_0000000_00_000000000000, .fredadd 100 68 .rz),
  (0b0_000111_1111_1100100_1000100_0000000, 0b00000011_101_0000000_00_000000000000, .fredmin 100 68 .rz),
  (0b0_000111_1111_1100100_1000100_0000000, 0b00000100_101_0000000_00_000000000000, .fredmax 100 68 .rz)] = true := by decide +kernel

theorem test_decode_immediate : reads [
  (0b0_001000_1100100_1000100_10110011101, 0, .iaddi 100 68 0b10110011101),
  (0b0_001001_1100100_1000100_10110011101, 0, .andi 100 68 0b10110011101),
  (0b0_001010_1100100_1000100_10110011101, 0, .ori 100 68 0b10110011101),
  (0b0_001011_1100100_1000100_10110011101, 0, .xori 100 68 0b10110011101),
  (0b0_001100_1100100_1000100_00000010110, 0, .shli 100 68 0b10110),
  (0b0_001101_1100100_1000100_10110011101, 0, .cmpeqi 100 68 0b10110011101),
  (0b0_001110_1100100_1000100_10110011101, 0, .imuli 100 68 0b10110011101),
  (0b0_010000_1100100_101100111000111101, 0, .movi 100 0b101100111000111101),
  (0b0_010001_1100100_101100111000111101, 0, .movh 100 0b101100111000111101),
  (0b0_010010_1100100_101100111000111101, 0, .movpc 100 0b101100111000111101)] = true := by decide +kernel

theorem test_decode_float : reads [
  (0b0_010100_0000_1100100_1000100_0011100, 0, .fadd 100 68 28),
  (0b0_010100_0001_1100100_1000100_0011100, 0, .fsub 100 68 28),
  (0b0_010100_0010_1100100_1000100_0011100, 0, .fmul 100 68 28),
  (0b0_010100_0011_1100100_1000100_0011100, 0, .ffma 100 68 28),
  (0b0_010100_0100_1100100_1000100_0011100, 0, .fnma 100 68 28),
  (0b0_010100_0101_1100100_1000100_0011100, 0, .fdiv 100 68 28),
  (0b0_010100_0110_1100100_1000100_0000000, 0, .fsqrt 100 68),
  (0b0_010100_0111_1100100_1000100_0011100, 0, .fmin 100 68 28),
  (0b0_010100_1000_1100100_1000100_0011100, 0, .fmax 100 68 28),
  (0b0_010100_1001_1100100_1000100_0000000, 0, .fabs 100 68),
  (0b0_010100_1010_1100100_1000100_0000000, 0, .fneg 100 68),
  (0b0_010100_1011_1100100_1000100_0000000, 0, .frnd 100 68),
  (0b0_010100_1100_1100100_1000100_0000000, 0, .fclass 100 68),
  (0b0_010100_1101_1100100_1000100_0011100, 0, .fscale 100 68 28),
  (0b0_010100_1110_1100100_1000100_0011100, 0, .fcopysign 100 68 28),
  (0b0_010100_1111_1100100_1000100_0011100, 0b00010000_000_0000000_00_000000000000, .fminnum 100 68 28),
  (0b0_010100_1111_1100100_1000100_0011100, 0b00010001_000_0000000_00_000000000000, .fmaxnum 100 68 28),
  (0b0_010101_0000_1100100_1000100_0011100, 0, .dadd 100 68 28),
  (0b0_010101_0001_1100100_1000100_0011100, 0, .dsub 100 68 28),
  (0b0_010101_0010_1100100_1000100_0011100, 0, .dmul 100 68 28),
  (0b0_010101_0011_1100100_1000100_0011100, 0, .dfma 100 68 28),
  (0b0_010101_0100_1100100_1000100_0011100, 0, .dnma 100 68 28),
  (0b0_010101_0101_1100100_1000100_0011100, 0, .ddiv 100 68 28),
  (0b0_010101_0110_1100100_1000100_0000000, 0, .dsqrt 100 68),
  (0b0_010101_0111_1100100_1000100_0011100, 0, .dmin 100 68 28),
  (0b0_010101_1000_1100100_1000100_0011100, 0, .dmax 100 68 28),
  (0b0_010101_1001_1100100_1000100_0000000, 0, .dabs 100 68),
  (0b0_010101_1010_1100100_1000100_0000000, 0, .dneg 100 68),
  (0b0_010101_1011_1100100_1000100_0000000, 0, .drnd 100 68),
  (0b0_010101_1100_1100100_1000100_0000000, 0, .dclass 100 68),
  (0b0_010101_1101_1100100_1000100_0011100, 0, .dscale 100 68 28),
  (0b0_010101_1110_1100100_1000100_0011100, 0, .dcopysign 100 68 28),
  (0b0_010101_1111_1100100_1000100_0011100, 0b00010000_000_0000000_00_000000000000, .dminnum 100 68 28),
  (0b0_010101_1111_1100100_1000100_0011100, 0b00010001_000_0000000_00_000000000000, .dmaxnum 100 68 28),
  (0b0_010110_0000_1100100_1000100_0011100, 0, .hadd2 100 68 28),
  (0b0_010110_0001_1100100_1000100_0011100, 0, .hsub2 100 68 28),
  (0b0_010110_0010_1100100_1000100_0011100, 0, .hmul2 100 68 28),
  (0b0_010110_0011_1100100_1000100_0011100, 0, .hfma2 100 68 28),
  (0b0_010110_0100_1100100_1000100_0011100, 0, .hmin2 100 68 28),
  (0b0_010110_0101_1100100_1000100_0011100, 0, .hmax2 100 68 28),
  (0b0_010110_1000_1100100_1000100_0011100, 0, .badd2 100 68 28),
  (0b0_010110_1001_1100100_1000100_0011100, 0, .bsub2 100 68 28),
  (0b0_010110_1010_1100100_1000100_0011100, 0, .bmul2 100 68 28),
  (0b0_010110_1011_1100100_1000100_0011100, 0, .bfma2 100 68 28),
  (0b0_010110_1100_1100100_1000100_0011100, 0, .bmin2 100 68 28),
  (0b0_010110_1101_1100100_1000100_0011100, 0, .bmax2 100 68 28),
  (0b0_010110_1111_1100100_1000100_0011100, 0b00010000_110_0000000_00_000000000000, .hdot2f 100 68 28 .rp),
  (0b0_010110_1111_1100100_1000100_0011100, 0b00010001_110_0000000_00_000000000000, .bdot2f 100 68 28 .rp)] = true := by decide +kernel

theorem test_decode_special : reads [
  (0b0_010111_0000_1100100_1000100_0000000, 0, .frcp 100 68),
  (0b0_010111_0001_1100100_1000100_0000000, 0, .frsqrt 100 68),
  (0b0_010111_0010_1100100_1000100_0000000, 0, .fexp2 100 68),
  (0b0_010111_0011_1100100_1000100_0000000, 0, .flog2 100 68),
  (0b0_010111_0100_1100100_1000100_0000000, 0, .fsinpi 100 68),
  (0b0_010111_0101_1100100_1000100_0000000, 0, .fcospi 100 68),
  (0b0_010111_1000_1100100_1000100_0000000, 0, .frcpA 100 68),
  (0b0_010111_1001_1100100_1000100_0000000, 0, .frsqrtA 100 68),
  (0b0_010111_1010_1100100_1000100_0000000, 0, .fexp2A 100 68),
  (0b0_010111_1011_1100100_1000100_0000000, 0, .flog2A 100 68),
  (0b0_010111_1100_1100100_1000100_0000000, 0, .fsinA 100 68),
  (0b0_010111_1101_1100100_1000100_0000000, 0, .fcosA 100 68),
  (0b0_010111_1110_1100100_1000100_0000000, 0, .ftanhA 100 68)] = true := by decide +kernel

theorem test_decode_convert : reads [
  (0b0_011000_0000_1100100_1000100_0000000, 0, .f2d 100 68),
  (0b0_011000_0001_1100100_1000100_0000000, 0, .d2f 100 68),
  (0b0_011000_0010_1100100_1000100_0011100, 0, .f2h 100 68 28),
  (0b0_011000_0011_1100100_1000100_0000000, 0, .h2f 100 68),
  (0b0_011000_0100_1100100_1000100_0011100, 0, .f2bf 100 68 28),
  (0b0_011000_0101_1100100_1000100_0000000, 0, .bf2f 100 68),
  (0b0_011000_0110_1100100_1000100_0011100, 0, .f2e4 100 68 28),
  (0b0_011000_0111_1100100_1000100_0011100, 0, .f2e5 100 68 28),
  (0b0_011000_1000_1100100_1000100_0000000, 0, .e42f 100 68),
  (0b0_011000_1001_1100100_1000100_0000000, 0, .e52f 100 68),
  (0b0_011000_1010_1100100_1000100_0000000, 0, .f2i 100 68),
  (0b0_011000_1011_1100100_1000100_0000000, 0, .f2u 100 68),
  (0b0_011000_1100_1100100_1000100_0000000, 0, .i2f 100 68),
  (0b0_011000_1101_1100100_1000100_0000000, 0, .u2f 100 68),
  (0b0_011000_1111_1100100_1000100_0000000, 0b00010000_111_0000000_00_000000000000, .d2i 100 68 .rm),
  (0b0_011000_1111_1100100_1000100_0000000, 0b00010001_111_0000000_00_000000000000, .d2u 100 68 .rm),
  (0b0_011000_1111_1100100_1000100_0000000, 0b00010010_000_0000000_00_000000000000, .i2d 100 68),
  (0b0_011000_1111_1100100_1000100_0000000, 0b00010011_000_0000000_00_000000000000, .u2d 100 68),
  (0b0_011000_1111_1100100_1000100_0000000, 0b00010100_111_0000000_00_000000000000, .f2l 100 68 .rm),
  (0b0_011000_1111_1100100_1000100_0000000, 0b00010101_111_0000000_00_000000000000, .f2ul 100 68 .rm),
  (0b0_011000_1111_1100100_1000100_0000000, 0b00010110_111_0000000_00_000000000000, .l2f 100 68 .rm),
  (0b0_011000_1111_1100100_1000100_0000000, 0b00010111_111_0000000_00_000000000000, .ul2f 100 68 .rm),
  (0b0_011000_1111_1100100_1000100_0000000, 0b00011000_111_0000000_00_000000000000, .d2l 100 68 .rm),
  (0b0_011000_1111_1100100_1000100_0000000, 0b00011001_111_0000000_00_000000000000, .d2ul 100 68 .rm),
  (0b0_011000_1111_1100100_1000100_0000000, 0b00011010_111_0000000_00_000000000000, .l2d 100 68 .rm),
  (0b0_011000_1111_1100100_1000100_0000000, 0b00011011_111_0000000_00_000000000000, .ul2d 100 68 .rm),
  (0x29E04103, 0x00A00000, .fpExtendedRoundingForm .fp32 0 1 2 3 .rz 0),
  (0x31E14082, 0x06001000, .fpExtendedRoundingForm .conv 6 5 1 2 .dyn 1),
  (0b0_011001_0000_1100100_1000100_0011100, 0, .aaddf 100 68 28),
  (0b0_011001_0001_1100100_1000100_0011100, 0, .aaddd 100 68 28),
  (0b0_011001_0010_1100100_1000100_0011100, 0, .aaddh 100 68 28),
  (0b0_011001_0011_1100100_1000100_0011100, 0, .aaddbf 100 68 28),
  (0b0_011001_0100_1100100_1000100_0000000, 0, .aaddq 100 68),
  (0b0_011001_0101_1100100_1000100_0000000, 0, .ared 100 68),
  (0b0_011001_0110_1100100_1000100_0011100, 0, .acvtf 100 68 28),
  (0b0_011001_0111_1100100_1000100_0011100, 0, .acvtd 100 68 28)] = true := by decide +kernel

theorem test_decode_control : reads [
  (0b0_011100_0000000_101100111000111101, 0, .bra 0b101100111000111101),
  (0b0_011101_1011010_101100111000111101, 0, .brm 90 0b101100111000111101),
  (0b0_011110_1011010_101100111000111101, 0, .call 90 0b101100111000111101),
  (0b0_100000_0001_0000000_0000000_0000000, 0, .join),
  (0b0_100000_0010_0000000_0000000_0000000, 0, .regang),
  (0b0_100000_0011_0000000_0000000_0000000, 0, .regangWg),
  (0b0_100000_0100_0000000_1000100_0000000, 0, .ret 68),
  (0b0_100000_0101_0000000_1000100_0000000, 0, .jmpi 68),
  (0b0_100000_0110_0000000_0000000_0000000, 0, .exit),
  (0b0_100000_0111_0000000_0000000_0000000, 0, .yield),
  (0b0_100000_1000_0000000_1010011_0110101, 0, .trap 0b10100110110101),
  (0b0_100000_1001_0000000_1010011_0110101, 0, .brk 0b10100110110101),
  (0b0_100000_1010_0000000_0000000_0000000, 0, .rtt),
  (0b0_100001_000000_1100100_001101000101, 0, .sysrd 100 0x345),
  (0b0_100001_000000_1100100_000000100000, 0, .sysrdCyclelo 100),
  (0b0_100001_000001_1100100_001101000101, 0, .syswr 100 0x345),
  (0b0_100001_000001_1100100_000100010001, 0, .syswrFpflags 100),
  (0b0_100001_000001_1100100_000101100000, 0, .syswrGangctl 100),
  (0b0_100001_000100_0000000_000000000011, 0, .fenceAcq .dev),
  (0b0_100001_000101_0000000_000000000011, 0, .fenceRel .dev),
  (0b0_100001_000110_0000000_000000000011, 0, .fenceSc .dev),
  (0b0_100001_001000_1100100_000000000000, 0, .spanOpen 100),
  (0b0_100001_001001_0000000_000000000000, 0, .spanClose),
  (0b0_100001_001100_1100100_000000000001, 0, .leaseSet 100 .declared),
  (0b0_100001_001101_1100100_000000000000, 0, .leaseGet 100),
  (0b0_100001_001110_1100100_000000000000, 0, .regsGrow 100),
  (0b0_100001_001111_1100100_000000000000, 0, .regsShrink 100),
  (0b0_100001_010000_1100100_000000101101, 0, .gridLaunch 100 45)] = true := by decide +kernel

theorem test_decode_memory : reads [
  (0b0_100100_0_1001_1100100_1011_1001101_10, 0, .ld ⟨none, 9, 100, 11, 77, 2⟩),
  (0b0_100101_0_1001_1100100_1011_1001101_00, 0, .lds ⟨none, 9, 100, 11, 77, 0⟩),
  (0b0_100110_0_1001_1100100_1011_1001101_10, 0, .st ⟨none, 9, 100, 11, 77, 2⟩),
  (0b0_100111_0_1001_1100100_1011_1001101_11, 0, .stq ⟨none, 9, 100, 11, 77, 3⟩),
  (0b0_101000_0_1001_1100100_1011_1001101_10, 0, .ldByp ⟨none, 9, 100, 11, 77, 2⟩),
  (0b0_101001_0_0110_1100100_1011_1001101_10, 0, .ldAcq .dev ⟨none, 0, 100, 11, 77, 2⟩),
  (0b0_101010_0_0110_1100100_1011_1001101_10, 0, .stRel .dev ⟨none, 0, 100, 11, 77, 2⟩),
  (0x56002202, 0x02619000, .atom ⟨.xchg, false, .dev, .acq, 1, 1, 0, 6⟩),
  (0b0_101100_0_1001_1100100_1011_1001101_10, 0, .ldl ⟨none, 9, 100, 11, 77, 2⟩),
  (0b0_101101_0_1001_1100100_1011_1001101_10, 0, .stl ⟨none, 9, 100, 11, 77, 2⟩),
  (0b0_101110_0_0000_1100100_1011_1001101_11, 0b00000011_010_0011100_11_000000000000, .atoml ⟨.cas, true, .cohort, .acqRel, 100, 11, 77, 28⟩),
  (0b0_101111_0_1001_0000000_1011_1001101_00, 0, .prefL1 ⟨none, 9, 0, 11, 77, 0⟩),
  (0b0_101111_0_1001_0000000_1011_1001101_01, 0, .prefLlc ⟨none, 9, 0, 11, 77, 0⟩)] = true := by decide +kernel

theorem test_decode_surface : reads [
  (0b0_110000_0000_1100100_1000100_0011100, 0, .surfLd 100 68 28),
  (0b0_110000_0001_1100100_1000100_0011100, 0, .surfSt 100 68 28),
  (0b0_110000_0010_1100100_1000100_0011100, 0, .surfStc 100 68 28),
  (0b0_110000_0011_1100100_1000100_0011100, 0, .surfMv 100 68 28),
  (0b0_110001_0000_1100100_1000100_0011100, 0, .tex 100 68 28),
  (0b0_110001_1000_1100100_1000100_0000000, 0, .rastKick 100 68),
  (0b0_110010_0000_1100100_1000100_0011100, 0, .fgrid 100 68 28),
  (0b0_110010_0001_1100100_1000100_0011100, 0, .fgrid2d 100 68 28),
  (0b0_110011_0000_1100100_1000100_0011100, 0, .unpack 100 68 28),
  (0b0_110011_0001_1100100_1000100_0011100, 0, .pack 100 68 28)] = true := by decide +kernel

theorem test_decode_matrix : reads [
  (0b0_110100_1001_0111_1000100_0011100_101, 0, .mma 9 7 68 28 5),
  (0b0_110101_1001_0111_1000100_0011100_101, 0, .mmaB 9 7 68 28 5),
  (0b0_110110_1001_0000_1000100_0000000_000, 0, .accWin 9 68),
  (0b0_110110_1001_0001_0000000_0011100_000, 0, .accZero 9 28),
  (0b0_110110_1001_0010_1000100_0011100_000, 0, .accLd 9 68 28),
  (0b0_110110_1001_0011_1000100_0011100_000, 0, .accSt 9 68 28),
  (0b0_110110_1001_0100_1000100_0011100_000, 0, .accTolm 9 68 28),
  (0b0_110110_1001_0101_1000100_0011100_000, 0, .accFromlm 9 68 28),
  (0b0_110110_1001_0110_1000100_0011100_010, 0, .accCvt 9 2 68 28),
  (0b0_110111_1001_0000_1000100_0011100_001, 0, .scacc 9 true 68 28),
  (0b0_110111_1001_0001_1000100_0011100_000, 0, .tscaleBind 9 68 28),
  (0b0_110111_1001_0010_1000100_0011100_000, 0, .wbufLd 9 68 28),
  (0b0_110111_1001_0011_1000100_0011100_000, 0, .wbufLdsp 9 68 28)] = true := by decide +kernel

theorem test_decode_copy_barrier_spring : reads [
  (0b0_111000_0000_0000_1000100_0011100_000, 0, .cpyKick 68 28),
  (0b0_111000_0000_0001_1000100_0011100_001, 0, .cpyStat true 28 68),
  (0b0_111001_0000_0000_1000100_0011100_110, 0, .barInit (.basin 2 68) 28),
  (0b0_111001_0000_0001_1000100_0011100_110, 0, .barExpect (.basin 2 68) 28),
  (0b0_111001_0000_0010_1000100_0000000_110, 0, .barArrive (.basin 2 68)),
  (0b0_111001_0000_0011_1000100_0000000_110, 0, .barWait (.basin 2 68)),
  (0b0_111001_0000_0100_1000100_0011100_110, 0, .barTest 28 (.basin 2 68)),
  (0b0_111110_1010_1100100_1000100_0011100, 0, .spring 42 100 68 28)] = true := by decide +kernel

/-! ### Commands and refusals -/

/-- Entries written byte by byte from R382 and R384: bytes 0 to 7 hold OPC, a reserved byte, TAG = 0x3344 and CTX. -/
theorem test_commands :
    [decodeCommandRaw 0x00000000_33440001#512, decodeCommandRaw 0x00000005_0000000000009000_0000000000600000_0000000000008000_0000000000700000_00000000_33440002#512,
      decodeCommandRaw 0x0000000000105000_0000000000000208_00000001_33440003#512, decodeCommandRaw 0x0000000000000840_00000001_33440004#512,
      decodeCommandRaw 0x0000000000105000_00000001_33440005#512, decodeCommandRaw 0x0000000000105000_00000001_33440006#512,
      decodeCommandRaw 0x07_0000000000003000_00000001_33440007#512, decodeCommandRaw 0x0000000000120000_00000001_33440008#512,
      decodeCommandRaw 0x0000000000000208_000000000000003F_00000000_33440009#512,
      decodeCommandRaw 0x0000000000000000000000000000000000000000000000000000000000000077_0000000000000208_00000000_3344000A#512,
      decodeCommandRaw 0xFF00010000_0000000000000240_00000000_3344000B#512, decodeCommandRaw 0x0000000000000208_00000000_3344000C#512,
      decodeCommandRaw 0x3F_0000000000000208_0000000000003000_00000000_3344000D#512, decodeCommandRaw 0x0000000000000000#512, decodeCommandRaw 0x000000000000000E#512] =
    [some (.deviceInit ⟨0x3344, 0⟩), some (.contextCreate ⟨0x3344, 0⟩ 0x700000 0x8000 0x600000 0x9000 5),
      some (.regionCreate ⟨0x3344, 1⟩ 0x208 0x105000), some (.launch ⟨0x3344, 1⟩ 0x840), some (.preempt ⟨0x3344, 1⟩ 0x105000),
      some (.resume ⟨0x3344, 1⟩ 0x105000), some (.pageMigrate ⟨0x3344, 1⟩ 0x3000 7), some (.springBind ⟨0x3344, 1⟩ 0x120000),
      some (.keyLoad ⟨0x3344, 0⟩ 63 0x208), some (.attest ⟨0x3344, 0⟩ 0x208 0x77), some (.errorQuery ⟨0x3344, 0⟩ 0x240 65536 0xFF),
      some (.capacityMap ⟨0x3344, 0⟩ 0x208), some (.poisonClear ⟨0x3344, 0⟩ 0x3000 0x208 63), none, none] := by
  decide +kernel

/-- The word pair in the slot is refused for the reason. -/
noncomputable def refuses (l : List (Nat × Word × Word × IllegalWord)) : Bool :=
  l.all fun p => match decode p.1 p.2.1 p.2.2.1 with
    | .ok _ => false
    | .error e => decide (e = p.2.2.2)

/-- Unassigned majors, funcs, OPs and sizes; reserved fields and MODs; an odd pair; a second word past slot 2 (R181, R183, R189, R193, R201). -/
theorem test_refusals : refuses [
    (0, 0b0_000000_0000_0000000_0000000_0000000, 0, .unassignedMajor), (0, 0b0_111010_0000_0000000_0000000_0000000, 0, .unassignedMajor),
    (0, 0b0_100000_1011_0000000_0000000_0000000, 0, .unassigned), (0, 0b0_000010_1111_0000001_0000001_0000001, 0x01000000, .unassigned),
    (0, 0b0_100101_0_0000_0000100_0001_0000000_10, 0, .unassigned), (0, 0b0_000001_1111_0000001_0000001_0000001, 0x05000000, .unassigned),
    (0, 0b0_100000_0000_0000001_0000000_0000000, 0, .reserved), (0, 0b0_001100_0000001_0000001_00000100000, 0, .reserved),
    (0, 0b0_010100_1111_0000001_0000010_0000011, 0x00200000, .reserved), (0, 0b0_101011_1_0000_0000001_0001_0000000_10, 0x02610000, .reserved),
    (0, 0b0_100001_001100_1100100_000000000000, 0, .reserved), (0, 0b0_000011_0000_0000100_0000010_0000001, 0, .misalignedField), (0, 0b0_011110_0000001_000000000000000001, 0, .misalignedField),
    (2, 0b0_000001_1111_0000001_0000001_0000001, 0x01000000, .beyondSlot2), (2, 0b0_000010_1111_0000001_0000001_0000001, 0, .beyondSlot2)] = true := by
  decide +kernel

/-- Terms that no word and no entry stands for, each refused by one of the three checks alone. -/
theorem test_ill_formed :
    let bad := fun (i : Instr) => (i.aligned, i.expressible, i.commandOK)
    [bad (.iadd64 3 4 6), bad (.ret 5), bad (.tex 2 4 8), bad (.atom ⟨.cas, true, .dev, .acq, 4, 1, 0, 6⟩), bad (.ld ⟨none, 0, 5, 1, 0, 3⟩),
        bad (.fpExtendedRoundingForm .fp64 0 3 4 6 .rz 0)] = List.replicate 6 (false, true, true) ∧
      [bad (.lds ⟨none, 0, 4, 1, 0, 2⟩), bad (.ldAcq .dev ⟨none, 3, 4, 1, 0, 2⟩), bad (.prefL1 ⟨none, 0, 4, 1, 0, 0⟩), bad (.sysrd 1 0x020),
        bad (.syswr 1 0x111), bad (.mma 0 0 1 2 1), bad (.fpExtendedRoundingForm .fp32 15 1 2 3 .rz 0)] = List.replicate 7 (true, false, true) ∧
      [bad (.deviceInit ⟨0, 1⟩), bad (.contextCreate ⟨0, 0⟩ 0x700000 0x8000 0 0x9000 5), bad (.regionCreate ⟨0, 1⟩ 0x204 0x105000), bad (.launch ⟨0, 1⟩ 0x820),
        bad (.pageMigrate ⟨0, 1⟩ 0 8), bad (.keyLoad ⟨0, 0⟩ 64 0), bad (.errorQuery ⟨0, 1⟩ 0 0 0), bad (.poisonClear ⟨0, 0⟩ 0x800 0 0)] =
        List.replicate 8 (true, true, false) := by
  decide +kernel

/-! ### One step: a word fetched at the program counter, results worked by hand from the spec's rules and its own examples -/

/-- The machine about to run the word, its gang changed by f. -/
def readyTo (w : Nat) (f : Gang → Gang) : State :=
  let s := State.reset.withFetchWord 64 w
  { s with gangs := s.gangs.map f }

/-- The register in the lanes after the step. -/
noncomputable def lanesAfter (w : Nat) (f : Gang → Gang) (r : Nat) (ls : List Nat) : Option (List Word) :=
  match step (readyTo w f) with
  | .next s => (gang? s 3).map fun g => ls.map (getReg g r)
  | _ => none

/-- Something of the gang after the step. -/
noncomputable def gangAfter {α : Type} (w : Nat) (f : Gang → Gang) (p : Gang → α) : Option α :=
  match step (readyTo w f) with
  | .next s => (gang? s 3).map p
  | _ => none

def withLanes (l : List (Nat × List Word)) (g : Gang) : Gang := l.foldl (fun g p => putLanes g p.1 (BitVec.allOnes 32) fun i => p.2.getD i 0) g
def withRegs (l : List (Nat × Word)) (g : Gang) : Gang := l.foldl (fun g p => putLanes g p.1 (BitVec.allOnes 32) fun _ => p.2) g

/-- The register in the lanes after the instruction at a gang changed by f. -/
noncomputable def lanesOf (i : Instr) (f : Gang → Gang) (r : Nat) (ls : List Nat) : Option (List Word) :=
  match exec i (withGang0 (f g0)) with
  | .next s => (gang? s 3).map fun g => ls.map (getReg g r)
  | _ => none

/-- The result in register 1, which held 7, of an instruction on registers 2 and 3. -/
noncomputable def binary (i : Reg → Reg → Reg → Instr) (a b : Word) : Option (List Word) :=
  lanesOf (i 1 2 3) (fun g => withRegs [(1, 7), (2, a), (3, b)] { g with launchMask := 1, live := 1 }) 1 [0]

/-- R208, R209: a wrap, the high halves of −1 × 2, a signed and an unsigned minimum, clamps, divisions by 0, the old d in IMAD. -/
theorem test_integer :
    binary .iadd 0xFFFFFFFF 1 = some [0] ∧ binary .isub 0 1 = some [0xFFFFFFFF] ∧ binary .imulhi 0xFFFFFFFF 2 = some [0xFFFFFFFF] ∧
    binary .imulhiu 0xFFFFFFFF 2 = some [1] ∧ binary .imin 0x80000000 1 = some [0x80000000] ∧ binary .iminu 0x80000000 1 = some [1] ∧
    binary .iadds 0x7FFFFFFF 1 = some [0x7FFFFFFF] ∧ binary .isubs 0x80000000 1 = some [0x80000000] ∧ binary .idivu 9 0 = some [0xFFFFFFFF] ∧
    binary .iremu 9 0 = some [9] ∧ binary .imad 5 6 = some [37] ∧ binary .idiv 0xFFFFFFF9 2 = some [0xFFFFFFFD] ∧ binary .irem 0xFFFFFFF9 2 = some [0xFFFFFFFF] ∧
    binary .idiv 0x80000000 0xFFFFFFFF = some [0x80000000] ∧ binary .iaddsu 0xFFFFFFFF 2 = some [0xFFFFFFFF] ∧ binary .isubsu 1 2 = some [0] := by
  decide +kernel

/-- R210, R211: shifts by 32, a rotation, fields of 8 and 4 bits at 4, BFI into the old d of 7: (7 and not 0xF0) or 0x30. -/
theorem test_bits :
    binary .andn 0b1100 0b1010 = some [0b0100] ∧ binary .shl 1 32 = some [0] ∧ binary .sar 0x80000000 32 = some [0xFFFFFFFF] ∧
    binary .rol 0x80000001 33 = some [3] ∧ binary .bfe 0xABCD1234 0x0804 = some [0x23] ∧ binary .bfes 0x80 0x0404 = some [0xFFFFFFF8] ∧
    binary .bfi 3 0x0404 = some [0x37] ∧ binary (fun d a _ => .clz d a) 0x00FFFFFF 0 = some [8] ∧ binary (fun d a _ => .brev d a) 6 0 = some [0x60000000] := by
  decide +kernel

/-- R212, R189: a carry into the high word; a count in one register; the high word of −1 × −1. -/
theorem test_wide :
    lanesOf (.iadd64 4 6 8) (withRegs [(6, 0xFFFFFFFF), (7, 0), (8, 1), (9, 0)]) 5 [0] = some [1] ∧
    lanesOf (.imulw 4 6 7) (withRegs [(6, 0xFFFFFFFF), (7, 2)]) 5 [0] = some [0xFFFFFFFF] ∧
    lanesOf (.shl64 4 6 8) (withRegs [(6, 0x80000001), (7, 0), (8, 1)]) 5 [0] = some [1] := by
  decide +kernel

/-- R215: signed and unsigned order; the mask of lanes 0 to 7, lane 5 dead. -/
theorem test_compare :
    binary .cmplt 0xFFFFFFFF 0 = some [1] ∧ binary .cmpltu 0xFFFFFFFF 0 = some [0] ∧
    lanesOf (.cmpeq 1 2 3) (fun g => withLanes [(2, [1, 2, 3, 4, 5, 6, 7, 8]), (3, [1, 0, 3, 0, 5, 6, 0, 8])] { g with launchMask := 0xFF, live := 0xDF })
      1 [0, 5, 7, 8] = some [0b10010101, 0, 0b10010101, 0] := by
  decide +kernel

/-- R213, R214: a negative imm11; MOVI of −1; the second word of the example of 0x1234_5678. -/
theorem test_immediates :
    lanesOf (.iaddi 1 2 0b11111111111) (withRegs [(2, 5)]) 1 [0] = some [4] ∧ lanesOf (.movi 1 0b111111111111111111) id 1 [0] = some [0xFFFFFFFF] ∧
    lanesOf (.movh 4 0x48D1) (withRegs [(4, 0x1678)]) 4 [0, 31] = some [0x12345678, 0x12345678] := by
  decide +kernel

/-- R217, R218: SEL by the lane's own bit; the register that a lane's value names. -/
theorem test_moves :
    lanesOf (.sel 1 2 3) (withRegs [(1, 7), (2, 9), (3, 0b10)]) 1 [0, 1] = some [7, 9] ∧
    lanesOf (.rdind 1 2) (withLanes [(2, [3, 4]), (3, [50, 51]), (4, [60, 61])]) 1 [0, 1] = some [50, 61] := by
  decide +kernel

/-- The table after R222: SHFL.XOR past the dead lane 5, and REDADD over its result. -/
theorem test_collectives :
    lanesOf (.shflXor 6 7 8) (fun g => withLanes [(7, [10, 11, 12, 13, 14, 15, 16, 17]), (8, List.replicate 8 1), (6, List.replicate 8 99)]
      { g with launchMask := 0xFF, live := 0xDF }) 6 [0, 1, 2, 3, 4, 5, 6, 7] = some [11, 10, 13, 12, 0, 99, 17, 16] ∧
    lanesOf (.redadd 9 6) (fun g => withLanes [(6, [11, 10, 13, 12, 0, 5, 17, 16])] { g with launchMask := 0xFF, live := 0xDF }) 9 [0, 7] = some [79, 79] := by
  decide +kernel

/-- The table of FREDADD: 1.0 and twice 2^−24 in two orders under RN. -/
theorem test_reduction_order :
    (let f := fun (l : List Word) (g : Gang) => withLanes [(11, l)] { g with launchMask := 7, live := 7 }
     lanesOf (.fredadd 10 11 .rn) (f [0x3F800000, 0x33800000, 0x33800000]) 10 [0, 2] = some [0x3F800000, 0x3F800000] ∧
      lanesOf (.fredadd 10 11 .rn) (f [0x33800000, 0x33800000, 0x3F800000]) 10 [0, 2] = some [0x3F800001, 0x3F800001]) := by
  decide +kernel

/-- R240: 1 + 2^−24 under RN and RP, 2 × 3; the examples of FEXP2 of 150 and of F2U.RZ of −0.75. -/
theorem test_float :
    binary .fadd 0x3F800000 0x33800000 = some [0x3F800000] ∧
    binary (fun d a b => .fpExtendedRoundingForm .fp32 0 d a b .rp 0) 0x3F800000 0x33800000 = some [0x3F800001] ∧
    binary .fmul 0x40000000 0x40400000 = some [0x40C00000] ∧ binary (fun d a _ => .fexp2 d a) 0x43160000 0 = some [0x7F800000] ∧
    binary (fun d a _ => .fpExtendedRoundingForm .conv 11 d a 0 .rz 0) 0xBF400000 0 = some [0] := by
  decide +kernel

/-- The table of F2E4: 300.0 and 500.0 into v5, without .SAT, with it, and into the high half. -/
theorem test_e4m3 :
    (let f := fun (v : Word) (g : Gang) => withRegs [(1, 0x43960000), (2, 0x43FA0000), (5, v)] { g with launchMask := 1, live := 1 }
     lanesOf (.f2e4 5 1 2) (f 0xAAAAAAAA) 5 [0] = some [0xAAAA7F79] ∧
      lanesOf (.fpExtendedRoundingForm .conv 6 5 1 2 .dyn 1) (f 0xAAAAAAAA) 5 [0] = some [0xAAAA7E79] ∧
      lanesOf (.fpExtendedRoundingForm .conv 6 5 1 2 .dyn 3) (f 0xAAAA7E79) 5 [0] = some [0x7E797E79]) := by
  decide +kernel

/-- The example of ATOM.ADD.W v4, [v2:v3], v5 on a word that holds 10: the lanes receive 10, 11 and 13, and the word ends at 16. -/
theorem test_atomic :
    (let s := readyTo (0b0_101011_0_0000_0000100_0001_0000000_10 + 0b00000001_011_0000101_00_000000000000 * 2 ^ 32)
        (fun g => withLanes [(2, [0x800, 0x800, 0x800]), (5, [1, 2, 3])] { g with launchMask := 7, live := 7 })
     match step (rawWrite s (bootCode + 0x800) [10]) with
      | .next t => decide ((gang? t 3).map (fun g => [0, 1, 2].map (getReg g 4)) = some [10, 11, 13] ∧ memByte t (bootCode + 0x800) = 16)
      | _ => false) = true := by
  decide +kernel

/-- R256, R258: a load of the code page's first word by a lane, the word itself. -/
theorem test_load : lanesAfter 0x48014212 (withRegs [(2, 0), (3, 0), (4, 0)]) 10 [0, 31] = some [0x48014212, 0x48014212] := by decide +kernel

/-- R224, R226: BRA two packets on, from the packet at 0 (24 bytes); CALL's link, the slot after it, and its target. -/
theorem test_branch :
    gangAfter 0b0_011100_0000000_000000000000000010 id (fun g => splitPc g 0) = some 24 ∧
    gangAfter 0b0_011110_0000110_000000000000000001 id (fun g => (splitPc g 0, getReg g 6 0, getReg g 7 0)) = some (12, 1, 0) := by
  decide +kernel

/-- R231, R364: TRAP 300 with a handler at 12: TRAPPC is the next slot, TRAPINFO the number, and the gang stands in the handler. -/
theorem test_trap :
    gangAfter 0b0_100000_1000_0000000_0000010_0101100 (fun g => { g with trap := { g.trap with base := 12 } }) (fun g => (g.trap.pc, g.trap.info, (g.slices.map (·.pc)).eraseDups)) =
      some (1, 300, [12]) := by
  decide +kernel

end Sys2Proof.Tests
end

section
/-! SUPPORT. Memory through a key (O8): what enciphering a line anew and writing bytes through a key change of what is read
there, and the little-endian value of a byte list. -/

namespace Sys2Proof.Machine

/-! ## Lines -/

theorem lineOf_lineBase_add (l : Nat) {i : Nat} (hi : i < 128) : lineOf (lineBase l + i) = l := by
  unfold lineOf lineBase; omega

/-- A line lies wholly inside device DRAM or wholly outside it (R12). -/
theorem isDram_of_lineOf_eq {a b : Nat} (h : lineOf a = lineOf b) : isDram a = isDram b := by
  simp only [isDram, lineOf, decide_eq_decide] at h ⊢
  omega

/-! ## What a line reads as depends on its bytes, its key pair and the key slots alone -/

/-- Line l holds the same bytes in t as in s, enciphered under the same pair, and the key slots are the same. -/
structure LineKept (s t : State) (l : Nat) : Prop where
  keys : t.keys = s.keys
  lineKey : getK l t.lineKey = getK l s.lineKey
  bytes : ∀ a, lineOf a = l → memByte t a = memByte s a

theorem LineKept.refl (s : State) (l : Nat) : LineKept s s l := ⟨rfl, rfl, fun _ _ => rfl⟩

theorem LineKept.trans {s t u : State} {l : Nat} (h : LineKept s t l) (k : LineKept t u l) : LineKept s u l :=
  ⟨k.keys.trans h.keys, k.lineKey.trans h.lineKey, fun a ha => (k.bytes a ha).trans (h.bytes a ha)⟩

theorem LineKept.lineBytes_eq {s t : State} {l : Nat} (h : LineKept s t l) : lineBytes t l = lineBytes s l :=
  List.map_congr_left fun _ hi => h.bytes _ (lineOf_lineBase_add l (List.mem_range.mp hi))

theorem LineKept.byteUnder_eq {s t : State} {a : Nat} (h : LineKept s t (lineOf a)) (k : Option (BitVec 512)) :
    byteUnder t k a = byteUnder s k a := by
  simp only [byteUnder, h.lineKey, h.bytes a rfl, h.lineBytes_eq]

theorem LineKept.readByte_eq {s t : State} {a : Nat} (h : LineKept s t (lineOf a)) (key : Nat) :
    readByte t key a = readByte s key a := by
  simp only [readByte, keyPair, h.keys, h.byteUnder_eq, h.bytes a rfl]

/-- Under the pair that it was enciphered under, a line reads as its plaintext (R29). -/
theorem byteUnder_own {s : State} {k : Option (BitVec 512)} {a : Nat} (h : getK (lineOf a) s.lineKey = k) :
    byteUnder s k a = memByte s a := by
  cases k <;> simp [byteUnder, h]

/-! ## A line enciphered anew (R29, R30) -/

@[simp] theorem retag_keys (s : State) (k : BitVec 512) (line : Nat) : (retag s k line).keys = s.keys := by
  unfold retag
  split
  · rfl
  · split <;> rfl

theorem getK_retag_self (s : State) (k : BitVec 512) (line : Nat) : getK line (retag s k line).lineKey = some k := by
  unfold retag
  split
  · simp
  · split
    next p hp e => rw [hp, e]
    next => simp

theorem getK_retag_ne (s : State) (k : BitVec 512) {line l : Nat} (h : l ≠ line) :
    getK l (retag s k line).lineKey = getK l s.lineKey := by
  unfold retag
  split
  · exact getK_setK_ne h k _
  · split
    · rfl
    · exact getK_setK_ne h k _

theorem memByte_retag_self (s : State) (k : BitVec 512) (a : Nat) :
    memByte (retag s k (lineOf a)) a = byteUnder s (some k) a := by
  unfold retag
  split
  next h => simp [byteUnder, h, memByte]
  next p h =>
    split
    next e => exact (byteUnder_own (e ▸ h)).symm
    next e =>
      have inLine : lineBase (lineOf a) ≤ a ∧ a < lineBase (lineOf a) + 128 := by unfold lineBase lineOf; omega
      have off : a - lineBase (lineOf a) < 128 := by omega
      have back : lineBase (lineOf a) + (a - lineBase (lineOf a)) = a := by omega
      simp [memByte, readK_memPuts, inLine, off, back, List.getD_eq_getElem?_getD]

theorem memByte_retag_ne (s : State) (k : BitVec 512) {line a : Nat} (h : lineOf a ≠ line) :
    memByte (retag s k line) a = memByte s a := by
  have outside : ¬(lineBase line ≤ a ∧ a < lineBase line + 128) := by unfold lineBase; unfold lineOf at h; omega
  unfold retag
  split
  · rfl
  · split
    · rfl
    · simp [memByte, readK_memPuts, outside]

/-- Enciphering one line anew leaves every other line as it was. -/
theorem retag_lineKept (s : State) (k : BitVec 512) {line l : Nat} (h : l ≠ line) : LineKept s (retag s k line) l :=
  ⟨retag_keys s k line, getK_retag_ne s k h, fun _ ha => memByte_retag_ne s k (ha ▸ h)⟩

/-- A line that is enciphered under k reads under k as it did before. -/
theorem byteUnder_retag (s : State) (k : BitVec 512) (line a : Nat) :
    byteUnder (retag s k line) (some k) a = byteUnder s (some k) a := by
  by_cases h : lineOf a = line
  · subst h
    rw [byteUnder_own (getK_retag_self s k _), memByte_retag_self]
  · exact (retag_lineKept s k h).byteUnder_eq _

/-! ## One byte written through a key -/

/-- The state whose memory `writeByte` changes at pa: a line of DRAM already stands under the pair of the key. -/
def enciphered (s : State) (key pa : Nat) : State :=
  if isDram pa then
    match keyPair s key with
    | some k => retag s k (lineOf pa)
    | none => s
  else s

theorem writeByte_eq (s : State) (key pa : Nat) (b : Byte) :
    writeByte s key pa b = { enciphered s key pa with mem := memPut pa b (enciphered s key pa).mem } := rfl

@[simp] theorem enciphered_keys (s : State) (key pa : Nat) : (enciphered s key pa).keys = s.keys := by
  unfold enciphered
  split
  · split <;> simp
  · rfl

@[simp] theorem keyPair_enciphered (s : State) (key pa key' : Nat) : keyPair (enciphered s key pa) key' = keyPair s key' := by
  simp [keyPair]

@[simp] theorem keyPair_writeByte (s : State) (key pa : Nat) (b : Byte) (key' : Nat) :
    keyPair (writeByte s key pa b) key' = keyPair s key' := keyPair_enciphered s key pa key'

@[simp] theorem writeByte_lineKey (s : State) (key pa : Nat) (b : Byte) :
    (writeByte s key pa b).lineKey = (enciphered s key pa).lineKey := rfl

theorem memByte_writeByte (s : State) (key pa : Nat) (b : Byte) (a : Nat) :
    memByte (writeByte s key pa b) a = if a = pa then b else memByte (enciphered s key pa) a := by
  rw [writeByte_eq, memByte_memPut]

theorem enciphered_lineKept (s : State) (key pa : Nat) {l : Nat} (h : l ≠ lineOf pa) : LineKept s (enciphered s key pa) l := by
  unfold enciphered
  split
  · split
    · exact retag_lineKept s _ h
    · exact .refl s l
  · exact .refl s l

theorem getK_enciphered {s : State} {key pa : Nat} (hk : (keyPair s key).isSome) (hd : isDram pa = true) :
    getK (lineOf pa) (enciphered s key pa).lineKey = keyPair s key := by
  obtain ⟨k, hk⟩ := Option.isSome_iff_exists.mp hk
  simp [enciphered, hd, hk, getK_retag_self]

theorem readByte_enciphered (s : State) (key pa a : Nat) : readByte (enciphered s key pa) key a = readByte s key a := by
  unfold enciphered
  split
  next hd =>
    split
    next k hk =>
      have same : keyPair (retag s k (lineOf pa)) key = some k := by simpa [keyPair] using hk
      simp only [readByte, same, hk, byteUnder_retag]
      split
      · rfl
      next ha => exact memByte_retag_ne s k fun e => ha (isDram_of_lineOf_eq e ▸ hd)
    next => rfl
  next => rfl

/-- A write changes no line but its own. -/
theorem writeByte_lineKept (s : State) (key pa : Nat) (b : Byte) {l : Nat} (h : l ≠ lineOf pa) :
    LineKept s (writeByte s key pa b) l := by
  refine (enciphered_lineKept s key pa h).trans ⟨rfl, rfl, fun a ha => ?_⟩
  have away : a ≠ pa := fun e => h (e ▸ ha.symm)
  rw [memByte_writeByte, if_neg away]

/-- In a line of DRAM that was written through a key, a read through that key finds the plaintext. -/
theorem readByte_of_lineKey {s : State} {key a : Nat} (h : isDram a = true → getK (lineOf a) s.lineKey = keyPair s key) :
    readByte s key a = memByte s a := by
  unfold readByte
  split
  next hd => exact byteUnder_own (h hd)
  next => rfl

/-- Through the key of the write, the written byte reads back and every other byte reads as before (R5, R29, R30). -/
theorem readByte_writeByte {s : State} {key : Nat} (hk : (keyPair s key).isSome) (pa : Nat) (b : Byte) (a : Nat) :
    readByte (writeByte s key pa b) key a = if a = pa then b else readByte s key a := by
  by_cases hl : lineOf a = lineOf pa
  · have own : isDram a = true → getK (lineOf a) (enciphered s key pa).lineKey = keyPair s key := fun hd => by
      rw [hl]; exact getK_enciphered hk (isDram_of_lineOf_eq hl ▸ hd)
    have before : memByte (enciphered s key pa) a = readByte s key a := by
      rw [← readByte_enciphered s key pa, readByte_of_lineKey (by simpa using own)]
    rw [readByte_of_lineKey (by simpa using own), memByte_writeByte, before]
  · have away : a ≠ pa := fun e => hl (e ▸ rfl)
    rw [(writeByte_lineKept s key pa b hl).readByte_eq, if_neg away]

/-! ## Bytes written upward through a key -/

theorem readByte_writeBytes_of_outside {s : State} {key : Nat} (hk : (keyPair s key).isSome) (pa : Nat) (bs : List Byte) {a : Nat}
    (ha : ¬(pa ≤ a ∧ a < pa + bs.length)) : readByte (writeBytes s key pa bs) key a = readByte s key a := by
  induction bs generalizing s pa with
  | nil => rfl
  | cons b bs ih =>
    simp only [List.length_cons] at ha
    have away : a ≠ pa := by omega
    rw [writeBytes, ih (by simpa using hk) (pa + 1) (by omega), readByte_writeByte hk, if_neg away]

theorem readBytes_cons (s : State) (key pa n : Nat) :
    readBytes s key pa (n + 1) = readByte s key pa :: readBytes s key (pa + 1) n := by
  simp [readBytes, List.range_succ_eq_map, Nat.add_assoc, Nat.add_comm 1]

theorem readBytes_writeBytes {s : State} {key : Nat} (hk : (keyPair s key).isSome) (pa : Nat) (bs : List Byte) :
    readBytes (writeBytes s key pa bs) key pa bs.length = bs := by
  induction bs generalizing s pa with
  | nil => rfl
  | cons b bs ih =>
    have hk' : (keyPair (writeByte s key pa b) key).isSome := by simpa using hk
    have first : readByte (writeBytes (writeByte s key pa b) key (pa + 1) bs) key pa = b := by
      rw [readByte_writeBytes_of_outside hk' _ _ (by omega), readByte_writeByte hk, if_pos rfl]
    rw [writeBytes, List.length_cons, readBytes_cons, first, ih hk']

/-- A write changes no line but those that its bytes lie in. -/
theorem writeBytes_lineKept (s : State) (key pa : Nat) (bs : List Byte) {l : Nat}
    (h : ∀ j, j < bs.length → lineOf (pa + j) ≠ l) : LineKept s (writeBytes s key pa bs) l := by
  induction bs generalizing s pa with
  | nil => exact .refl s l
  | cons b bs ih =>
    refine (writeByte_lineKept s key pa b (h 0 (by simp)).symm).trans (ih _ _ fun j hj => ?_)
    rw [Nat.add_assoc, Nat.add_comm 1]
    exact h (j + 1) (by simpa using hj)

/-! ## Little-endian values (R5) -/

theorem bytesOf_succ (n v : Nat) : bytesOf (n + 1) v = BitVec.ofNat 8 v :: bytesOf n (v / 256) := by
  have shift : ∀ k, v / 256 / 2 ^ (8 * k) = v / 2 ^ (8 * (k + 1)) := fun k => by
    rw [Nat.div_div_eq_div_mul]
    congr 1
    ring
  simp [bytesOf, List.range_succ_eq_map, shift]

theorem natOfBytes_bytesOf (n v : Nat) : natOfBytes (bytesOf n v) = v % 2 ^ (8 * n) := by
  induction n generalizing v with
  | zero => simp [bytesOf, natOfBytes, Nat.mod_one]
  | succ n ih =>
    calc natOfBytes (bytesOf (n + 1) v) = v % 256 + 256 * (v / 256 % 2 ^ (8 * n)) := by
          simp [bytesOf_succ, natOfBytes, ih]
      _ = v % (256 * 2 ^ (8 * n)) := Nat.mod_mul.symm
      _ = v % 2 ^ (8 * (n + 1)) := by congr 1; ring

/-- Settles O8, from what one write changes (`readByte_writeByte`, `writeByte_lineKept`), by induction on the bytes. -/
theorem memoryLaws : Obligations.MemoryLaws := by
  refine ⟨fun s key pa bs hk => ⟨?_, ?_, ?_, ?_⟩, natOfBytes_bytesOf⟩
  · exact readBytes_writeBytes hk pa bs
  · exact fun _ => readByte_writeBytes_of_outside hk pa bs
  · exact fun key' a ha => (writeBytes_lineKept s key pa bs ha).readByte_eq key'
  · exact wf_writeBytes s key pa bs

end Sys2Proof.Machine
end

section
/-! SUPPORT. Writes of control registers (O16): one lemma for each form of SYSWR. -/

namespace Sys2Proof.Machine

/-- SYSWR of an address that a program may name writes the register that `csrWrite` says, and nothing else. -/
theorem execSyswr_next {s : State} {it : Issue} {g : Gang} (hi : Issues s it g) (d : Reg) {csr : BitVec 12} (hc : csr.toNat < 0x800) :
    exec (.syswr d csr) s = .next (withGangState s (csrWrite g csr.toNat (uniform g (execMask g it) d.toNat))) := by
  have allowed : ¬0x800 ≤ csr.toNat := by omega
  rw [exec_syswr, execSyswr, if_neg allowed, withGang_of hi, setGang_eq]

/-- An address that is not one of the five plain registers ignores the write (R7, R204). -/
theorem csrWrite_ignored (g : Gang) {csr : BitVec 12} (v : Word)
    (h : csr ∉ [0x110#12, 0x200#12, 0x20C#12, 0x202#12, 0x203#12]) : csrWrite g csr.toNat v = g := by
  have other : ∀ n < 2 ^ 12, BitVec.ofNat 12 n ∈ [0x110#12, 0x200#12, 0x20C#12, 0x202#12, 0x203#12] → csr.toNat ≠ n := by
    rintro n - hn rfl
    exact h (by simpa using hn)
  unfold csrWrite
  split
  next e => exact absurd e (other 0x110 (by decide) (by decide))
  next e => exact absurd e (other 0x200 (by decide) (by decide))
  next e => exact absurd e (other 0x202 (by decide) (by decide))
  next e => exact absurd e (other 0x203 (by decide) (by decide))
  next e => exact absurd e (other 0x20C (by decide) (by decide))
  next => rfl

theorem execSyswrFpflags_next {s : State} {it : Issue} {g : Gang} (hi : Issues s it g) (d : Reg) (he : engineOpen s it.gang = false) :
    exec (.syswrFpflags d) s = .next (withGangState s
      { g with fpflags := (it.pre.fpflags &&& ~~~uniform g (execMask g it) d.toNat) ||| it.raised }) := by
  rw [exec_syswrFpflags, execSyswrFpflags, withGang_of hi, he]
  rfl

theorem execSyswrGangctl_next {s : State} {it : Issue} {g : Gang} (hi : Issues s it g) (d : Reg) :
    let v := uniform g (execMask g it) d.toNat
    exec (.syswrGangctl d) s = .next (withGangState s
      { g with sstep := v.getLsbD 0, freeze := v.getLsbD 1, deadsrc := (it.pre.deadsrc && !v.getLsbD 2) || it.rdead }) := by
  rw [exec_syswrGangctl, execSyswrGangctl, withGang_of hi]
  rfl

/-- Settles O16, register by register: each plain register by its case of `csrWrite`, then the three forms with rules of
their own. -/
theorem csrWrites : Obligations.CsrWrites := by
  intro s it g d csr hi
  refine ⟨?fpctl, ?trapBaseLow, ?trapBaseHigh, ?trapPcLow, ?trapPcHigh, ?ignored, ?fpflags, ?gangctl⟩
  case fpctl => exact execSyswr_next hi d (by decide)
  case trapBaseLow => exact execSyswr_next hi d (by decide)
  case trapBaseHigh => exact execSyswr_next hi d (by decide)
  case trapPcLow => exact execSyswr_next hi d (by decide)
  case trapPcHigh => exact execSyswr_next hi d (by decide)
  case ignored =>
    intro hc hn
    rw [execSyswr_next hi d hc, csrWrite_ignored g _ hn]
  case fpflags => exact execSyswrFpflags_next hi d
  case gangctl => exact execSyswrGangctl_next hi d

end Sys2Proof.Machine
end

section
/-! SUPPORT. Lanes of a memory access (R22, R253, R254): lanes that all pass, the registers that a load writes, the bytes
that a store takes. -/

namespace Sys2Proof.Machine

/-! ## Lanes that all pass (R22) -/

section
variable {α : Type} (ls : List Nat) (f : Nat → α)

theorem laneOks_ok : laneOks (ls.map fun i => (i, LaneRes.ok (f i))) = ls.map fun i => (i, f i) := by
  simp [laneOks, List.filterMap_map]

theorem laneOwn_ok : laneOwn (ls.map fun i => (i, LaneRes.ok (f i))) = none := by simp [laneOwn]

theorem laneFails_ok : laneFails (ls.map fun i => (i, LaneRes.ok (f i))) = none := by
  simp [laneFails, List.filterMap_map]

end

/-- With no lane dead and none failing, and a lane alive, the access is complete. -/
theorem finishLanes_done {s : State} {uid : Nat} {k : Gang} (hk : gang? s uid = some k) (alive : k.live &&& k.launchMask ≠ 0#32)
    (s0 : State) (sub : Nat) (base : DWord) (la : Nat) (reads writes : List Nat) :
    finishLanes s0 s uid [] sub none base la reads writes = .next s := by
  have living : ((k.live &&& k.launchMask) != 0#32) = true := by simpa using alive
  simp [finishLanes, consumePoison, maskOf, endIfDead, hk, living]

/-! ## The bytes that a store takes (R253, R256) -/

theorem bytesOf_getElem? (n v : Nat) {j : Nat} (hj : j < n) : (bytesOf n v)[j]? = some (BitVec.ofNat 8 (v / 2 ^ (8 * j))) := by
  simp [bytesOf, hj]

@[simp] theorem bytesOf_length (n v : Nat) : (bytesOf n v).length = n := by simp [bytesOf]

theorem ofNat_div_eq_extract (w : Word) (j : Nat) : BitVec.ofNat 8 (w.toNat / 2 ^ (8 * j)) = w.extractLsb' (8 * j) 8 := by
  apply BitVec.eq_of_toNat_eq
  simp [BitVec.extractLsb'_toNat, Nat.shiftRight_eq_div_pow]

/-- The bytes of the words at the indices of a list, four a word. -/
theorem flatMap_bytes_getElem? (f : Nat → Word) (k : Nat) (q : Nat) (hq : q < 4 * k) :
    ((List.range k).flatMap fun r => bytesOf 4 (f r).toNat)[q]? = some ((f (q / 4)).extractLsb' (8 * (q % 4)) 8) := by
  induction k with
  | zero => omega
  | succ k ih =>
    have len : ((List.range k).flatMap fun r => bytesOf 4 (f r).toNat).length = 4 * k := by
      simp [List.length_flatMap, Nat.mul_comm]
    rw [List.range_succ, List.flatMap_append]
    by_cases h : q < 4 * k
    · rw [List.getElem?_append_left (by omega), ih h]
    · have word : q / 4 = k := by omega
      have byte : q - 4 * k = q % 4 := by omega
      rw [List.getElem?_append_right (by omega), len, byte, word, List.flatMap_singleton, bytesOf_getElem? 4 _ (by omega),
        ofNat_div_eq_extract]

/-- The sizes of accesses (R253): a byte, a halfword, or whole words. -/
def AccessSize (n : Nat) : Prop := n ≤ 4 * max 1 (n / 4)

theorem storeBytes_eq (g : Gang) (d : Reg) (n i : Nat) : storeBytes g d n i =
    ((List.range (max 1 (n / 4))).flatMap fun r => bytesOf 4 (getReg g (d.toNat + r) i).toNat).take n := by
  simp [storeBytes, dataRegs, List.flatMap_map]

theorem storeBytes_length (g : Gang) (d : Reg) {n : Nat} (hn : AccessSize n) (i : Nat) : (storeBytes g d n i).length = n := by
  unfold AccessSize at hn
  simp [storeBytes_eq, List.length_flatMap]
  omega

theorem storeBytes_getElem? (g : Gang) (d : Reg) {n : Nat} (hn : AccessSize n) (i : Nat) {q : Nat} (hq : q < n) :
    (storeBytes g d n i)[q]? = some ((getReg g (d.toNat + q / 4) i).extractLsb' (8 * (q % 4)) 8) := by
  unfold AccessSize at hn
  rw [storeBytes_eq, List.getElem?_take_of_lt hq]
  exact flatMap_bytes_getElem? (fun r => getReg g (d.toNat + r) i) _ q (by omega)

/-- A store reads nothing of the gang but its registers. -/
theorem storeBytes_congr {g k : Gang} (h : k.regs = g.regs) (d : Reg) (n i : Nat) : storeBytes k d n i = storeBytes g d n i := by
  simp only [storeBytes, getReg, h]

theorem accessSize_pow (sz : BitVec 2) : AccessSize (2 ^ sz.toNat) := by
  have all : ∀ k < 4, AccessSize (2 ^ k) := by unfold AccessSize; decide
  exact all _ sz.isLt

theorem accessSize_quad : AccessSize 16 := by unfold AccessSize; decide

/-! ## Bytes written upward into a sparse store -/

/-- A read after the bytes of a list were written from an address on, for any store whose single writes read back. -/
theorem read_writeUp {σ β : Type} (read : Nat → σ → β) (write : Nat → Byte → σ → σ) (val : Byte → β)
    (one : ∀ a b v m, read a (write b v m) = if a = b then val v else read a m) (off : Nat) (bs : List Byte) (m : σ) (a : Nat) :
    read a (((List.range bs.length).zip bs).foldl (fun m p => write (off + p.1) p.2 m) m) =
      if off ≤ a ∧ a < off + bs.length then val (bs.getD (a - off) 0) else read a m := by
  induction bs using List.reverseRecOn with
  | nil => simp
  | append_singleton bs b ih =>
    have last : (List.range (bs ++ [b]).length).zip (bs ++ [b]) = (List.range bs.length).zip bs ++ [(bs.length, b)] := by
      rw [List.length_append, List.length_singleton, List.range_succ, List.zip_append (by simp)]
      rfl
    rw [last, List.foldl_append, List.foldl_cons, List.foldl_nil, one, ih]
    simp only [List.length_append, List.length_singleton, List.getD_eq_getElem?_getD]
    by_cases e : a = off + bs.length
    · subst e; simp
    · by_cases h : off ≤ a ∧ a < off + bs.length
      · rw [if_neg e, if_pos h, if_pos (by omega), List.getElem?_append_left (by omega)]
      · rw [if_neg e, if_neg h, if_neg (by omega)]

/-! ## The registers that a load writes (R256) -/

/-- The value of a load below a word. -/
def shortValue (signed : Bool) (bs : List Byte) : Word :=
  if signed then (BitVec.ofNat (8 * bs.length) (natOfBytes bs)).signExtend 32 else BitVec.ofNat 32 (natOfBytes bs)

/-- The words of the loaded bytes, by register. -/
def loadWrites (d : Reg) (signed : Bool) (bs : List Byte) : List (Nat × Word) :=
  if bs.length < 4 then [(d.toNat, shortValue signed bs)]
  else (List.range (bs.length / 4)).map fun q => (d.toNat + q, BitVec.ofNat 32 (natOfBytes ((bs.drop (4 * q)).take 4)))

theorem loadInto_eq (g : Gang) (d : Reg) (signed : Bool) (bs : List Byte) (i : Nat) :
    loadInto g d signed bs i = putWrites g i (loadWrites d signed bs) := by
  unfold loadInto loadWrites
  dsimp only
  split
  · rfl
  · rw [putWrites, List.foldl_map]

theorem distinct_loadWrites (d : Reg) (signed : Bool) (bs : List Byte) : DistinctRegs (loadWrites d signed bs) := by
  unfold DistinctRegs loadWrites
  split
  · simp
  · rw [List.map_map]
    exact List.Nodup.map (fun a b h => by simpa using h) List.nodup_range

/-- A load writes no register beyond those that n bytes fill. -/
theorem loadWrites_range {d : Reg} {signed : Bool} {bs : List Byte} {n r : Nat} (hn : bs.length ≤ n)
    (h : r ∈ (loadWrites d signed bs).map (·.1)) : d.toNat ≤ r ∧ r < d.toNat + max 1 (n / 4) := by
  unfold loadWrites at h
  split at h
  · simp at h; omega
  · obtain ⟨q, hq, rfl⟩ : ∃ q, q < bs.length / 4 ∧ d.toNat + q = r := by simpa using h
    have : bs.length / 4 ≤ n / 4 := Nat.div_le_div_right hn
    omega

end Sys2Proof.Machine
end

section
/-! SUPPORT. Local memory (R31, R46, R257; O25): what one local write changes, and LDL and STL lane by lane. -/

namespace Sys2Proof.Machine

/-! ## One gang changed twice -/

theorem modGang_modGang (s : State) (u : Nat) (f f' : Gang → Gang) (hf : ∀ g, (f g).uid = g.uid) :
    modGang (modGang s u f) u f' = modGang s u fun g => f' (f g) := by
  unfold modGang
  simp only [List.map_map, State.mk.injEq, true_and, and_true]
  refine List.map_congr_left fun g _ => ?_
  simp only [Function.comp]
  split
  next h => rw [if_pos (by rw [hf, h])]
  next => rfl

theorem modGang_id (s : State) (u : Nat) : modGang s u (fun g => g) = s := by simp [modGang]

theorem putWrites_uid (g : Gang) (i : Nat) (l : List (Nat × Word)) : (putWrites g i l).uid = g.uid :=
  by simpa using congrArg Gang.uid (putWrites_rest g i l)

theorem foldWrites_uid (ws : Nat → List (Nat × Word)) (ls : List Nat) (g : Gang) :
    (ls.foldl (fun h i => putWrites h i (ws i)) g).uid = g.uid := by
  simpa using congrArg Gang.uid (foldWrites_rest ws ls g)

/-! ## Bytes of local memory -/

theorem localByte_congr {s t : State} {c : Nat} (h : cohort? t c = cohort? s c) (w o : Nat) : localByte t c w o = localByte s c w o := by
  simp only [localByte, localMem, h]

theorem cohort_modCohort_self {s : State} {u : Nat} {c : Cohort} (f : Cohort → Cohort) (h : cohort? s u = some c)
    (k : ∀ c, (f c).uid = c.uid) : cohort? (modCohort s u f) u = some (f c) := by
  unfold cohort? modCohort at *
  rw [List.find?_map]
  have same : ((fun c : Cohort => c.uid == u) ∘ fun c => if c.uid = u then f c else c) = fun c => c.uid == u := by
    funext c
    simp only [Function.comp]
    split
    · rw [k]
    · rfl
  have named : c.uid = u := by simpa using List.find?_some h
  rw [same, h, Option.map_some, if_pos named]

theorem cohort_modWg_self {s : State} {u : Nat} {c : Cohort} (h : cohort? s u = some c) (w : Nat) (f : Workgroup → Workgroup) :
    cohort? (modWg s u w f) u = some { c with wgs := c.wgs.modify w f } := cohort_modCohort_self _ h fun _ => rfl

/-- The cohort stands, with a workgroup of this number. -/
def HasWg (s : State) (c w : Nat) : Prop := ∃ h, cohort? s c = some h ∧ w < h.wgs.length

theorem hasWg_of_localOk {s : State} {c : Nat} {a : LocalAddr} (h : localOk s c a = true) : HasWg s c a.wg := by
  unfold localOk at h
  split at h
  · simp at h
  next k hk => exact ⟨k, hk, by simp at h; omega⟩

theorem HasWg.modWg {s : State} {c w : Nat} (h : HasWg s c w) (w' : Nat) (f : Workgroup → Workgroup) : HasWg (modWg s c w' f) c w := by
  obtain ⟨k, hk, hw⟩ := h
  exact ⟨_, cohort_modWg_self hk w' f, by simpa using hw⟩

/-- A change of a workgroup that leaves its memory as it is. -/
theorem localByte_modWg_of_mem {s : State} {c : Nat} (w' : Nat) (f : Workgroup → Workgroup) (hf : ∀ w, (f w).mem = w.mem) (w o : Nat) :
    localByte (modWg s c w' f) c w o = localByte s c w o := by
  cases hc : cohort? s c with
  | none =>
    have gone : cohort? (modWg s c w' f) c = none := by
      simp only [cohort?, modWg, modCohort, List.find?_map, Option.map_eq_none_iff, List.find?_eq_none] at hc ⊢
      intro x hx
      simpa [apply_ite Cohort.uid] using hc x hx
    exact localByte_congr (gone.trans hc.symm) w o
  | some k =>
    have same : (((k.wgs.modify w' f)[w]?).elim [] (·.mem)) = ((k.wgs[w]?).elim [] (·.mem) : List (Nat × Byte)) := by
      rw [List.getElem?_modify]
      cases k.wgs[w]? with
      | none => rfl
      | some x => simp [apply_ite Workgroup.mem, hf]
    simp only [localByte, localMem, cohort_modWg_self hc, hc, Option.bind_some, workgroup?]
    rw [same]

/-- What one local write changes: the bytes from its offset on in its workgroup (R257). -/
theorem localByte_localWrite {s : State} {c wg : Nat} (h : HasWg s c wg) (off : Nat) (bs : List Byte) (w o : Nat) :
    localByte (localWrite s c wg off bs) c w o =
      if w = wg ∧ off ≤ o ∧ o < off + bs.length then bs.getD (o - off) 0 else localByte s c w o := by
  obtain ⟨k, hk, hw⟩ := h
  simp only [localByte, localMem, localWrite, cohort_modWg_self hk, hk, Option.bind_some, workgroup?, List.getElem?_modify]
  by_cases e : w = wg
  · subst e
    rw [List.getElem?_eq_getElem hw]
    have bytes := read_writeUp (readK 0#8) (putK 0#8) id (fun a b v m => readK_putK 0#8 a b v m) off bs
    simp [bytes, List.getD_eq_getElem?_getD]
  · simp [e, Ne.symm e]

/-! ## LDL (R257) -/

/-- What lane i loads from the local memory of s. -/
def localWords (s : State) (c : Nat) (d : Reg) (n : Nat) (y : LocalAddr) : List (Nat × Word) :=
  loadWrites d false (localBytes s c y.wg y.off n)

theorem ldlLanes (s : State) (u c : Nat) (d : Reg) (n : Nat) (y : Nat → LocalAddr) (ls : List Nat)
    (clean : ∀ i ∈ ls, localPoisoned s c (y i).wg (y i).off n = false) :
    (ls.map fun i => (i, y i)).foldl (ldlLane u c d n) (s, []) =
      (modGang s u fun g => ls.foldl (fun h i => putWrites h i (localWords s c d n (y i))) g, []) := by
  induction ls generalizing s with
  | nil => simp [modGang_id]
  | cons i ls ih =>
    have one : ldlLane u c d n (s, []) (i, y i) = (modGang s u fun h => putWrites h i (localWords s c d n (y i)), []) := by
      simp only [ldlLane, clean i List.mem_cons_self, loadInto_eq]
      rfl
    rw [List.map_cons, List.foldl_cons, one, ih (modGang s u _) fun j hj => clean j (List.mem_cons_of_mem _ hj),
      modGang_modGang _ _ _ _ fun g => putWrites_uid g i _]
    rfl

/-! ## STL (R257) -/

theorem stlLane_localByte {s : State} {g : Gang} {y : LocalAddr} (h : HasWg s g.cohort y.wg) (d : Reg) {n : Nat} (hn : AccessSize n)
    (i w o : Nat) : localByte (stlLane g d n s (i, y)) g.cohort w o =
      if w = y.wg ∧ y.off ≤ o ∧ o < y.off + n then (getReg g (d.toNat + (o - y.off) / 4) i).extractLsb' (8 * ((o - y.off) % 4)) 8
      else localByte s g.cohort w o := by
  have written : localByte (stlLane g d n s (i, y)) g.cohort w o =
      localByte (localWrite s g.cohort y.wg y.off (storeBytes g d n i)) g.cohort w o := by
    unfold stlLane
    dsimp only
    split
    · rfl
    · apply localByte_modWg_of_mem
      exact fun _ => rfl
  rw [written, localByte_localWrite h, storeBytes_length g d hn]
  split
  next e =>
    obtain ⟨-, lo, hi⟩ := e
    rw [List.getD_eq_getElem?_getD, storeBytes_getElem? g d hn i (by omega), Option.getD_some]
  next => rfl

theorem stlLane_hasWg {s : State} {g : Gang} {w : Nat} (h : HasWg s g.cohort w) (d : Reg) (n : Nat) (o : Nat × LocalAddr) :
    HasWg (stlLane g d n s o) g.cohort w := by
  have stored := h.modWg (s := s) o.2.wg fun x => { x with
    mem := ((List.range (storeBytes g d n o.1).length).zip (storeBytes g d n o.1)).foldl (fun m p => putK 0#8 (o.2.off + p.1) p.2 m) x.mem,
    poison := x.poison.filter fun z => !(decide (o.2.off ≤ z) && decide (z + 4 ≤ o.2.off + (storeBytes g d n o.1).length)) }
  unfold stlLane
  dsimp only
  split
  · exact stored
  · exact HasWg.modWg stored _ _

theorem stlLane_frame (s : State) (g : Gang) (d : Reg) (n : Nat) (o : Nat × LocalAddr) :
    (stlLane g d n s o).mem = s.mem ∧ (stlLane g d n s o).gangs = s.gangs := by
  unfold stlLane
  dsimp only
  split <;> exact ⟨rfl, rfl⟩

section
variable {g : Gang} {d : Reg} {n : Nat} {y : Nat → LocalAddr}

theorem stlLanes_frame (s : State) (ls : List Nat) :
    ((ls.map fun i => (i, y i)).foldl (stlLane g d n) s).mem = s.mem ∧
      ((ls.map fun i => (i, y i)).foldl (stlLane g d n) s).gangs = s.gangs := by
  induction ls generalizing s with
  | nil => exact ⟨rfl, rfl⟩
  | cons i ls ih =>
    obtain ⟨hm, hg⟩ := stlLane_frame s g d n (i, y i)
    obtain ⟨hm', hg'⟩ := ih (stlLane g d n s (i, y i))
    exact ⟨hm'.trans hm, hg'.trans hg⟩

/-- A local byte that no lane stores to. -/
theorem stlLanes_kept (hn : AccessSize n) {s : State} {ls : List Nat} (hw : ∀ i ∈ ls, HasWg s g.cohort (y i).wg) {w o : Nat}
    (away : ∀ i ∈ ls, ¬((y i).wg = w ∧ (y i).off ≤ o ∧ o < (y i).off + n)) :
    localByte ((ls.map fun i => (i, y i)).foldl (stlLane g d n) s) g.cohort w o = localByte s g.cohort w o := by
  induction ls generalizing s with
  | nil => rfl
  | cons i ls ih =>
    have first : ¬(w = (y i).wg ∧ (y i).off ≤ o ∧ o < (y i).off + n) := fun h =>
      away i List.mem_cons_self ⟨h.1.symm, h.2⟩
    rw [List.map_cons, List.foldl_cons, ih (fun j hj => stlLane_hasWg (hw j (List.mem_cons_of_mem _ hj)) d n _)
      (fun j hj => away j (List.mem_cons_of_mem _ hj)), stlLane_localByte (hw i List.mem_cons_self) d hn, if_neg first]

/-- The byte that lane i stores, where no later lane of the list stores to it too. -/
theorem stlLanes_stored (hn : AccessSize n) {s : State} {ls : List Nat} (rising : ls.Pairwise (· < ·))
    (hw : ∀ i ∈ ls, HasWg s g.cohort (y i).wg) {i q : Nat} (hi : i ∈ ls) (hq : q < n)
    (last : ∀ j ∈ ls, i < j → ¬((y j).wg = (y i).wg ∧ (y j).off ≤ (y i).off + q ∧ (y i).off + q < (y j).off + n)) :
    localByte ((ls.map fun i => (i, y i)).foldl (stlLane g d n) s) g.cohort (y i).wg ((y i).off + q) =
      (getReg g (d.toNat + q / 4) i).extractLsb' (8 * (q % 4)) 8 := by
  induction ls generalizing s with
  | nil => cases hi
  | cons k ls ih =>
    obtain ⟨below, rising'⟩ := List.pairwise_cons.mp rising
    have hw' : ∀ j ∈ ls, HasWg (stlLane g d n s (k, y k)) g.cohort (y j).wg := fun j hj =>
      stlLane_hasWg (hw j (List.mem_cons_of_mem _ hj)) d n _
    rw [List.map_cons, List.foldl_cons]
    rcases List.mem_cons.mp hi with rfl | hi
    · rw [stlLanes_kept hn hw' fun j hj => last j (List.mem_cons_of_mem _ hj) (below j hj),
        stlLane_localByte (hw i List.mem_cons_self) d hn, if_pos ⟨rfl, by omega, by omega⟩, Nat.add_sub_cancel_left]
    · exact ih rising' hw' hi fun j hj => last j (List.mem_cons_of_mem _ hj)

end

/-! ## The two instructions -/

theorem lanesOf_rising (m : LaneMask) : (lanesOf m).Pairwise (· < ·) := List.Pairwise.filter _ List.pairwise_lt_range

theorem scoreWait_clear {s : State} {c : Nat} {rs : List (Nat × Nat × Nat)} (h : ∀ r ∈ rs, overlaps s c r.1 r.2.1 r.2.2 = []) :
    scoreWait s c rs = some s := by
  have none : (rs.flatMap fun r => overlaps s c r.1 r.2.1 r.2.2) = [] := List.flatMap_eq_nil_iff.mpr h
  simp [scoreWait, none]

section
variable {s : State} {it : Issue} {g : Gang} {m : MemOp} {y : Nat → LocalAddr}
  (pass : ∀ i ∈ lanesOf (execMask g it), localCheck s g (2 ^ m.sz.toNat)
    (localEa g (localBase g it (execMask g it) m.base m.x) m.off (2 ^ m.sz.toNat) i) = .ok (y i))
  (free : ∀ i ∈ lanesOf (execMask g it), overlaps s g.cohort (y i).wg (y i).off ((y i).off + 2 ^ m.sz.toNat) = [])

include pass in
theorem localLanes_pass : localLanes s g (execMask g it) (localBase g it (execMask g it) m.base m.x) m.off (2 ^ m.sz.toNat) =
    (lanesOf (execMask g it)).map fun i => (i, .ok (y i)) :=
  List.map_congr_left fun i h => by rw [pass i h]

include free in
theorem localRanges_clear : scoreWait s g.cohort (localRanges (2 ^ m.sz.toNat) ((lanesOf (execMask g it)).map fun i => (i, y i))) =
    some s := by
  refine scoreWait_clear fun r hr => ?_
  obtain ⟨i, h, rfl⟩ : ∃ i ∈ lanesOf (execMask g it), ((y i).wg, (y i).off, (y i).off + 2 ^ m.sz.toNat) = r := by
    simpa [localRanges] using hr
  exact free i h

include pass free

theorem execLdl_next (hi : Issues s it g) (alive : g.live &&& g.launchMask ≠ 0#32)
    (clean : ∀ i ∈ lanesOf (execMask g it), localPoisoned s g.cohort (y i).wg (y i).off (2 ^ m.sz.toNat) = false) :
    ∃ k, Leaves s it.gang (exec (.ldl m) s) k ∧
      Writes g k (execMask g it) fun i => localWords s g.cohort m.d (2 ^ m.sz.toNat) (y i) := by
  let f := fun h : Gang => (lanesOf (execMask g it)).foldl (fun h i => putWrites h i (localWords s g.cohort m.d (2 ^ m.sz.toNat) (y i))) h
  have w : Writes g (f g) (execMask g it) _ := writes_fold g _ _ fun i => distinct_loadWrites m.d false _
  have hk : gang? (modGang s it.gang f) it.gang = some (f g) := gang_modGang_self f hi.gang w.uid
  have living : (f g).live &&& (f g).launchMask ≠ 0#32 := by
    have live : (f g).live = g.live := by simpa using congrArg Gang.live w.rest
    have launched : (f g).launchMask = g.launchMask := by simpa using congrArg Gang.launchMask w.rest
    rwa [live, launched]
  refine ⟨f g, ⟨modGang s it.gang f, ?_, hk, fun a ha => gang_modGang_ne s f (fun h => foldWrites_uid _ _ h) ha, rfl⟩, w⟩
  rw [exec_ldl, execLdl, withGang_of hi]
  simp only [sizeBHWD]
  rw [localLanes_pass pass, laneOks_ok, localRanges_clear free, laneFails_ok]
  simp only [ldlLanes s it.gang g.cohort m.d _ y _ clean]
  exact finishLanes_done hk living ..

theorem execStl_next (hi : Issues s it g) (alive : g.live &&& g.launchMask ≠ 0#32) : exec (.stl m) s =
    .next (((lanesOf (execMask g it)).map fun i => (i, y i)).foldl (stlLane g m.d (2 ^ m.sz.toNat)) s) := by
  rw [exec_stl, execStl, withGang_of hi]
  simp only [sizeBHWD]
  rw [localLanes_pass pass, laneOks_ok, localRanges_clear free, laneFails_ok]
  refine finishLanes_done (k := g) ?_ alive ..
  rw [← hi.gang, gang?, (stlLanes_frame s _).2, gang?]

end

/-- Settles O25: LDL is one fold of register writes over the lanes, STL one fold of local writes, of which the last at a byte stands. -/
theorem localAccesses : Obligations.LocalAccesses := by
  intro s it g m y hi alive lanes l n base ea addr free
  have pass : ∀ i ∈ lanes, localCheck s g n (localEa g (localBase g it (execMask g it) m.base m.x) m.off n i) = .ok (y i) := by
    intro i h
    obtain ⟨aligned, ok, named⟩ := addr i h
    have same : localEa g (localBase g it (execMask g it) m.base m.x) m.off n i = ea i := rfl
    rw [same, localCheck, if_neg (by simpa using aligned), if_pos ok, named]
  have there : ∀ i ∈ lanes, HasWg s g.cohort (y i).wg := by
    intro i h
    obtain ⟨-, ok, named⟩ := addr i h
    exact named ▸ hasWg_of_localOk ok
  have size : AccessSize n := accessSize_pow m.sz
  refine ⟨fun clean => ?_, _, execStl_next pass free hi alive, (stlLanes_frame s _).1, (stlLanes_frame s _).2, ?_, ?_⟩
  · obtain ⟨k, left, writes⟩ := execLdl_next pass free hi alive clean
    refine ⟨k, left, ?_⟩
    convert writes using 2 with i
    simp [localWords, loadWrites, shortValue, localBytes, n]
  · exact fun w o away => stlLanes_kept size there away
  · exact fun i h q hq last => stlLanes_stored size (lanesOf_rising _) there h hq last

end Sys2Proof.Machine
end

section
/-! SUPPORT. Tracked loads and stores of the lanes (R24, R256; O22): what an access through a translation may change, lane by
lane. -/

namespace Sys2Proof.Machine

/-! ## What the accesses of one gang may change -/

/-- From s to t only bytes of P have changed in memory, no line's poison flag, and no gang but `uid`, which stands in the relation
R to what it was. -/
structure Touches (uid : Nat) (P : Nat → Prop) (R : Gang → Gang → Prop) (s t : State) : Prop where
  mem : ∀ a, ¬P a → memByte t a = memByte s a
  linePoison : t.linePoison = s.linePoison
  others : ∀ a, a ≠ uid → gang? t a = gang? s a
  gang : ∀ g, gang? s uid = some g → ∃ k, gang? t uid = some k ∧ R g k

section
variable {uid : Nat} {P Q : Nat → Prop} {R : Gang → Gang → Prop} {s t u : State}

theorem Touches.of_same (refl : ∀ g, R g g) (mem : t.mem = s.mem) (linePoison : t.linePoison = s.linePoison) (gangs : t.gangs = s.gangs) :
    Touches uid P R s t :=
  ⟨fun _ _ => by simp only [memByte, mem], linePoison, fun _ _ => by simp only [gang?, gangs],
    fun g hg => ⟨g, by rwa [gang?, gangs], refl g⟩⟩

theorem Touches.trans (through : ∀ ⦃g k l⦄, R g k → R k l → R g l) (h : Touches uid P R s t) (k : Touches uid P R t u) :
    Touches uid P R s u := by
  refine ⟨fun a ha => (k.mem a ha).trans (h.mem a ha), k.linePoison.trans h.linePoison,
    fun a ha => (k.others a ha).trans (h.others a ha), fun g hg => ?_⟩
  obtain ⟨g', hg', r⟩ := h.gang g hg
  obtain ⟨g'', hg'', r'⟩ := k.gang g' hg'
  exact ⟨g'', hg'', through r r'⟩

theorem Touches.thenIf (through : ∀ ⦃g k l⦄, R g k → R k l → R g l) (h : Touches uid P R s t) (k : Touches uid P R t u) (c : Prop)
    [Decidable c] : Touches uid P R s (if c then u else t) := by
  split
  · exact h.trans through k
  · exact h

theorem Touches.modGang {f : Gang → Gang} (name : ∀ g, (f g).uid = g.uid) (rel : ∀ g, R g (f g)) :
    Touches uid P R s (modGang s uid f) :=
  ⟨fun _ _ => rfl, rfl, fun _ ha => gang_modGang_ne s f name ha, fun g hg => ⟨f g, gang_modGang_self f hg (name g), rel g⟩⟩

end

/-! ## The A and D bits (R24) -/

theorem notePage_frame (s : State) (x : Xlat) :
    (notePage s x).mem = s.mem ∧ (notePage s x).linePoison = s.linePoison ∧ (notePage s x).gangs = s.gangs := by
  unfold notePage
  split <;> exact ⟨rfl, rfl, rfl⟩

/-- The entry stands as it is, or is written with bits set. -/
theorem setAD_cases (s : State) (x : Xlat) (wr : Bool) :
    setAD s x wr = notePage s x ∨ ∃ v, setAD s x wr = rawWrite (notePage s x) x.entry (bytesOf 8 v) := by
  unfold setAD
  extract_lets t e e'
  split
  · exact .inl rfl
  · split
    · exact .inl rfl
    · exact .inr ⟨_, rfl⟩

theorem Touches.setAD {uid : Nat} {P : Nat → Prop} {R : Gang → Gang → Prop} (refl : ∀ g, R g g) (s : State) (x : Xlat) (wr : Bool)
    (inside : ∀ a, x.entry ≤ a ∧ a < x.entry + 8 → P a) : Touches uid P R s (setAD s x wr) := by
  obtain ⟨mem, poison, gangs⟩ := notePage_frame s x
  rcases setAD_cases s x wr with e | ⟨v, e⟩
  · rw [e]
    exact .of_same refl mem poison gangs
  · rw [e]
    refine ⟨fun a ha => ?_, poison, fun _ _ => (gang_rawWrite ..).trans (by simp only [gang?, gangs]),
      fun g hg => ⟨g, by rwa [gang_rawWrite, gang?, gangs], refl g⟩⟩
    rw [memByte_rawWrite, bytesOf_length, if_neg fun c => ha (inside a c)]
    simp only [memByte, mem]

/-! ## A tracked load -/

/-- The gang k is g but for what a load keeps of itself: registers, the read record, the lease's window and the lines seen. -/
def asBeforeLoad (g k : Gang) : Gang :=
  { k with regs := g.regs, regPoison := g.regPoison, span := g.span, lease := g.lease, seen := g.seen }

/-- What loads that write no register outside W do to their gang. -/
structure Loaded (W : Nat → Nat → Prop) (g k : Gang) : Prop where
  ver : k.span.ver = g.span.ver
  rest : asBeforeLoad g k = g
  regs : ∀ r i, i < 32 → ¬W r i → getReg k r i = getReg g r i

theorem Loaded.refl (W : Nat → Nat → Prop) (g : Gang) : Loaded W g g := ⟨rfl, rfl, fun _ _ _ _ => rfl⟩

theorem Loaded.trans {W : Nat → Nat → Prop} ⦃g k l : Gang⦄ (h : Loaded W g k) (h' : Loaded W k l) : Loaded W g l where
  ver := h'.ver.trans h.ver
  rest := calc asBeforeLoad g l = asBeforeLoad g (asBeforeLoad k l) := rfl
    _ = asBeforeLoad g k := by rw [h'.rest]
    _ = g := h.rest
  regs r i hi hw := (h'.regs r i hi hw).trans (h.regs r i hi hw)

theorem recordRead_ver (sp : Span) (line : Nat) (words : List Nat) (fill : Option Nat) : (recordRead sp line words fill).ver = sp.ver := by
  unfold recordRead
  dsimp only
  split
  · rfl
  · split <;> rfl

theorem foldSee_loaded (W : Nat → Nat → Prop) (t : Nat) (ls : List Nat) (g : Gang) : Loaded W g (ls.foldl (fun g l => see l t g) g) := by
  induction ls generalizing g with
  | nil => exact .refl W g
  | cons l ls ih => exact (show Loaded W g (see l t g) from ⟨rfl, rfl, fun _ _ _ _ => rfl⟩).trans (ih (see l t g))

section
variable {uid : Nat} {P : Nat → Prop} {W : Nat → Nat → Prop}

theorem touchWindow_touches (s : State) (line : Nat) : Touches uid P (Loaded W) s (touchWindow s uid line) := by
  refine .modGang (fun g => ?_) fun g => ?_ <;> split
  · rfl
  · rfl
  · exact .refl W g
  · exact ⟨rfl, rfl, fun _ _ _ _ => rfl⟩

theorem noteSeen_touches (s : State) (ls : List Nat) (t : Nat) : Touches uid P (Loaded W) s (noteSeen s uid ls t) :=
  .modGang (fun g => by simpa [asBeforeLoad] using congrArg Gang.uid (foldSee_loaded W t ls g).rest) (foldSee_loaded W t ls)

theorem lostLocality_touches (s : State) (core line : Nat) : Touches uid P (Loaded W) s (lostLocality s core uid line) := by
  unfold lostLocality
  split
  · refine .trans Loaded.trans (.of_same (Loaded.refl W) ?_ ?_ ?_) (.modGang (fun _ => rfl) fun _ => ⟨rfl, rfl, fun _ _ _ _ => rfl⟩) <;> rfl
  · exact .of_same (Loaded.refl W) rfl rfl rfl

theorem l1Fill_touches (s : State) (core : Nat) (x : Xlat) (engine : Bool) : Touches uid P (Loaded W) s (l1Fill s core uid x engine) :=
  .of_same (Loaded.refl W) rfl rfl rfl

/-- What a tracked load does to the L1 and the lease. -/
theorem l1Access_touches (s : State) (core line : Nat) (x : Xlat) (c c' c'' : Prop) [Decidable c] [Decidable c'] [Decidable c''] :
    Touches uid P (Loaded W) s (
      let s := if c then touchWindow s uid line else s
      let s := if c' then lostLocality s core uid line else s
      if c'' then l1Fill s core uid x false else s) :=
  let through := Loaded.trans (W := W)
  .thenIf through (.thenIf through (.thenIf through (.of_same (Loaded.refl W) rfl rfl rfl) (touchWindow_touches s _) c)
    (lostLocality_touches _ _ _) c') (l1Fill_touches _ _ _ _) c''

theorem trackedLoad_touches (s : State) (x : Xlat) (n : Nat) : Touches uid P (Loaded W) s (trackedLoad s uid x n).1 := by
  unfold trackedLoad
  split
  · exact .of_same (Loaded.refl W) rfl rfl rfl
  · refine .trans Loaded.trans ?seen (.modGang (fun _ => rfl) fun g => ⟨?ver, rfl, fun _ _ _ _ => rfl⟩)
    case seen =>
      split
      · exact (l1Access_touches s ..).trans Loaded.trans (noteSeen_touches _ _ _)
      · split
        · exact (l1Access_touches s ..).trans Loaded.trans (noteSeen_touches _ _ _)
        · exact l1Access_touches s ..
    case ver => simp only [noteLeaf, apply_ite Span.ver, recordRead_ver, ite_self]

end

theorem trackedLoad_length (s : State) (uid : Nat) (x : Xlat) (n : Nat) : (trackedLoad s uid x n).2.1.length ≤ n := by
  unfold trackedLoad
  split
  · exact Nat.zero_le n
  · simp [loadPlan]

theorem trackedLoad_clean {s : State} {x : Xlat} (page : x.poison = false) (line : lineOf x.pa ∉ s.linePoison) (uid n : Nat) :
    (trackedLoad s uid x n).2.2 = false := by
  unfold trackedLoad
  split
  · rfl
  · simp [homeBytes, page, line, apply_ite State.linePoison, touchWindow]

theorem loadInto_loaded {W : Nat → Nat → Prop} {d : Reg} {bs : List Byte} {n i : Nat} (hi : i < 32) (hn : bs.length ≤ n)
    (inside : ∀ r, d.toNat ≤ r ∧ r < d.toNat + max 1 (n / 4) → W r i) (signed : Bool) (g : Gang) :
    Loaded W g (loadInto g d signed bs i) := by
  have rest := putWrites_rest g i (loadWrites d signed bs)
  rw [loadInto_eq]
  refine ⟨?_, ?_, fun r j hj hw => (putWrites_kept g i hi _ r j hj ?_).1⟩
  · simpa using congrArg (·.span.ver) rest
  · calc asBeforeLoad g (putWrites g i (loadWrites d signed bs))
        = asBeforeLoad g { putWrites g i (loadWrites d signed bs) with regs := g.regs, regPoison := g.regPoison } := rfl
      _ = g := by rw [rest]; rfl
  · rintro ⟨rfl, hr⟩
    exact hw (inside r (loadWrites_range hn hr))

/-! ## Lanes that load -/

/-- One lane of a load, as O22 says it. -/
def loadStep (uid : Nat) (d : Reg) (signed : Bool) (n : Nat) (x : Nat → Xlat) (t : State) (i : Nat) : State :=
  modGang (setAD (trackedLoad t uid (x i) n).1 (x i) false) uid fun k => loadInto k d signed (trackedLoad t uid (x i) n).2.1 i

section
variable {uid : Nat} {d : Reg} {signed : Bool} {n : Nat} {x : Nat → Xlat}

theorem loadStep_touches {P : Nat → Prop} {W : Nat → Nat → Prop} {i : Nat} (hi : i < 32) (t : State)
    (entry : ∀ a, (x i).entry ≤ a ∧ a < (x i).entry + 8 → P a) (regs : ∀ r, d.toNat ≤ r ∧ r < d.toNat + max 1 (n / 4) → W r i) :
    Touches uid P (Loaded W) t (loadStep uid d signed n x t i) := by
  have into := loadInto_loaded hi (trackedLoad_length t uid (x i) n) regs signed
  refine .trans Loaded.trans (trackedLoad_touches t (x i) n) <| .trans Loaded.trans (.setAD (Loaded.refl W) _ _ _ entry) <|
    .modGang (fun g => ?_) into
  simpa [asBeforeLoad] using congrArg Gang.uid (into g).rest

theorem loadSteps_touches {P : Nat → Prop} {W : Nat → Nat → Prop} {ls : List Nat} (hl : ∀ i ∈ ls, i < 32) (t : State)
    (entry : ∀ i ∈ ls, ∀ a, (x i).entry ≤ a ∧ a < (x i).entry + 8 → P a)
    (regs : ∀ i ∈ ls, ∀ r, d.toNat ≤ r ∧ r < d.toNat + max 1 (n / 4) → W r i) :
    Touches uid P (Loaded W) t (ls.foldl (loadStep uid d signed n x) t) := by
  induction ls generalizing t with
  | nil => exact .of_same (Loaded.refl W) rfl rfl rfl
  | cons i ls ih =>
    exact (loadStep_touches (hl i List.mem_cons_self) t (entry i List.mem_cons_self) (regs i List.mem_cons_self)).trans Loaded.trans
      (ih (fun j hj => hl j (List.mem_cons_of_mem _ hj)) _ (fun j hj => entry j (List.mem_cons_of_mem _ hj))
        fun j hj => regs j (List.mem_cons_of_mem _ hj))

theorem loadStep_linePoison {t : State} {i : Nat} : (loadStep uid d signed n x t i).linePoison = t.linePoison :=
  (Touches.trans (R := Loaded fun _ _ => True) (P := fun _ => True) Loaded.trans (trackedLoad_touches t (x i) n)
    (.setAD (Loaded.refl _) _ (x i) false fun _ _ => trivial)).linePoison

/-- No lane of the fold meets poison: none dies. -/
theorem loadLanes_eq {va : Nat → DWord} {ls : List Nat} {t : State} (page : ∀ i ∈ ls, (x i).poison = false)
    (line : ∀ i ∈ ls, lineOf (x i).pa ∉ t.linePoison) :
    (ls.map fun i => (i, va i, x i)).foldl (loadLane uid d signed n) (t, []) = (ls.foldl (loadStep uid d signed n x) t, []) := by
  induction ls generalizing t with
  | nil => rfl
  | cons i ls ih =>
    have one : loadLane uid d signed n (t, []) (i, va i, x i) = (loadStep uid d signed n x t i, []) := by
      simp only [loadLane, trackedLoad_clean (page i List.mem_cons_self) (line i List.mem_cons_self)]
      rfl
    rw [List.map_cons, List.foldl_cons, one, List.foldl_cons]
    exact ih (fun j hj => page j (List.mem_cons_of_mem _ hj))
      fun j hj => by rw [loadStep_linePoison]; exact line j (List.mem_cons_of_mem _ hj)

end

end Sys2Proof.Machine
end

section
/-! SUPPORT. Stores of the lanes into the span's version, and LD, LDS, ST and STQ (R67, R256; O22). -/

namespace Sys2Proof.Machine

/-! ## Requests -/

theorem Touches.of_keepAsks {uid : Nat} {P : Nat → Prop} {R : Gang → Gang → Prop} {s t : State} (refl : ∀ g, R g g) (h : keepAsks s t = t) :
    Touches uid P R s t := by
  rw [← h]
  exact .of_same refl rfl rfl rfl

theorem versionRoom_keeps (s : State) (uid line : Nat) : keepAsks s (versionRoom s uid line) = versionRoom s uid line := by
  unfold versionRoom
  split
  · rfl
  · split
    · rfl
    · exact llcRoom_keeps s line

theorem askVersions_keeps (s : State) (who : Asker) (region : Nat) (ls : List Nat) :
    keepAsks s (askVersions s who region ls).1 = (askVersions s who region ls).1 := by
  induction ls generalizing s with
  | nil => rfl
  | cons l ls ih => exact keepAsks_trans (ask_keeps s who region .version _ l 1) (ih _)

theorem storeGate_keeps {s u : State} {g : Gang} {it : Issue} {pas : List Nat} (h : storeGate s g it pas = .go u) : keepAsks s u = u := by
  have asked := askVersions_keeps s (.gang it.gang it.split) (regionOf s g) (newVersionLines g.span pas)
  unfold storeGate at h
  dsimp only at h
  split at h
  · cases h
  · split at h
    · split at h <;> cases h
    · split at h
      next e => rw [e] at asked; cases h; exact asked
      next => cases h

/-! ## A tracked store -/

/-- The gang with bytes entered into its version. -/
def storeInto (x : Xlat) (bs : List Byte) (g : Gang) : Gang :=
  { g with span := noteLeaf { g.span with
      ver := ((List.range bs.length).zip bs).foldl (fun v p => setK (x.pa + p.1) p.2 v) g.span.ver } x }

theorem getK_storeInto (x : Xlat) (bs : List Byte) (g : Gang) (a : Nat) : getK a (storeInto x bs g).span.ver =
    if x.pa ≤ a ∧ a < x.pa + bs.length then some (bs.getD (a - x.pa) 0) else getK a g.span.ver := by
  refine read_writeUp (fun a v => getK a v) setK some (fun a b v m => ?_) x.pa bs g.span.ver a
  split
  next e => rw [e, getK_setK_self]
  next e => exact getK_setK_ne e v m

/-- What stores to addresses of A do to their gang. -/
structure Stored (A : Nat → Prop) (g k : Gang) : Prop where
  rest : { k with span := g.span } = g
  reads : k.span.reads = g.span.reads
  kept : ∀ a, ¬A a → getK a k.span.ver = getK a g.span.ver

theorem Stored.refl (A : Nat → Prop) (g : Gang) : Stored A g g := ⟨rfl, rfl, fun _ _ => rfl⟩

theorem Stored.trans {A : Nat → Prop} ⦃g k l : Gang⦄ (h : Stored A g k) (h' : Stored A k l) : Stored A g l where
  rest := by
    have inner : { l with span := g.span } = { ({ l with span := k.span } : Gang) with span := g.span } := rfl
    rw [inner, h'.rest, h.rest]
  reads := h'.reads.trans h.reads
  kept a ha := (h'.kept a ha).trans (h.kept a ha)

theorem Stored.regs {A : Nat → Prop} {g k : Gang} (h : Stored A g k) : k.regs = g.regs := by
  simpa using congrArg Gang.regs h.rest

/-! ## Lanes that store -/

/-- One lane of a store, as O22 says it: the data come from the gang g before the instruction. -/
def storeStep (uid : Nat) (g : Gang) (d : Reg) (n : Nat) (x : Nat → Xlat) (t : State) (i : Nat) : State :=
  setAD (trackedStore t uid (x i) (storeBytes g d n i)) (x i) true

section
variable {uid : Nat} {g : Gang} {d : Reg} {n : Nat} {x : Nat → Xlat}

/-- The bytes of memory of a lane's access. -/
def covers (x : Nat → Xlat) (n i a : Nat) : Prop := (x i).pa ≤ a ∧ a < (x i).pa + n

theorem storeStep_touches {P A : Nat → Prop} (hn : AccessSize n) {i : Nat} (t : State)
    (entry : ∀ a, (x i).entry ≤ a ∧ a < (x i).entry + 8 → P a) (inside : ∀ a, covers x n i a → A a) :
    Touches uid P (Stored A) t (storeStep uid g d n x t i) := by
  refine .trans Stored.trans (.of_keepAsks (Stored.refl A) (versionRoom_keeps t uid _)) <|
    .trans Stored.trans (.modGang (f := storeInto (x i) (storeBytes g d n i)) (fun _ => rfl) fun k => ⟨rfl, rfl, fun a ha => ?_⟩) <|
    .setAD (Stored.refl A) _ _ _ entry
  have away : ¬((x i).pa ≤ a ∧ a < (x i).pa + n) := fun c => ha (inside a c)
  rw [getK_storeInto, storeBytes_length g d hn, if_neg away]

theorem storeSteps_touches {P A : Nat → Prop} (hn : AccessSize n) {ls : List Nat} (t : State)
    (entry : ∀ i ∈ ls, ∀ a, (x i).entry ≤ a ∧ a < (x i).entry + 8 → P a) (inside : ∀ i ∈ ls, ∀ a, covers x n i a → A a) :
    Touches uid P (Stored A) t (ls.foldl (storeStep uid g d n x) t) := by
  induction ls generalizing t with
  | nil => exact .of_same (Stored.refl A) rfl rfl rfl
  | cons i ls ih =>
    exact (storeStep_touches hn t (entry i List.mem_cons_self) (inside i List.mem_cons_self)).trans Stored.trans
      (ih _ (fun j hj => entry j (List.mem_cons_of_mem _ hj)) fun j hj => inside j (List.mem_cons_of_mem _ hj))

theorem storeStep_version (hn : AccessSize n) {t : State} {k : Gang} (hk : gang? t uid = some k) {i q : Nat} (hq : q < n) :
    ∃ k', gang? (storeStep uid g d n x t i) uid = some k' ∧
      getK ((x i).pa + q) k'.span.ver = some ((getReg g (d.toNat + q / 4) i).extractLsb' (8 * (q % 4)) 8) := by
  have room : gang? (versionRoom t uid (lineOf (x i).pa)) uid = some k := by
    rwa [gang?, (keepAsks_frame (versionRoom_keeps t uid _)).2.1]
  have into : gang? (trackedStore t uid (x i) (storeBytes g d n i)) uid = some (storeInto (x i) (storeBytes g d n i) k) :=
    gang_modGang_self _ room rfl
  obtain ⟨k', hk', rfl⟩ := (Touches.setAD (P := fun _ => True) (R := fun g k => k = g) (fun _ => rfl) _ (x i) true fun _ _ => trivial).gang _ into
  refine ⟨_, hk', ?_⟩
  rw [getK_storeInto, storeBytes_length g d hn, if_pos ⟨by omega, by omega⟩, Nat.add_sub_cancel_left, List.getD_eq_getElem?_getD,
    storeBytes_getElem? g d hn i hq, Option.getD_some]

/-- The byte that lane i stores, where no later lane of the list stores to it too. -/
theorem storeSteps_version (hn : AccessSize n) {ls : List Nat} (rising : ls.Pairwise (· < ·)) {t : State} {k : Gang}
    (hk : gang? t uid = some k) {i q : Nat} (hi : i ∈ ls) (hq : q < n) (last : ∀ j ∈ ls, i < j → ¬covers x n j ((x i).pa + q)) :
    ∃ k', gang? (ls.foldl (storeStep uid g d n x) t) uid = some k' ∧
      getK ((x i).pa + q) k'.span.ver = some ((getReg g (d.toNat + q / 4) i).extractLsb' (8 * (q % 4)) 8) := by
  induction ls generalizing t k with
  | nil => cases hi
  | cons j ls ih =>
    obtain ⟨below, rising'⟩ := List.pairwise_cons.mp rising
    rw [List.foldl_cons]
    rcases List.mem_cons.mp hi with rfl | hi
    · obtain ⟨k', hk', stored⟩ := storeStep_version (g := g) (d := d) (x := x) hn hk hq
      have later := storeSteps_touches (uid := uid) (g := g) (d := d) (P := fun _ => True) (A := fun a => ∃ j ∈ ls, covers x n j a) hn
        (storeStep uid g d n x t i) (fun _ _ _ _ => trivial) fun j hj a ha => ⟨j, hj, ha⟩
      obtain ⟨k'', hk'', st⟩ := later.gang k' hk'
      refine ⟨k'', hk'', (st.kept _ ?_).trans stored⟩
      rintro ⟨j, hj, c⟩
      exact last j (List.mem_cons_of_mem _ hj) (below j hj) c
    · obtain ⟨k', hk', -⟩ := storeStep_version (g := g) (d := d) (x := x) (i := j) hn hk (q := 0) (by omega)
      exact ih rising' hk' hi fun j hj => last j (List.mem_cons_of_mem _ hj)

/-- The lanes store what the gang held before the instruction: a store changes no register. -/
theorem storeLanes_eq (hn : AccessSize n) {va : Nat → DWord} {ls : List Nat} {t : State} {k : Gang} (hk : gang? t uid = some k) (regs : k.regs = g.regs) :
    (ls.map fun i => (i, va i, x i)).foldl (storeLane uid d n) t = ls.foldl (storeStep uid g d n x) t := by
  induction ls generalizing t k with
  | nil => rfl
  | cons i ls ih =>
    have one : storeLane uid d n t (i, va i, x i) = storeStep uid g d n x t i := by
      simp only [storeLane, hk, storeBytes_congr regs]
      rfl
    obtain ⟨k', hk', st⟩ := (storeStep_touches (uid := uid) (g := g) (d := d) (P := fun _ => True) (A := fun _ => True) hn t
      (fun _ _ => trivial) fun _ _ => trivial : Touches uid _ _ t (storeStep uid g d n x t i)).gang k hk
    rw [List.map_cons, List.foldl_cons, one, List.foldl_cons, ih hk' (st.regs.trans regs)]

end

/-! ## The instructions -/

/-- The bytes of the entries through which the lanes' accesses were translated. -/
def entryBytesOf (x : Nat → Xlat) (ls : List Nat) (a : Nat) : Prop := ∃ i ∈ ls, (x i).entry ≤ a ∧ a < (x i).entry + 8

/-- The registers that lanes load into from d on, n bytes each. -/
def loadRegs (d : Reg) (n : Nat) (ls : List Nat) (r i : Nat) : Prop := i ∈ ls ∧ d.toNat ≤ r ∧ r < d.toNat + max 1 (n / 4)

section
variable {s : State} {it : Issue} {g : Gang} {m : MemOp} {n : Nat} {x : Nat → Xlat}

/-- The addresses of the lanes (R190, R254). -/
def laneEa (g : Gang) (it : Issue) (m : MemOp) (n i : Nat) : DWord := globalEa g (globalBase g it (execMask g it) m.base m.x) m.off n i

theorem checkLanes_pass {need : Need} (pass : ∀ i ∈ lanesOf (execMask g it), laneCheck s g need n (laneEa g it m n i) = .ok (x i)) :
    checkLanes s g need n (laneVas g (execMask g it) (globalBase g it (execMask g it) m.base m.x) m.off n) =
      (lanesOf (execMask g it)).map fun i => (i, .ok (laneEa g it m n i, x i)) := by
  rw [checkLanes, laneVas, List.map_map]
  refine List.map_congr_left fun i h => ?_
  have checked := pass i h
  rw [laneEa] at checked
  simp only [Function.comp, checked]
  rfl

theorem failPoisoned_clean (page : ∀ i ∈ lanesOf (execMask g it), (x i).poison = false) (va : Nat → DWord) :
    failPoisoned s false ((lanesOf (execMask g it)).map fun i => (i, .ok (va i, x i))) =
      (lanesOf (execMask g it)).map fun i => (i, .ok (va i, x i)) := by
  rw [failPoisoned, List.map_map]
  refine List.map_congr_left fun i h => ?_
  simp [page i h]

theorem raceTrap_off (g : Gang) (h : g.span.locate = false) (n : Nat) (oks : List (Nat × DWord × Nat)) : raceTrap g n oks = none := by
  simp [raceTrap, h]

section
variable (hi : Issues s it g) (locate : g.span.locate = false)
  (stores : touchesStores s it.gang ((lanesOf (execMask g it)).map fun i => (x i).pa) = false)
  (page : ∀ i ∈ lanesOf (execMask g it), (x i).poison = false) (alive : g.live &&& g.launchMask ≠ 0#32)
include hi locate stores page alive

theorem trackedLoads_next (signed : Bool) (pass : ∀ i ∈ lanesOf (execMask g it), laneCheck s g .load n (laneEa g it m n i) = .ok (x i))
    (exact : g.span.exact = false) (line : ∀ i ∈ lanesOf (execMask g it), lineOf (x i).pa ∉ s.linePoison) {u : State}
    (granted : Granted s u (.gang it.gang it.split) (regionOf s g)
      (homeReads s g n ((lanesOf (execMask g it)).map fun i => (laneEa g it m n i, x i)))) :
    trackedLoads s m n signed = .next ((lanesOf (execMask g it)).foldl (loadStep it.gang m.d signed n x) u) ∧
      Touches it.gang (entryBytesOf x (lanesOf (execMask g it))) (Loaded (loadRegs m.d n (lanesOf (execMask g it)))) s
        ((lanesOf (execMask g it)).foldl (loadStep it.gang m.d signed n x) u) := by
  have kept : keepAsks s u = u := by
    have asked := askLines_keeps s (.gang it.gang it.split) (regionOf s g)
      (homeReads s g n ((lanesOf (execMask g it)).map fun i => (laneEa g it m n i, x i)))
    rwa [granted] at asked
  have line' : ∀ i ∈ lanesOf (execMask g it), lineOf (x i).pa ∉ u.linePoison := by rw [← kept]; exact line
  have touched : Touches it.gang (entryBytesOf x (lanesOf (execMask g it))) (Loaded (loadRegs m.d n (lanesOf (execMask g it)))) s
      ((lanesOf (execMask g it)).foldl (loadStep it.gang m.d signed n x) u) :=
    (Touches.of_keepAsks (Loaded.refl _) kept).trans Loaded.trans
      (loadSteps_touches (fun i h => (mem_lanesOf.mp h).1) u (fun i h a ha => ⟨i, h, ha⟩) fun i h r hr => ⟨h, hr⟩)
  obtain ⟨k, hk, rel⟩ := touched.gang g hi.gang
  have living : k.live &&& k.launchMask ≠ 0#32 := by
    have live : k.live = g.live := by simpa [asBeforeLoad] using congrArg Gang.live rel.rest
    have launched : k.launchMask = g.launchMask := by simpa [asBeforeLoad] using congrArg Gang.launchMask rel.rest
    rwa [live, launched]
  refine ⟨?_, touched⟩
  rw [trackedLoads, withGang_of hi]
  dsimp only
  rw [checkLanes_pass pass]
  simp only [laneOwn_ok, laneOks_ok, laneFails_ok, List.map_map, Function.comp_def, stores, raceTrap_off g locate, exact, withLines,
    Bool.false_and, Bool.false_eq_true, if_false]
  rw [granted]
  simp only [loadLanes_eq (va := laneEa g it m n) page line']
  exact finishLanes_done hk living ..

theorem trackedStores_next (hn : AccessSize n) (pass : ∀ i ∈ lanesOf (execMask g it), laneCheck s g .store n (laneEa g it m n i) = .ok (x i)) {u : State}
    (gate : storeGate s g it ((lanesOf (execMask g it)).map fun i => (x i).pa) = .go u) :
    trackedStores s m n = .next ((lanesOf (execMask g it)).foldl (storeStep it.gang g m.d n x) u) ∧
      Touches it.gang (entryBytesOf x (lanesOf (execMask g it))) (Stored fun a => ∃ i ∈ lanesOf (execMask g it), covers x n i a) s
        ((lanesOf (execMask g it)).foldl (storeStep it.gang g m.d n x) u) := by
  have kept := storeGate_keeps gate
  have hu : gang? u it.gang = some g := by rw [gang?, (keepAsks_frame kept).2.1]; exact hi.gang
  have touched : Touches it.gang (entryBytesOf x (lanesOf (execMask g it)))
      (Stored fun a => ∃ i ∈ lanesOf (execMask g it), covers x n i a) s
      ((lanesOf (execMask g it)).foldl (storeStep it.gang g m.d n x) u) :=
    (Touches.of_keepAsks (Stored.refl _) kept).trans Stored.trans
      (storeSteps_touches hn u (fun i h a ha => ⟨i, h, ha⟩) fun i h a ha => ⟨i, h, ha⟩)
  obtain ⟨k, hk, rel⟩ := touched.gang g hi.gang
  have living : k.live &&& k.launchMask ≠ 0#32 := by
    have live : k.live = g.live := by simpa using congrArg Gang.live rel.rest
    have launched : k.launchMask = g.launchMask := by simpa using congrArg Gang.launchMask rel.rest
    rwa [live, launched]
  refine ⟨?_, touched⟩
  rw [trackedStores, withGang_of hi]
  dsimp only
  rw [checkLanes_pass pass, failPoisoned_clean page]
  simp only [laneOwn_ok, laneOks_ok, laneFails_ok, List.map_map, Function.comp_def, stores, raceTrap_off g locate, withVersions, gate,
    Bool.false_eq_true, if_false]
  simp only [storeLanes_eq (va := laneEa g it m n) hn hu rfl]
  exact finishLanes_done hk living ..

end
end

/-- Below a word a load extends, from a word on it takes whole words (R256). -/
theorem loadInto_values (k : Gang) (d : Reg) (signed : Bool) (bs : List Byte) {i : Nat} (hi : i < 32) :
    (bs.length = 1 ∨ bs.length = 2 → getReg (loadInto k d signed bs i) d.toNat i = shortValue signed bs) ∧
      ∀ q, 4 * q + 4 ≤ bs.length →
        getReg (loadInto k d signed bs i) (d.toNat + q) i = BitVec.ofNat 32 (natOfBytes ((bs.drop (4 * q)).take 4)) := by
  have written := fun p hp => (putWrites_written k i hi _ (distinct_loadWrites d signed bs) p hp).1
  rw [loadInto_eq]
  refine ⟨fun short => written (d.toNat, _) ?_, fun q hq => written (d.toNat + q, _) ?_⟩
  · rw [loadWrites, if_pos (by omega)]
    exact List.mem_singleton_self _
  · rw [loadWrites, if_neg (by omega)]
    exact List.mem_map.mpr ⟨q, List.mem_range.mpr (by omega), rfl⟩

/-- Settles O22: each instruction is one fold over the lanes, and what one lane may change (`Loaded`, `Stored`) goes through the fold. -/
theorem loadsAndStores : Obligations.LoadsAndStores := by
  refine ⟨?_, fun k d signed bs i hi => loadInto_values k d signed bs hi⟩
  intro s it g m x hi lanes l base ea region pas alive locate stores page entry kept
  refine ⟨?loads, ?stores⟩
  case loads =>
    intro p hp pass exact line u granted
    have meaning : exec p.1 s = trackedLoads s m p.2.1 p.2.2 := by
      rcases List.mem_pair.mp hp with rfl | rfl <;> rfl
    obtain ⟨next, touched⟩ := trackedLoads_next hi locate stores page alive p.2.2 pass exact line granted
    obtain ⟨k, hk, rel⟩ := touched.gang g hi.gang
    exact ⟨meaning.trans next, ⟨touched.mem, touched.others⟩, k, hk, rel.ver, rel.rest, rel.regs⟩
  case stores =>
    intro p hp pass u gate
    have meaning : exec p.1 s = trackedStores s m p.2 ∧ AccessSize p.2 := by
      rcases List.mem_pair.mp hp with rfl | rfl
      · exact ⟨rfl, accessSize_pow m.sz⟩
      · exact ⟨rfl, accessSize_quad⟩
    obtain ⟨meaning, size⟩ := meaning
    obtain ⟨next, touched⟩ := trackedStores_next hi locate stores page alive size pass gate
    obtain ⟨k, hk, rel⟩ := touched.gang g hi.gang
    refine ⟨meaning.trans next, ⟨touched.mem, touched.others⟩, k, hk, rel.rest, rel.reads, ?away, ?last⟩
    case away => exact fun a away => rel.kept a fun ⟨i, h, c⟩ => away i h c
    case last =>
      intro i h q hq last
      have hu : gang? u it.gang = some g := by rw [gang?, (keepAsks_frame (storeGate_keeps gate)).2.1]; exact hi.gang
      obtain ⟨k', hk', version⟩ := storeSteps_version (g := g) (d := m.d) size (lanesOf_rising _) hu h hq last
      rwa [← Option.some.inj (hk.symm.trans hk')] at version

end Sys2Proof.Machine
end

section
/-! SUPPORT. Raw bytes of memory and page-table entries after a write, and what a conflicting write changes where no span holds a
pin: gangs, never memory (R64, R71 to R76, R136). -/

namespace Sys2Proof.Machine

/-! ## Raw bytes -/

@[simp] theorem rawBytes_length (s : State) (a n : Nat) : (rawBytes s a n).length = n := by simp [rawBytes]

theorem rawBytes_congr {s t : State} {a n : Nat} (h : ∀ j, j < n → memByte t (a + j) = memByte s (a + j)) : rawBytes t a n = rawBytes s a n :=
  List.map_congr_left fun j hj => h j (List.mem_range.mp hj)

theorem memByte_rawWrite_of_outside (s : State) {a : Nat} {bs : List Byte} {b : Nat} (h : b < a ∨ a + bs.length ≤ b) :
    memByte (rawWrite s a bs) b = memByte s b := by
  rw [memByte_rawWrite, if_neg (by omega)]

theorem rawWrite_rest (s : State) (a : Nat) (bs : List Byte) : { rawWrite s a bs with mem := s.mem } = s := rfl

theorem rawBytes_rawWrite_self (s : State) (a : Nat) (bs : List Byte) : rawBytes (rawWrite s a bs) a bs.length = bs := by
  refine List.ext_getElem (by simp) fun j _ hj => ?_
  simp [rawBytes, memByte_rawWrite, hj]

theorem rawBytes_rawWrite_of_outside (s : State) {a : Nat} {bs : List Byte} {b n : Nat} (h : b + n ≤ a ∨ a + bs.length ≤ b) :
    rawBytes (rawWrite s a bs) b n = rawBytes s b n :=
  rawBytes_congr fun j hj => memByte_rawWrite_of_outside s (by omega)

/-! ## Page-table entries -/

theorem pteAt_congr {s t : State} {a : Nat} (h : ∀ j, j < 8 → memByte t (a + j) = memByte s (a + j)) : pteAt t a = pteAt s a := by
  unfold pteAt rawNat
  rw [rawBytes_congr h]

theorem pteAt_rawWrite_self (s : State) (a : Nat) (e : DWord) : pteAt (rawWrite s a (bytesOf 8 e.toNat)) a = e := by
  have written := rawBytes_rawWrite_self s a (bytesOf 8 e.toNat)
  rw [bytesOf_length] at written
  unfold pteAt rawNat
  rw [written, natOfBytes_bytesOf, Nat.mod_eq_of_lt e.isLt, BitVec.ofNat_toNat, BitVec.setWidth_eq]

/-! ## Pins (R136) -/

/-- With no pin held, no write of a page table breaks one. -/
theorem breakPins_of_noPins {s : State} (h : NoPins s) : breakPins s = s := by
  have idle : ∀ l : List Gang, (∀ g ∈ l, g ∈ s.gangs) → l.foldl (init := s) (fun s g =>
      if (g.span.pins.isEmpty && g.span.moves.isEmpty) || pinsHold s (ctxOf s g) (regionOf s g) g.span then s
      else if g.span.tx.isSome then txRestart s g.uid 5 none else rollback s g.uid) = s := by
    intro l hl
    induction l with
    | nil => rfl
    | cons g l ih =>
      obtain ⟨pins, moves⟩ := h g (hl g List.mem_cons_self)
      simp only [List.foldl_cons, pins, moves, List.isEmpty_nil, Bool.and_self, Bool.true_or, if_true]
      exact ih fun k hk => hl k (List.mem_cons_of_mem _ hk)
  exact idle s.gangs fun _ hg => hg

/-- The memory of t is that of s: bytes, keys, poison, and the device's registers; and no span of t holds a pin. -/
structure MemoryStands (s t : State) : Prop where
  mem : t.mem = s.mem
  lineKey : t.lineKey = s.lineKey
  keys : t.keys = s.keys
  linePoison : t.linePoison = s.linePoison
  dev : t.dev = s.dev
  noPins : NoPins t

theorem MemoryStands.refl {s : State} (h : NoPins s) : MemoryStands s s := ⟨rfl, rfl, rfl, rfl, rfl, h⟩

theorem MemoryStands.of_gangs {s t : State} (h : NoPins s) (mem : t.mem = s.mem) (lineKey : t.lineKey = s.lineKey) (keys : t.keys = s.keys)
    (linePoison : t.linePoison = s.linePoison) (dev : t.dev = s.dev) (gangs : t.gangs = s.gangs) : MemoryStands s t :=
  ⟨mem, lineKey, keys, linePoison, dev, by rwa [NoPins, gangs]⟩

theorem MemoryStands.trans {s t u : State} (h : MemoryStands s t) (k : MemoryStands t u) : MemoryStands s u :=
  ⟨k.mem.trans h.mem, k.lineKey.trans h.lineKey, k.keys.trans h.keys, k.linePoison.trans h.linePoison, k.dev.trans h.dev, k.noPins⟩

/-- A step that leaves the gangs to `f`, and memory to itself. -/
theorem MemoryStands.fold {α : Type} {f : State → α → State} (one : ∀ t x, NoPins t → MemoryStands t (f t x)) {s : State} (h : NoPins s)
    (l : List α) : MemoryStands s (l.foldl f s) := by
  induction l generalizing s with
  | nil => exact .refl h
  | cons x l ih => exact (one s x h).trans (ih (one s x h).noPins)

/-- The gang holds nothing of a surface. -/
def PinFree (g : Gang) : Prop := g.span.pins = [] ∧ g.span.moves = []

theorem modGang_stands {s : State} (h : NoPins s) (u : Nat) {f : Gang → Gang} (hf : ∀ g, PinFree g → PinFree (f g)) :
    MemoryStands s (modGang s u f) := by
  refine ⟨rfl, rfl, rfl, rfl, rfl, fun g hg => ?_⟩
  obtain ⟨k, hk, rfl⟩ := List.mem_map.mp hg
  split
  · exact hf k (h k hk)
  · exact h k hk

theorem setGang_stands {s : State} (h : NoPins s) {g : Gang} (hg : PinFree g) : MemoryStands s (setGang s g) :=
  modGang_stands h g.uid (f := fun _ => g) fun _ _ => hg

theorem dropStoreOps_stands {s : State} (h : NoPins s) (u : Nat) : MemoryStands s (dropStoreOps s u) := by
  unfold dropStoreOps
  split
  · exact .refl h
  · exact .of_gangs h rfl rfl rfl rfl rfl rfl

/-- A rollback without pins changes no memory (R64). -/
theorem rollback_stands {s : State} (h : NoPins s) (u : Nat) : MemoryStands s (rollback s u) := by
  unfold rollback
  split
  · exact .refl h
  next g hg =>
    have none : g.span.pins = [] := (h g (List.mem_of_find?_eq_some hg)).1
    have drop := dropStoreOps_stands h u
    rw [none]
    extract_lets dropped chk trap woken unsettled settled set
    have set' : MemoryStands dropped set := setGang_stands drop.noPins ⟨rfl, rfl⟩
    exact drop.trans (set'.trans (.of_gangs set'.noPins rfl rfl rfl rfl rfl rfl))

theorem noteEnd_stands {s : State} (h : NoPins s) (u code : Nat) : MemoryStands s (noteEnd s u code) := modGang_stands h u fun _ hg => hg

theorem pinFree_putLanes {g : Gang} (h : PinFree g) (r : Nat) (m : LaneMask) (f : Nat → Word) : PinFree (putLanes g r m f) := by
  unfold putLanes
  induction lanesOf m generalizing g with
  | nil => exact h
  | cons i ls ih => exact ih (g := putReg g r i (f i)) h

theorem txRestart_stands {s : State} (h : NoPins s) (u status : Nat) (code : Option Nat) : MemoryStands s (txRestart s u status code) := by
  have back := rollback_stands h u
  have ended : MemoryStands s ((code.map (noteEnd (rollback s u) u)).getD (rollback s u)) := by
    cases code with
    | none => exact back
    | some c => exact back.trans (noteEnd_stands back.noPins u c)
  unfold txRestart
  dsimp only
  split
  · exact ended
  · refine ended.trans (modGang_stands ended.noPins u fun g hg => ?_)
    split
    · exact ⟨rfl, rfl⟩
    · exact pinFree_putLanes hg _ _ _

theorem countRestart_stands {s : State} (h : NoPins s) (u : Nat) : MemoryStands s (countRestart s u) := by
  have counted : MemoryStands s (modGang s u fun g => { g with span := { g.span with restarts := min 15 (g.span.restarts + 1) } }) :=
    modGang_stands h u fun _ hg => hg
  unfold countRestart
  dsimp only
  split
  · split
    · exact counted.trans (.of_gangs counted.noPins rfl rfl rfl rfl rfl rfl)
    · exact counted
  · exact counted

theorem setLocate_stands {s : State} (h : NoPins s) (u : Nat) (ts : List Target) : MemoryStands s (setLocate s u ts) := by
  have set : MemoryStands s (modGang s u fun h => { h with span := { h.span with locate := !ts.isEmpty, targets := ts } }) :=
    modGang_stands h u fun _ hg => hg
  unfold setLocate
  dsimp only
  split
  · exact set.trans (countRestart_stands set.noPins u)
  · exact set

theorem resolveVictim_stands {s : State} (h : NoPins s) (u : Nat) (cs : List (Loc × Nat)) (csn : Nat) (src : Word) :
    MemoryStands s (resolveVictim s u cs csn src) := by
  unfold resolveVictim
  split
  · exact .refl h
  · split
    · have back := txRestart_stands h u 1 none
      exact back.trans (countRestart_stands back.noPins u)
    · have back := rollback_stands h u
      exact back.trans (setLocate_stands back.noPins u _)

theorem resolveExact_stands {s : State} (h : NoPins s) (u : Nat) : MemoryStands s (resolveExact s u) := by
  unfold resolveExact
  split
  · exact .refl h
  · split
    · exact txRestart_stands h u 1 none
    · have back := rollback_stands h u
      exact back.trans (modGang_stands back.noPins u fun _ hg => hg)

/-- What follows a committed write changes the victims' gangs alone, where no span holds a pin (R71). -/
theorem afterWrites_stands {s : State} (h : NoPins s) (writer : Option Nat) (bytes : List Nat) (samples : List Sample) (csn : Nat) (src : Word) :
    MemoryStands s (afterWrites s writer bytes samples csn src) := by
  unfold afterWrites
  extract_lets logged resolved
  have logged' : MemoryStands s logged := .of_gangs h rfl rfl rfl rfl rfl rfl
  have all : MemoryStands logged resolved := .fold (fun t g ht => ?_) logged'.noPins logged.gangs
  · rw [breakPins_of_noPins all.noPins]
    exact logged'.trans all
  · split
    · exact .refl ht
    · split
      · exact .refl ht
      · dsimp only
        split
        · exact resolveVictim_stands ht _ _ _ _
        · split
          · exact resolveExact_stands ht _
          · exact .refl ht

end Sys2Proof.Machine
end

section
/-! SUPPORT. The frame of a firmware command that begins (R382, R383), and PAGE.MIGRATE, SPRING.BIND, KEY.LOAD, the two reports
and ERROR.QUERY (R28 to R30, R38, R338, R385 to R390). -/

namespace Sys2Proof.Machine

/-! ## The frame of a command -/

/-- What a command comes to once its own part has been performed. -/
def answered (h : CmdHead) : CmdRes → Out
  | .done t status detail => .next (complete t h.tag status detail)
  | .wait t => .next t

@[simp] theorem answered_done (h : CmdHead) (t : State) (status : Nat) (detail : DWord) :
    answered h (.done t status detail) = .next (complete t h.tag status detail) := rfl

@[simp] theorem answered_wait (h : CmdHead) (t : State) : answered h (.wait t) = .next t := rfl

/-- A command that passes the checks of its frame answers its own part (R383). -/
theorem command_runs {h : CmdHead} {bootOk layout inContext : Bool} {s : State} (body : State → CmdRes) (idle : s.dev.current = none)
    (hb : bootOk = true) (hl : layout = true) (hc : inContext = true → (context? s h.ctx.toNat).isSome) :
    command h bootOk layout inContext s body = answered h (body s) := by
  have known : (inContext && (context? s h.ctx.toNat).isNone) = false := by
    cases inContext with
    | false => rfl
    | true => simpa [Option.isSome_iff_ne_none] using hc rfl
  unfold command
  rw [idle, hb, hl, known]
  cases body s <;> rfl

theorem booted_of {s : State} (h : s.dev.boot = 2) : booted s = true := by simp [booted, h]

/-! ## PAGE.MIGRATE (R38) -/

section
variable {s : State} {h : CmdHead} {va : DWord} {owner : Byte} {c : Context} (idle : s.dev.current = none) (boot : s.dev.boot = 2)
  (hc : context? s h.ctx.toNat = some c) (ho : owner.toNat ≤ 7)
include idle boot hc ho

theorem pageMigrate_far (far : 2 ^ 56 ≤ va.toNat) : exec (.pageMigrate h va owner) s = answered h (.done s 3 0) := by
  have beyond : va.toNat / 2 ^ 56 ≠ 0 := by omega
  rw [exec_pageMigrate, execPageMigrate, contextCommand, command_runs _ idle (booted_of boot) (decide_eq_true ho) (fun _ => by rw [hc]; rfl)]
  simp only [hc, if_pos beyond]

theorem pageMigrate_noLeaf (near : va.toNat < 2 ^ 56) {f l : Nat} (hw : walk s c.root va = .fault f l) :
    exec (.pageMigrate h va owner) s = answered h (.done s 3 0) := by
  have within : ¬va.toNat / 2 ^ 56 ≠ 0 := by omega
  rw [exec_pageMigrate, execPageMigrate, contextCommand, command_runs _ idle (booted_of boot) (decide_eq_true ho) (fun _ => by rw [hc]; rfl)]
  simp only [hc, if_neg within, hw]

theorem pageMigrate_leaf (near : va.toNat < 2 ^ 56) {level entry : Nat} {e : DWord} (hw : walk s c.root va = .leaf level entry e) :
    exec (.pageMigrate h va owner) s = answered h (if ownerOf s e = owner.toNat then .done s 0 0 else if level ≠ 3 then .done s 3 0
      else migratePage s h.ctx.toNat va entry e owner.toNat) := by
  have within : ¬va.toNat / 2 ^ 56 ≠ 0 := by omega
  rw [exec_pageMigrate, execPageMigrate, contextCommand, command_runs _ idle (booted_of boot) (decide_eq_true ho) (fun _ => by rw [hc]; rfl)]
  simp only [hc, if_neg within, hw]

end

/-- What `awayReady` finds: the level-3 leaf of the address, which the device owns, and nothing that holds its page (R23, R36). -/
theorem awayReady_some {s : State} {ctx : Nat} {va : DWord} {entry : Nat} {e : DWord} {es : List Nat} (hl : leafAt s ctx va = some (entry, e))
    (h : awayReady s ctx va = some es) : es = leafEntries entry e := by
  unfold awayReady at h
  rw [hl] at h
  dsimp only at h
  split at h
  · cases h
  · exact (Option.some.inj h).symm

theorem leafAt_of_walk {s : State} {ctx : Nat} {va : DWord} {c : Context} {entry : Nat} {e : DWord} (hc : context? s ctx = some c)
    (hw : walk s c.root va = .leaf 3 entry e) : leafAt s ctx va = some (entry, e) := by
  simp [leafAt, hc, hw]

theorem leafEntries_length (entry : Nat) (e : DWord) : (leafEntries entry e).length = if ptePS e then 16 else 1 := by
  unfold leafEntries
  split <;> simp

/-- The place of a page in a peer's window: in that window, aligned as the page (R36). -/
theorem peerPlace_spec (s : State) (p : Nat) {n : Nat} (hn : n = 16 ∨ n = 1) :
    ∃ f, peerPlace s p n = ({ s with fresh := s.fresh + 1 }, f) ∧ 2 ^ 51 + p * 2 ^ 48 ≤ f ∧ f < 2 ^ 51 + (p + 1) * 2 ^ 48 ∧ f % (4096 * n) = 0 := by
  refine ⟨_, rfl, ?_⟩
  generalize Config.peerFrame s.fresh = k
  obtain rfl | rfl := hn
  · have below : k % (2 ^ 36 / 16) < 2 ^ 36 / 16 := Nat.mod_lt _ (by decide)
    omega
  · have below : k % (2 ^ 36 / 1) < 2 ^ 36 / 1 := Nat.mod_lt _ (by decide)
    omega

section
variable {s : State} {ctx : Nat} {va : DWord} {entry : Nat} {e : DWord} {owner : Nat}

theorem migratePage_linkDown (ho : owner ≠ 0) (hl : linkUp s (owner - 1) = false) : migratePage s ctx va entry e owner = .done s 3 0x22 :=
  if_pos ⟨ho, hl⟩

theorem migratePage_away (hl : owner = 0 ∨ linkUp s (owner - 1) = true) (hown : pteOwn e = false) :
    migratePage s ctx va entry e owner = match awayReady s ctx va with
      | none => .wait s
      | some es => .done (sendAway s ctx va es owner) 0 0 := by
  have up : ¬(owner ≠ 0 ∧ linkUp s (owner - 1) = false) := by grind
  rw [migratePage, if_neg up, hown]
  rfl

theorem migratePage_home (hl : owner = 0 ∨ linkUp s (owner - 1) = true) (hown : pteOwn e = true) :
    migratePage s ctx va entry e owner = fetchHome s ctx va (leafEntries entry e) e owner := by
  have up : ¬(owner ≠ 0 ∧ linkUp s (owner - 1) = false) := by grind
  rw [migratePage, if_neg up, hown, if_pos rfl]

theorem fetchHome_failed {es : List Nat} (free : (holdsWalk s (entryBytes es) || awaitsParty s es .partner) = false) {sub : Nat}
    (failed : bringHome s ctx va e = .failed sub) : fetchHome s ctx va es e owner = .done s 3 (BitVec.ofNat 64 sub) := by
  rw [fetchHome, if_neg (by rw [free]; simp), failed]

theorem fetchHome_done {es : List Nat} (free : (holdsWalk s (entryBytes es) || awaitsParty s es .partner) = false) {t : State}
    (came : bringHome s ctx va e = .done t) (device : owner = 0) :
    fetchHome s ctx va es e owner = .done (breakPins (noteHanded { t with now := t.now + 1 } es .device)) 0 0 := by
  rw [fetchHome, if_neg (by rw [free]; simp), came]
  exact if_pos device

theorem sendAway_peer (ho : 2 ≤ owner) {es : List Nat} (hn : es.length = if ptePS e then 16 else 1) :
    ∃ f, sendAway s ctx va es owner = giveAway { s with fresh := s.fresh + 1 } ctx va es (some f) (owner - 1) ∧
      2 ^ 51 + (owner - 2) * 2 ^ 48 ≤ f ∧ f < 2 ^ 51 + (owner - 1) * 2 ^ 48 ∧ f % (if ptePS e then 65536 else 4096) = 0 := by
  have pieces : es.length = 16 ∨ es.length = 1 := by rw [hn]; split <;> simp
  obtain ⟨f, place, low, high, whole⟩ := peerPlace_spec s (owner - 2) pieces
  refine ⟨f, ?_, low, ?_, ?_⟩
  · rw [sendAway, if_neg (by omega), place]
  · rwa [show owner - 2 + 1 = owner - 1 by omega] at high
  · rw [hn] at whole
    split <;> simpa [*] using whole

end

/-! ## SPRING.BIND (R338, R339) -/

section
variable {s : State} {h : CmdHead} {image : DWord} (idle : s.dev.current = none) (boot : s.dev.boot = 2) (hc : (context? s h.ctx.toNat).isSome)
include idle boot hc

theorem springBind_misplaced (out : ¬(image.toNat % 4096 = 0 ∧ ∀ k, k < 9 → populated s (image.toNat + 4096 * k) = true)) :
    exec (.springBind h image) s = answered h (.done s 3 (bindDetail 1 0 0)) := by
  have bad : image.toNat % 4096 ≠ 0 ∨ ((List.range 9).all fun k => populated s (image.toNat + 4096 * k)) = false := by
    simpa [or_iff_not_imp_left] using out
  rw [exec_springBind, execSpringBind, contextCommand, command_runs _ idle (booted_of boot) rfl fun _ => hc]
  exact congrArg (answered h) (if_pos bad)

variable (fits : image.toNat % 4096 = 0 ∧ ∀ k, k < 9 → populated s (image.toNat + 4096 * k) = true)
include fits

theorem springBind_malformed {code spring slot : Nat} (hx : verifyImage (sealedImage s image.toNat) = some (code, spring, slot)) :
    exec (.springBind h image) s = answered h (.done s 3 (bindDetail code spring slot)) := by
  have placed : ¬(image.toNat % 4096 ≠ 0 ∨ ((List.range 9).all fun k => populated s (image.toNat + 4096 * k)) = false) := by
    simpa using fits
  rw [exec_springBind, execSpringBind, contextCommand, command_runs _ idle (booted_of boot) rfl fun _ => hc]
  refine congrArg (answered h) ((if_neg placed).trans ?_)
  rw [hx]

theorem springBind_sealed (hx : verifyImage (sealedImage s image.toNat) = none) {p : Nat} (hp : sealPlace s (reachOf image.toNat) = some p) :
    exec (.springBind h image) s = answered h (.done
      { rawWrite s p (rawBytes s image.toNat 36864) with sealed := (p, h.ctx.toNat) :: s.sealed } 0 (BitVec.ofNat 64 p)) := by
  have placed : ¬(image.toNat % 4096 ≠ 0 ∨ ((List.range 9).all fun k => populated s (image.toNat + 4096 * k)) = false) := by
    simpa using fits
  rw [exec_springBind, execSpringBind, contextCommand, command_runs _ idle (booted_of boot) rfl fun _ => hc]
  refine congrArg (answered h) ((if_neg placed).trans ?_)
  generalize verifyImage (sealedImage s image.toNat) = verdict at hx
  generalize sealPlace s (reachOf image.toNat) = place at hp
  subst hx hp
  rfl

end

/-- A sealed copy holds the bytes of the image. -/
theorem rawBytes_sealed (s : State) (a p n : Nat) (l : List (Nat × Nat)) :
    rawBytes { rawWrite s p (rawBytes s a n) with sealed := l } p n = rawBytes s a n := by
  have copied := rawBytes_rawWrite_self s p (rawBytes s a n)
  rwa [rawBytes_length] at copied

theorem memByte_sealed (s : State) (a : Nat) {p n q : Nat} (l : List (Nat × Nat)) (h : q < p ∨ p + n ≤ q) :
    memByte { rawWrite s p (rawBytes s a n) with sealed := l } q = memByte s q :=
  memByte_rawWrite_of_outside s (by rwa [rawBytes_length])

/-! ## Host memory (R13; log 16) -/

theorem hostWrite_eq_none {s : State} {a : DWord} {bs : List Byte} (h : hostReach s a.toNat bs.length = false) : hostWrite s a bs = none := by
  rw [hostWrite, h]; rfl

theorem hostWrite_eq_some {s : State} {a : DWord} {bs : List Byte} (h : hostReach s a.toNat bs.length = true) :
    hostWrite s a bs = some (rawWrite s (2 ^ 48 + a.toNat) bs) := if_pos h

theorem hostRead_length {s : State} {a : DWord} {n : Nat} {bs : List Byte} (h : hostRead s a n = some bs) : bs.length = n := by
  unfold hostRead at h
  dsimp only at h
  split at h
  · cases h
  · rw [← Option.some.inj h, rawBytes_length]

/-! ## KEY.LOAD (R29, R30, R388) -/

theorem natOfBytes_lt (bs : List Byte) : natOfBytes bs < 2 ^ (8 * bs.length) := by
  induction bs with
  | nil => exact Nat.one_pos
  | cons b bs ih =>
    have small := b.isLt
    rw [natOfBytes, List.length_cons, Nat.mul_succ, Nat.pow_add]
    omega

/-- A word read whole from its bytes is 0 only where they all are. -/
theorem ofNat_natOfBytes_eq_zero {bs : List Byte} {w : Nat} (len : 8 * bs.length = w) : BitVec.ofNat w (natOfBytes bs) = 0 ↔ natOfBytes bs = 0 := by
  rw [← BitVec.toNat_inj, BitVec.toNat_ofNat, Nat.mod_eq_of_lt (len ▸ natOfBytes_lt bs)]
  simp

/-- t is s with other balances of its regions. -/
def OnlyBalances (s t : State) : Prop :=
  ∃ rs : List Region, t = { s with regions := rs } ∧ rs.map (fun r => { r with balance := [] }) = s.regions.map fun r => { r with balance := [] }

theorem OnlyBalances.refl (s : State) : OnlyBalances s s := ⟨_, rfl, rfl⟩

theorem OnlyBalances.trans {s t u : State} (h : OnlyBalances s t) (k : OnlyBalances t u) : OnlyBalances s u := by
  obtain ⟨rs, rfl, hr⟩ := h
  obtain ⟨qs, rfl, hq⟩ := k
  exact ⟨qs, rfl, hq.trans hr⟩

theorem OnlyBalances.fold {α : Type} {f : State → α → State} (one : ∀ t x, OnlyBalances t (f t x)) (s : State) (l : List α) :
    OnlyBalances s (l.foldl f s) := by
  induction l generalizing s with
  | nil => exact .refl s
  | cons x l ih => exact (one s x).trans (ih (f s x))

theorem modRegion_onlyBalances (s : State) (pa : Nat) (f : List Int → List Int) :
    OnlyBalances s (modRegion s pa fun r => { r with balance := f r.balance }) := by
  refine ⟨_, rfl, ?_⟩
  rw [List.map_map]
  refine List.map_congr_left fun r _ => ?_
  rw [Function.comp_apply]
  split <;> rfl

/-- A charge changes balances alone (R60). -/
theorem charge_onlyBalances (s : State) (region : Nat) (a : Activity) (r n : Nat) : OnlyBalances s (charge s region a r n) := by
  refine .fold (fun t h => ?_) s _
  split
  · exact .refl t
  · exact modRegion_onlyBalances t h.pa _

/-- Lines tagged with the slot leave the LLC, each dirty one at a charge (R29, R60). -/
theorem dropTagged_spec (s : State) (slot : Nat) : ∃ rs, dropTagged s slot = { s with regions := rs, llc := s.llc.filter fun l => l.slot.toNat != slot } ∧
    rs.map (fun r => { r with balance := [] }) = s.regions.map (fun r => { r with balance := [] }) ∧
    ((∀ l ∈ s.llc, l.dirty = true → l.slot.toNat ≠ slot) → rs = s.regions) := by
  have charged := OnlyBalances.fold (fun t (l : LlcLine) => charge_onlyBalances t l.region .dram (reachOf (lineBase l.line)) 1) s
    (s.llc.filter fun l => l.slot.toNat == slot && l.dirty)
  obtain ⟨rs, total, balances⟩ := charged
  refine ⟨rs, by rw [dropTagged, total], balances, fun clean => ?_⟩
  have none : (s.llc.filter fun l => l.slot.toNat == slot && l.dirty) = [] := List.filter_eq_nil_iff.mpr fun l hl k => by
    obtain ⟨tagged, dirty⟩ := Bool.and_eq_true_iff.mp k
    exact clean l hl dirty (beq_iff_eq.mp tagged)
  rw [none] at total
  exact (congrArg State.regions total).symm

section
variable {s : State} {h : CmdHead} {slot : Byte} {keys : DWord} (idle : s.dev.current = none) (boot : s.dev.boot = 2)
  (device : h.ctx = 0) (low : slot.toNat ≤ 63) (al : keys.toNat % 8 = 0)
include idle boot device low al

theorem keyLoad_unread (hr : hostRead s keys 64 = none) : exec (.keyLoad h slot keys) s = answered h (.done s 4 0) := by
  have layout : (h.ctx == 0 && (decide (slot.toNat ≤ 63) && aligned keys 8)) = true := by simp [device, low, aligned, al]
  rw [exec_keyLoad, execKeyLoad, deviceCommand, command_runs _ idle (booted_of boot) layout fun k => by cases k]
  simp only [hr]

theorem keyLoad_read {bs : List Byte} (hr : hostRead s keys 64 = some bs) :
    exec (.keyLoad h slot keys) s = answered h (.done { dropTagged s slot.toNat with
      keys := if BitVec.ofNat 512 (natOfBytes bs) = 0 then delK slot.toNat (dropTagged s slot.toNat).keys
        else setK slot.toNat (BitVec.ofNat 512 (natOfBytes bs)) (dropTagged s slot.toNat).keys } 0 0) := by
  have layout : (h.ctx == 0 && (decide (slot.toNat ≤ 63) && aligned keys 8)) = true := by simp [device, low, aligned, al]
  rw [exec_keyLoad, execKeyLoad, deviceCommand, command_runs _ idle (booted_of boot) layout fun k => by cases k]
  simp only [hr]

end

/-- A slot whose bytes were all zero is empty, another holds its pair (R30). -/
theorem getK_loaded {w : Nat} (l : List (Nat × BitVec w)) (slot : Nat) {bs : List Byte} (len : 8 * bs.length = w) (k : Nat) :
    getK k (if BitVec.ofNat w (natOfBytes bs) = 0 then delK slot l else setK slot (BitVec.ofNat w (natOfBytes bs)) l) =
      if k = slot then (if natOfBytes bs = 0 then none else some (BitVec.ofNat w (natOfBytes bs))) else getK k l := by
  simp only [ofNat_natOfBytes_eq_zero len]
  by_cases hk : k = slot
  · subst hk
    rw [if_pos rfl]
    split
    · exact getK_delK_self k l
    · exact getK_setK_self k _ l
  · rw [if_neg hk]
    split
    · exact getK_delK_ne hk l
    · exact getK_setK_ne hk _ l

/-! ## ATTEST and CAPACITY.MAP (R387, R390) -/

/-- A command that writes these bytes to host memory, and goes on where they could be written. -/
def hostReport (s : State) (buf : DWord) (bs : List Byte) (after : State → CmdRes) : CmdRes :=
  match hostWrite s buf bs with
  | none => .done s 4 0
  | some t => after t

theorem hostReport_unreached {s : State} {buf : DWord} {bs : List Byte} {after : State → CmdRes} (h : hostReach s buf.toNat bs.length = false) :
    hostReport s buf bs after = .done s 4 0 := by rw [hostReport, hostWrite_eq_none h]

theorem hostReport_written {s : State} {buf : DWord} {bs : List Byte} {after : State → CmdRes} (h : hostReach s buf.toNat bs.length = true) :
    hostReport s buf bs after = after (rawWrite s (2 ^ 48 + buf.toNat) bs) := by rw [hostReport, hostWrite_eq_some h]

/-- The mask of the key slots that hold a pair, as a sum. -/
theorem keyMask_eq (s : State) : keyMask s = (s.keys.map fun p => 2 ^ p.1).sum := by
  rw [keyMask, List.sum_eq_foldl, List.foldl_map]

/-- The signed report. -/
def signedReport (s : State) (nonce : BitVec 256) : List Byte :=
  reportBytes s nonce ++ bytesOf 64 (Config.sign (reportBytes s nonce)).toNat

theorem signedReport_length (s : State) (nonce : BitVec 256) : (signedReport s nonce).length = 208 := by
  simp [signedReport, reportBytes, bytesOf_length]

theorem capacityMapBytes_length (d : Device) : (capacityMapBytes d).length = 128 := by
  simp [capacityMapBytes, capacityBytes, bytesOf_length]

/-- n bytes written to host memory, as they stand there. -/
theorem rawBytes_rawWrite_of_length (s : State) (a : Nat) {bs : List Byte} {n : Nat} (h : bs.length = n) : rawBytes (rawWrite s a bs) a n = bs :=
  h ▸ rawBytes_rawWrite_self s a bs

section
variable {s : State} {h : CmdHead} {buf : DWord} (idle : s.dev.current = none) (boot : s.dev.boot = 2) (device : h.ctx = 0)
  (al : buf.toNat % 8 = 0)
include idle boot device al

theorem attest_runs (nonce : BitVec 256) :
    exec (.attest h buf nonce) s = answered h (hostReport s buf (signedReport s nonce) fun t => .done t 0 0) := by
  have layout : (h.ctx == 0 && aligned buf 8) = true := by simp [device, aligned, al]
  have up : (s.dev.boot != 0#2) = true := by rw [boot]; rfl
  rw [exec_attest, execAttest, command_runs _ idle up layout fun k => by cases k]
  rfl

theorem attest_unreached {nonce : BitVec 256} (out : hostReach s buf.toNat 208 = false) :
    exec (.attest h buf nonce) s = answered h (.done s 4 0) := by
  rw [← signedReport_length s nonce] at out
  rw [attest_runs idle boot device al, hostReport_unreached out]

theorem attest_written {nonce : BitVec 256} (reach : hostReach s buf.toNat 208 = true) :
    exec (.attest h buf nonce) s = answered h (.done (rawWrite s (2 ^ 48 + buf.toNat) (signedReport s nonce)) 0 0) := by
  rw [← signedReport_length s nonce] at reach
  rw [attest_runs idle boot device al, hostReport_written reach]

theorem capacityMap_runs :
    exec (.capacityMap h buf) s = answered h (hostReport s buf (capacityMapBytes s.dev) fun t => .done t 0 0) := by
  have layout : (h.ctx == 0 && aligned buf 8) = true := by simp [device, aligned, al]
  rw [exec_capacityMap, execCapacityMap, deviceCommand, command_runs _ idle (booted_of boot) layout fun k => by cases k]
  rfl

theorem capacityMap_unreached (out : hostReach s buf.toNat 128 = false) : exec (.capacityMap h buf) s = answered h (.done s 4 0) := by
  rw [← capacityMapBytes_length s.dev] at out
  rw [capacityMap_runs idle boot device al, hostReport_unreached out]

theorem capacityMap_written (reach : hostReach s buf.toNat 128 = true) :
    exec (.capacityMap h buf) s = answered h (.done (rawWrite s (2 ^ 48 + buf.toNat) (capacityMapBytes s.dev)) 0 0) := by
  rw [← capacityMapBytes_length s.dev] at reach
  rw [capacityMap_runs idle boot device al, hostReport_written reach]

end

/-! ## ERROR.QUERY (R385) -/

/-- What is taken: the first n of the matching records. -/
theorem takeRecords_taken (p : ErrRec → Bool) (n : Nat) (l : List ErrRec) : (takeRecords p n l).1 = (l.filter p).take n := by
  induction l generalizing n with
  | nil => simp [takeRecords]
  | cons r rs ih =>
    cases n with
    | zero => simp [takeRecords]
    | succ n => by_cases hp : p r <;> simp [takeRecords, hp, ih]

/-- What is left of the matching records: those after the first n. -/
theorem takeRecords_left (p : ErrRec → Bool) (n : Nat) (l : List ErrRec) : (takeRecords p n l).2.filter p = (l.filter p).drop n := by
  induction l generalizing n with
  | nil => simp [takeRecords]
  | cons r rs ih =>
    cases n with
    | zero => simp [takeRecords]
    | succ n => by_cases hp : p r <;> simp [takeRecords, hp, ih]

/-- Every record that does not match is left. -/
theorem takeRecords_others (p : ErrRec → Bool) (n : Nat) (l : List ErrRec) :
    ((takeRecords p n l).2.filter fun r => !p r) = l.filter fun r => !p r := by
  induction l generalizing n with
  | nil => simp [takeRecords]
  | cons r rs ih =>
    cases n with
    | zero => simp [takeRecords]
    | succ n => by_cases hp : p r <;> simp [takeRecords, hp, ih]

theorem recordBytes_length (r : ErrRec) : (recordBytes r).length = 64 := by simp [recordBytes, bytesOf_length]

theorem flatMap_recordBytes_length (l : List ErrRec) : (l.flatMap recordBytes).length = 64 * l.length := by
  simp [List.length_flatMap, recordBytes_length, Nat.mul_comm]

/-- The records that a query asks for. -/
def asksFor (h : CmdHead) (fdom : Byte) (r : ErrRec) : Bool := r.ctx == h.ctx && (h.ctx == 0 || fdom == 0xFF#8 || r.fdom == fdom)

theorem query_layout {h : CmdHead} {buf : DWord} {n : Word} {fdom : Byte} (al : buf.toNat % 64 = 0) (any : n ≠ 0) (few : n.toNat ≤ 65536)
    (dom : fdom = 0xFF ∨ h.ctx ≠ 0 ∧ fdom.toNat ≤ 15) : (aligned buf 64 && n != 0 && decide (n.toNat ≤ 65536) &&
      (fdom == 0xFF#8 || (h.ctx != 0 && decide (fdom.toNat ≤ 15)))) = true := by
  have domain : (fdom == 0xFF#8 || (h.ctx != 0 && decide (fdom.toNat ≤ 15))) = true := by simpa using dom
  rw [domain]
  simpa [aligned, al, few] using any

section
variable {s u : State} {h : CmdHead} {buf : DWord} {n : Word} {fdom : Byte} {taken : List ErrRec} (idle : s.dev.current = none)
  (boot : s.dev.boot = 2) (al : buf.toNat % 64 = 0) (any : n ≠ 0) (few : n.toNat ≤ 65536)
  (dom : fdom = 0xFF ∨ h.ctx ≠ 0 ∧ fdom.toNat ≤ 15) (hc : h.ctx ≠ 0 → (context? s h.ctx.toNat).isSome)
  (hu : u = if h.ctx = 0 then noteCorrected s else s) (ht : taken = (u.errors.filter (asksFor h fdom)).take n.toNat)
include idle boot al any few dom hc hu ht

theorem errorQuery_runs : exec (.errorQuery h buf n fdom) s = answered h (hostReport u buf (taken.flatMap recordBytes) fun t =>
      .done { t with errors := (takeRecords (asksFor h fdom) n.toNat u.errors).2 } 0 (BitVec.ofNat 64 taken.length)) := by
  have first : taken = (takeRecords (asksFor h fdom) n.toNat u.errors).1 := ht.trans (takeRecords_taken _ _ _).symm
  rw [first, hu, exec_errorQuery, execErrorQuery]
  dsimp only
  rw [command_runs _ idle (booted_of boot) (query_layout al any few dom) fun k => hc (by simpa using k)]
  rfl

theorem errorQuery_unreached (out : hostReach u buf.toNat (64 * taken.length) = false) :
    exec (.errorQuery h buf n fdom) s = answered h (.done u 4 0) := by
  rw [← flatMap_recordBytes_length] at out
  rw [errorQuery_runs idle boot al any few dom hc hu ht, hostReport_unreached out]

/-- The records delivered are in host memory, oldest first, and no longer kept (R385). -/
theorem errorQuery_delivered (reach : hostReach u buf.toNat (64 * taken.length) = true) :
    ∃ t, exec (.errorQuery h buf n fdom) s = answered h (.done t 0 (BitVec.ofNat 64 taken.length)) ∧
      rawBytes t (2 ^ 48 + buf.toNat) (64 * taken.length) = taken.flatMap recordBytes ∧
      t.errors.filter (asksFor h fdom) = (u.errors.filter (asksFor h fdom)).drop n.toNat ∧
      (t.errors.filter fun r => !asksFor h fdom r) = u.errors.filter fun r => !asksFor h fdom r := by
  rw [← flatMap_recordBytes_length] at reach ⊢
  refine ⟨{ rawWrite u (2 ^ 48 + buf.toNat) (taken.flatMap recordBytes) with errors := (takeRecords (asksFor h fdom) n.toNat u.errors).2 },
    ?_, rawBytes_rawWrite_self u _ _, takeRecords_left _ _ _, takeRecords_others _ _ _⟩
  rw [errorQuery_runs idle boot al any few dom hc hu ht, hostReport_written reach]

end

end Sys2Proof.Machine
end

section
/-! SUPPORT. POISON.CLEAR (R28, R390): the page as written, without poison in the bitmap or on its lines; and the firmware's commands
together (O54). -/

namespace Sys2Proof.Machine

/-! ## What bytes written through a key leave as it was -/

theorem retag_rest (s : State) (k : BitVec 512) (line : Nat) : { retag s k line with mem := s.mem, lineKey := s.lineKey } = s := by
  unfold retag
  split
  · rfl
  · split <;> rfl

theorem writeByte_rest (s : State) (key pa : Nat) (b : Byte) : { writeByte s key pa b with mem := s.mem, lineKey := s.lineKey } = s := by
  rw [writeByte_eq]
  unfold enciphered
  split
  · split
    · exact retag_rest s _ _
    · rfl
  · rfl

theorem writeBytes_rest (s : State) (key pa : Nat) (bs : List Byte) : { writeBytes s key pa bs with mem := s.mem, lineKey := s.lineKey } = s := by
  induction bs generalizing s pa with
  | nil => rfl
  | cons b bs ih =>
    calc { writeBytes (writeByte s key pa b) key (pa + 1) bs with mem := s.mem, lineKey := s.lineKey }
        = { { writeBytes (writeByte s key pa b) key (pa + 1) bs with
              mem := (writeByte s key pa b).mem, lineKey := (writeByte s key pa b).lineKey } with mem := s.mem, lineKey := s.lineKey } := rfl
      _ = { writeByte s key pa b with mem := s.mem, lineKey := s.lineKey } := by rw [ih]
      _ = s := writeByte_rest s key pa b

/-- What does not speak of memory is as before. -/
theorem writeBytes_field {α : Type} (f : State → α) (hf : ∀ t m k, f { t with mem := m, lineKey := k } = f t) (s : State) (key pa : Nat)
    (bs : List Byte) : f (writeBytes s key pa bs) = f s := (hf _ _ _).symm.trans (congrArg f (writeBytes_rest s key pa bs))

@[simp] theorem writeBytes_gangs (s : State) (key pa : Nat) (bs : List Byte) : (writeBytes s key pa bs).gangs = s.gangs :=
  writeBytes_field State.gangs (fun _ _ _ => rfl) s key pa bs

@[simp] theorem writeBytes_dev (s : State) (key pa : Nat) (bs : List Byte) : (writeBytes s key pa bs).dev = s.dev :=
  writeBytes_field State.dev (fun _ _ _ => rfl) s key pa bs

/-- A page written through a key reads back as long as its own bytes stay. -/
theorem readBytes_of_written {s t : State} {key page : Nat} {bs : List Byte} (hk : (keyPair s key).isSome) (len : bs.length = 4096)
    (whole : page % 4096 = 0) (keys : t.keys = (writeBytes s key page bs).keys) (lineKey : t.lineKey = (writeBytes s key page bs).lineKey)
    (bytes : ∀ a, page ≤ a → a < page + 4096 → memByte t a = memByte (writeBytes s key page bs) a) : readBytes t key page 4096 = bs := by
  have kept : ∀ j, j < 4096 → LineKept (writeBytes s key page bs) t (lineOf (page + j)) := fun j hj => by
    refine ⟨keys, by rw [lineKey], fun a ha => ?_⟩
    have inPage : page ≤ a ∧ a < page + 4096 := by unfold lineOf at ha; omega
    exact bytes a inPage.1 inPage.2
  calc readBytes t key page 4096
      = readBytes (writeBytes s key page bs) key page 4096 :=
        List.map_congr_left fun j hj => (kept j (List.mem_range.mp hj)).readByte_eq key
    _ = bs := len ▸ readBytes_writeBytes hk page bs

/-! ## The poison bitmap (R28) -/

theorem poisonBit_congr {s t : State} (h : t.dev = s.dev) (pa : Nat) : poisonBit t pa = poisonBit s pa := by simp only [poisonBit, h]

theorem memByte_setPagePoison_ne (s : State) (pa : Nat) (v : Bool) {a : Nat} (h : a ≠ (poisonBit s pa).1) :
    memByte (setPagePoison s pa v) a = memByte s a := by
  unfold setPagePoison
  dsimp only
  rw [memByte_memPut, if_neg h]

theorem pagePoisoned_setPagePoison (s : State) (pa : Nat) : pagePoisoned (setPagePoison s pa false) pa = false := by
  have low : (poisonBit s pa).2 < 8 := Nat.mod_lt _ (by decide)
  have kept : poisonBit (setPagePoison s pa false) pa = poisonBit s pa := poisonBit_congr rfl pa
  unfold pagePoisoned
  rw [kept]
  unfold setPagePoison
  dsimp only
  rw [memByte_memPut, if_pos rfl]
  simp [low]

theorem pagePoisoned_congr {s t : State} (mem : t.mem = s.mem) (dev : t.dev = s.dev) (pa : Nat) : pagePoisoned t pa = pagePoisoned s pa := by
  simp only [pagePoisoned, poisonBit_congr dev, memByte, mem]

/-! ## The page cleared -/

/-- The memory that POISON.CLEAR leaves. -/
def clearedMemory (s : State) (page key : Nat) (bs : List Byte) : State :=
  { setPagePoison (writeBytes s key page bs) page false with
    linePoison := (writeBytes s key page bs).linePoison.filter fun l => !((List.range 32).map (lineOf page + ·)).contains l }

theorem clearPage_stands {s : State} (h : NoPins s) (page key : Nat) (bs : List Byte) :
    MemoryStands (clearedMemory s page key bs) (clearPage s page key bs) := by
  unfold clearPage
  extract_lets bitmap lines forgot unflagged
  have forgotten : MemoryStands (clearedMemory s page key bs) unflagged := by
    refine ⟨rfl, rfl, rfl, rfl, rfl, fun g hg => ?_⟩
    obtain ⟨k, hk, rfl⟩ := List.mem_map.mp hg
    exact h k (writeBytes_gangs s key page bs ▸ hk)
  have counted : MemoryStands unflagged { unflagged with fresh := unflagged.fresh + 1 } := .of_gangs forgotten.noPins rfl rfl rfl rfl rfl rfl
  exact forgotten.trans (counted.trans (afterWrites_stands counted.noPins _ _ _ _ _))

section
variable {s : State} {page key : Nat} {bs : List Byte} (pins : NoPins s) (whole : page % 4096 = 0)
include pins

include whole in
/-- The page reads as the bytes written, where the bitmap lies elsewhere. -/
theorem readBytes_clearPage (hk : (keyPair s key).isSome) (len : bs.length = 4096)
    (apart : (poisonBit s page).1 < page ∨ page + 4096 ≤ (poisonBit s page).1) :
    readBytes (clearPage s page key bs) key page 4096 = bs := by
  have stands := clearPage_stands pins page key bs
  have bit : (poisonBit (writeBytes s key page bs) page).1 = (poisonBit s page).1 := by rw [poisonBit_congr (writeBytes_dev s key page bs)]
  refine readBytes_of_written hk len whole stands.keys stands.lineKey fun a low high => ?_
  have away : a ≠ (poisonBit (writeBytes s key page bs) page).1 := by omega
  rw [memByte, stands.mem]
  exact memByte_setPagePoison_ne _ page false away

theorem pagePoisoned_clearPage : pagePoisoned (clearPage s page key bs) page = false := by
  have stands := clearPage_stands pins page key bs
  rw [pagePoisoned_congr stands.mem stands.dev]
  exact pagePoisoned_setPagePoison (writeBytes s key page bs) page

include whole in
theorem linePoison_clearPage {l : Nat} (inPage : l / 32 = page / 4096) : l ∉ (clearPage s page key bs).linePoison := by
  have own : l ∈ (List.range 32).map (lineOf page + ·) :=
    List.mem_map.mpr ⟨l - lineOf page, List.mem_range.mpr (by unfold lineOf; omega), by unfold lineOf; omega⟩
  rw [(clearPage_stands pins page key bs).linePoison]
  intro left
  have outside := (List.mem_filter.mp left).2
  rw [List.contains_eq_mem, decide_eq_true own] at outside
  cases outside

end

/-! ## The command -/

/-- The bytes that POISON.CLEAR writes: zeros, or those of host memory. -/
def clearSource (s : State) (data : DWord) : Option (List Byte) := if data = 0 then some (List.replicate 4096 (0 : Byte)) else hostRead s data 4096

theorem clearSource_length {s : State} {data : DWord} {bs : List Byte} (h : clearSource s data = some bs) : bs.length = 4096 := by
  unfold clearSource at h
  split at h
  · rw [← Option.some.inj h, List.length_replicate]
  · exact hostRead_length h

section
variable {s : State} {h : CmdHead} {page data : DWord} {key : Byte} (idle : s.dev.current = none) (boot : s.dev.boot = 2)
  (device : h.ctx = 0) (ap : page.toNat % 4096 = 0) (ad : data.toNat % 8 = 0) (low : key.toNat ≤ 63)
include device ap ad low

theorem clear_layout : (h.ctx == 0 && (aligned page 4096 && aligned data 8 && decide (key.toNat ≤ 63))) = true := by
  simp [device, aligned, ap, ad, low]

include idle boot

theorem poisonClear_refused (bad : populated s page.toNat = false ∨ keyPair s key.toNat = none) :
    exec (.poisonClear h page data key) s = answered h (.done s 3 0) := by
  have refused : (!populated s page.toNat || (keyPair s key.toNat).isNone) = true := by simpa using bad
  rw [exec_poisonClear, execPoisonClear, deviceCommand, command_runs _ idle (booted_of boot) (clear_layout device ap ad low) fun k => by cases k]
  exact congrArg (answered h) (if_pos refused)

variable (there : populated s page.toNat = true) (hk : (keyPair s key.toNat).isSome)
include there hk

theorem poisonClear_unread (hr : clearSource s data = none) : exec (.poisonClear h page data key) s = answered h (.done s 4 0) := by
  have allowed : ¬(!populated s page.toNat || (keyPair s key.toNat).isNone) = true := by
    rw [there]; simpa [Option.isSome_iff_ne_none] using hk
  rw [exec_poisonClear, execPoisonClear, deviceCommand, command_runs _ idle (booted_of boot) (clear_layout device ap ad low) fun k => by cases k]
  refine congrArg (answered h) ((if_neg allowed).trans ?_)
  rw [clearSource] at hr
  rw [hr]

theorem poisonClear_cleared {bs : List Byte} (hr : clearSource s data = some bs)
    (free : favourBlocks s none ((List.range 4096).map (page.toNat + ·)) [] = false) :
    exec (.poisonClear h page data key) s = answered h (.done (clearPage s page.toNat key.toNat bs) 0 0) := by
  have allowed : ¬(!populated s page.toNat || (keyPair s key.toNat).isNone) = true := by
    rw [there]; simpa [Option.isSome_iff_ne_none] using hk
  have unblocked : ¬favourBlocks s none ((List.range 4096).map (page.toNat + ·)) [] = true := by rw [free]; simp
  rw [exec_poisonClear, execPoisonClear, deviceCommand, command_runs _ idle (booted_of boot) (clear_layout device ap ad low) fun k => by cases k]
  refine congrArg (answered h) ((if_neg allowed).trans ?_)
  rw [clearSource] at hr
  rw [hr]
  exact if_neg unblocked

end

/-! ## The obligation -/

/-- Settles O54, command by command: each outcome of a command by its lemma above. -/
theorem firmwareCommands : Obligations.FirmwareCommands := by
  intro s h image va keys buf page data n owner slot fdom key nonce idle boot
  dsimp only
  refine ⟨?migrate, ?bind, ?keyLoad, ?reports, ?query, ?clear⟩
  case migrate =>
    intro c hc ho
    refine ⟨pageMigrate_far idle boot hc ho, fun near f l hw => pageMigrate_noLeaf idle boot hc ho near hw, fun level entry e near hw => ?_⟩
    have runs := pageMigrate_leaf idle boot hc ho near hw
    refine ⟨fun same => ?_, fun other high => ?_, ?_⟩
    · rw [runs, if_pos same, answered_done]
    · rw [runs, if_neg other, if_pos high, answered_done]
    · rintro other rfl
      rw [if_neg other, if_neg (by simp)] at runs
      have zero : owner = 0 ↔ owner.toNat = 0 := by rw [← BitVec.toNat_inj]; rfl
      refine ⟨fun named down => ?_, fun up => ?_⟩
      · rw [runs, migratePage_linkDown (fun k => named (zero.mpr k)) down, answered_done]
      rw [zero] at up
      have leaf := leafAt_of_walk hc hw
      refine ⟨fun own stays => ?_, fun own first ready => ?_, fun own peer ready => ?_, fun own held => ?_, fun own free sub failed => ?_,
        fun own free device t came => ?_⟩
      · rw [runs, migratePage_away up own, stays, answered_wait]
      · rw [runs, migratePage_away up own, ready, answered_done, first]
        rfl
      · have pieces := (awayReady_some leaf ready ▸ leafEntries_length entry e :)
        obtain ⟨f, sent, least, high, whole⟩ := sendAway_peer (s := s) (ctx := h.ctx.toNat) (va := va) peer pieces
        refine ⟨f, { s with fresh := s.fresh + 1 }, ?_, rfl, least, high, whole⟩
        rw [runs, migratePage_away up own, ready, answered_done, sent]
      · rw [runs, migratePage_home up own, fetchHome, if_pos held, answered_wait]
      · rw [runs, migratePage_home up own, fetchHome_failed free failed, answered_done]
      · rw [runs, migratePage_home up own, fetchHome_done free came (zero.mp device), answered_done]
  case bind =>
    intro hc
    refine ⟨springBind_misplaced idle boot hc, fun fits => ⟨fun x hx => springBind_malformed idle boot hc fits hx, fun p hx hp => ?_⟩⟩
    exact ⟨_, springBind_sealed idle boot hc fits hx hp, rfl, rawBytes_sealed s _ p _ _, fun q => memByte_sealed s _ _⟩
  case keyLoad =>
    intro device low al
    refine ⟨keyLoad_unread idle boot device low al, fun bs hr => ⟨_, keyLoad_read idle boot device low al hr, ?_⟩⟩
    obtain ⟨rs, dropped, balances, clean⟩ := dropTagged_spec s slot.toNat
    rw [dropped]
    exact ⟨getK_loaded s.keys slot.toNat (by rw [hostRead_length hr]), fun l => by simp, rfl, balances, clean⟩
  case reports =>
    intro device al
    refine ⟨attest_unreached idle boot device al, fun reach => ⟨_, attest_written idle boot device al reach, ?_, rawWrite_rest s _ _⟩,
      capacityMap_unreached idle boot device al, fun reach => ⟨_, capacityMap_written idle boot device al reach, rawWrite_rest s _ _, ?_⟩⟩
    · rw [← keyMask_eq]
      exact rawBytes_rawWrite_of_length s _ (signedReport_length s nonce)
    · exact rawBytes_rawWrite_of_length s _ (capacityMapBytes_length s.dev)
  case query =>
    intro al any few dom hc
    exact ⟨errorQuery_unreached idle boot al any few dom hc rfl rfl, errorQuery_delivered idle boot al any few dom hc rfl rfl⟩
  case clear =>
    intro device ap ad low
    refine ⟨poisonClear_refused idle boot device ap ad low, fun there hk => ⟨fun given hr => ?_, fun bs source free pins apart => ?_⟩⟩
    · exact poisonClear_unread idle boot device ap ad low there hk (by rw [clearSource, if_neg given, hr])
    · have bytes : clearSource s data = some bs := by
        unfold clearSource
        split
        · rw [if_pos ‹_›] at source; rw [source]; rfl
        · rwa [if_neg ‹_›] at source
      refine ⟨_, poisonClear_cleared idle boot device ap ad low there hk bytes free, ?_, pagePoisoned_clearPage pins,
        fun l => linePoison_clearPage pins ap⟩
      exact readBytes_clearPage pins ap hk (clearSource_length bytes) apart

end Sys2Proof.Machine
end

section
/-! SUPPORT. RESET, the registers of the host, the links, and a partner's own accesses (R34, R379 to R381, R387). -/

namespace Sys2Proof.Machine

/-! ## RESET and the links -/

theorem getK_map {α β : Type} (f : α → β) (k : Nat) (l : List (Nat × α)) : getK k (l.map fun p => (p.1, f p.2)) = (getK k l).map f := by
  induction l with
  | nil => rfl
  | cons p l ih =>
    simp only [List.map_cons, getK]
    split
    · rfl
    · exact ih

/-- What RESET leaves of a core: its temperature (R387). -/
def resetCore (k : Core) : Core := { Core.zero with temp := k.temp }

theorem coreOf_reset {s v : State} (h : exec .reset s = .next v) (c : Nat) : ∃ k, coreOf v c = resetCore k := by
  rw [exec_reset, execReset] at h
  cases h
  refine ⟨(getK c s.cores).getD Core.zero, ?_⟩
  calc (getK c (s.cores.map fun p => (p.1, resetCore p.2))).getD Core.zero
      = ((getK c s.cores).map resetCore).getD Core.zero := by rw [getK_map]
    _ = resetCore ((getK c s.cores).getD Core.zero) := by cases getK c s.cores <;> rfl

theorem linkUp_setK_self (s : State) (p : Nat) (k : Link) : linkUp { s with links := setK p k s.links } p = k.up := by
  simp [linkUp]

theorem linkUp_setK_ne (s : State) {p q : Nat} (h : q ≠ p) (k : Link) : linkUp { s with links := setK p k s.links } q = linkUp s q := by
  simp only [linkUp, getK_setK_ne h]

theorem trains_iff {port rate width mode : Nat} (h : port ≤ 6) :
    trains port rate width mode = true ↔ (rate = 64 ∨ rate = 32) ∧ (width = 16 ∨ width = 8) ∧ mode = 256 := by
  simp [trains, h, and_assoc]

/-! ## The registers of the host (R381) -/

theorem extractLow_toNat (x : DWord) : ((x.extractLsb' 0 32 : Word).extractLsb' 0 4 : BitVec 4).toNat = x.toNat % 16 := by
  simp only [BitVec.extractLsb'_toNat, Nat.shiftRight_zero]
  omega

theorem writeControl_eq (d : Device) (x : DWord) : writeControl d (x.extractLsb' 0 32) = { d with
    qEn := x.getLsbD 8, logN := if d.qEn = true ∨ 6 ≤ x.toNat % 16 then d.logN else BitVec.ofNat 4 (x.toNat % 16) } := by
  have low : ((x.extractLsb' 0 32 : Word).extractLsb' 0 4 : BitVec 4) = BitVec.ofNat 4 (x.toNat % 16) :=
    BitVec.eq_of_toNat_eq (by rw [extractLow_toNat, BitVec.toNat_ofNat]; omega)
  unfold writeControl
  dsimp only
  rw [extractLow_toNat, low]
  simp

/-- The two halves of a queue base are the base (R381). -/
theorem hostRegisterRead_base (s : State) : (hostRegisterRead s 0).toNat + 2 ^ 32 * (hostRegisterRead s 4).toNat = s.dev.sqBase.toNat := by
  have below := s.dev.sqBase.isLt
  simp only [hostRegisterRead, BitVec.extractLsb'_toNat, Nat.shiftRight_eq_div_pow]
  omega

section
variable {s : State} (up : linkUp s 0 = true)
include up

theorem sqtailDoorbell_up (w : Word) : exec (.sqtailDoorbell w) s =
    .next { s with dev := if w.toNat < 2 ^ (s.dev.logN.toNat + 4) then { s.dev with sqTail := w } else s.dev } := by
  rw [exec_sqtailDoorbell, execSqtailDoorbell, up, ringSize]
  by_cases h : w.toNat < 2 ^ (s.dev.logN.toNat + 4)
  · rw [if_pos h, decide_eq_true h]; rfl
  · rw [if_neg h, decide_eq_false h]; rfl

theorem hostRegisterWrite_up (off : Nat) (x : DWord) : exec (.hostRegisterWrite off x) s =
    if off = 0 then .next { s with dev := if s.dev.qEn then s.dev else { s.dev with sqBase := x } }
    else if off = 8 then .next { s with dev := if s.dev.qEn then s.dev else { s.dev with cqBase := x } }
    else if off = 0x10 then .next { s with dev := writeControl s.dev (x.extractLsb' 0 32) }
    else if off = 0x14 then exec (.sqtailDoorbell (x.extractLsb' 0 32)) s
    else .next s := by
  have notDown : ¬linkUp s 0 = false := by rw [up]; simp
  rw [exec_hostRegisterWrite, execHostRegisterWrite, if_neg notDown]
  rfl

theorem hostRegisterWrite_control (x : DWord) : exec (.hostRegisterWrite 0x10 x) s = .next { s with dev := { s.dev with
    qEn := x.getLsbD 8, logN := if s.dev.qEn = true ∨ 6 ≤ x.toNat % 16 then s.dev.logN else BitVec.ofNat 4 (x.toNat % 16) } } := by
  rw [hostRegisterWrite_up up, if_neg (by decide), if_neg (by decide), if_pos rfl, writeControl_eq]

end

/-! ## What a partner may reach (R34, R339, R379) -/

theorem mayReach_of_bad {s : State} {port : Nat} {bytes : List Nat} {b : Nat} (hb : b ∈ bytes)
    (bad : populated s b = false ∨ inReserved s b = true ∨
      (∃ x ∈ leavesOver s bytes, pteOwn x.2.2.2 = true ∧ ownerPort s (pteFrame x.2.2.2) ≠ port) ∨
      (port ≠ 0 ∧ ∀ x ∈ leavesOver s bytes, leafMaps x.2.2.1 x.2.2.2 b = false)) : mayReach s port bytes = false := by
  rw [← Bool.not_eq_true]
  intro reach
  obtain ⟨each, owned⟩ := Bool.and_eq_true_iff.mp reach
  have this := List.all_eq_true.mp each b hb
  simp only [Bool.and_eq_true, Bool.or_eq_true, Bool.not_eq_true', beq_iff_eq, List.any_eq_true] at this
  obtain ⟨⟨there, free⟩, mapped⟩ := this
  obtain absent | reserved | ⟨x, hx, own, other⟩ | ⟨peer, unmapped⟩ := bad
  · rw [there] at absent; cases absent
  · rw [free] at reserved; cases reserved
  · have mine := List.all_eq_true.mp owned x hx
    rw [own] at mine
    exact other (by simpa using mine)
  · obtain host | ⟨x, hx, maps⟩ := mapped
    · exact peer host
    · rw [unmapped x hx] at maps; cases maps

/-- The partner's access changes the list of pages handed over alone (R36). -/
theorem partnerAccess_eq (s : State) (bytes : List Nat) : ∃ h, partnerAccess s bytes = { s with handedOver := h } := by
  unfold partnerAccess
  split
  · exact ⟨_, rfl⟩
  · exact ⟨_, rfl⟩

/-- One page of the device is handed to the partner (R36). -/
theorem handAllAway_one {s : State} {port ctx : Nat} {va : DWord} {es : List Nat} (ready : awayReady s ctx va = some es) :
    handAllAway s port [(ctx, va, 3)] = some (giveAway s ctx va es none port) := by
  have owned : ((leafAt s ctx va).map fun l => pteOwn l.2).getD true = false := by
    unfold awayReady at ready
    split at ready
    · cases ready
    next entry e hl =>
      dsimp only at ready
      split at ready
      · cases ready
      next free =>
        simp only [Bool.or_eq_true, not_or, Bool.not_eq_true] at free
        rw [hl]
        exact free.1.1.1
  simp [handAllAway, owned, ready]

/-! ## The accesses -/

section
variable {s : State} {agent : Byte} {pa len : Nat} {wr : Option (List Byte)}

theorem hostCxl_down (h : linkUp s agent.toNat = false) : exec (.hostCxlMemAccess agent pa wr len) s = .next s := by
  rw [exec_hostCxlMemAccess, execHostCxlMemAccess, h]
  rfl

theorem hostCxl_refused (h : mayReach s agent.toNat ((List.range ((wr.map (·.length)).getD len)).map (pa + ·)) = false) :
    exec (.hostCxlMemAccess agent pa wr len) s = .next s := by
  rw [exec_hostCxlMemAccess, execHostCxlMemAccess, if_pos (by simp [h])]

variable (up : linkUp s agent.toNat = true)
include up

theorem hostCxl_read (reach : mayReach s agent.toNat ((List.range len).map (pa + ·)) = true) :
    exec (.hostCxlMemAccess agent pa none len) s =
      ((handAllAway s agent.toNat (deviceLeaves s ((List.range len).map (pa + ·)))).map fun t =>
        Host.Outcome.next (partnerAccess t ((List.range len).map (pa + ·)))).getD (.next s) := by
  rw [exec_hostCxlMemAccess, execHostCxlMemAccess]
  rw [if_neg (by simp [up, reach])]
  dsimp only [Option.map_none, Option.getD_none]
  cases handAllAway s agent.toNat _ <;> rfl

/-- A partner's write replaces exactly its bytes, and clears the poison of the lines that it writes whole (R34, R57; log 61). -/
theorem hostCxl_write {bs : List Byte} (pins : NoPins s) (reach : mayReach s agent.toNat ((List.range bs.length).map (pa + ·)) = true)
    (alone : deviceLeaves s ((List.range bs.length).map (pa + ·)) = []) (free : holdsWalk s ((List.range bs.length).map (pa + ·)) = false) :
    ∃ h, exec (.hostCxlMemAccess agent pa (some bs) len) s = .next (clearWhole
      { rawWrite { s with handedOver := h } pa bs with now := s.now + 1 } ((List.range bs.length).map (pa + ·))) := by
  obtain ⟨h, performed⟩ := partnerAccess_eq s ((List.range bs.length).map (pa + ·))
  refine ⟨h, ?_⟩
  rw [exec_hostCxlMemAccess, execHostCxlMemAccess]
  rw [if_neg (by simp [up, reach, free])]
  dsimp only [Option.map_some, Option.getD_some]
  rw [alone, handAllAway]
  dsimp only
  rw [performed, breakPins_of_noPins]
  exact pins

end

/-- The lines that a run of bytes covers whole. -/
theorem whole_iff (pa n l : Nat) : ((List.range 128).all fun i => ((List.range n).map (pa + ·)).contains (lineBase l + i)) = true ↔
    pa ≤ 128 * l ∧ 128 * l + 128 ≤ pa + n := by
  have byte : ∀ b, b ∈ (List.range n).map (pa + ·) ↔ pa ≤ b ∧ b < pa + n := fun b => by
    rw [List.mem_map]
    exact ⟨fun ⟨j, hj, e⟩ => by rw [List.mem_range] at hj; omega, fun hb => ⟨b - pa, List.mem_range.mpr (by omega), by omega⟩⟩
  simp only [List.all_eq_true, List.mem_range, List.contains_eq_mem, decide_eq_true_eq, byte, lineBase]
  exact ⟨fun all => by have first := all 0 (by decide); have last := all 127 (by decide); omega, fun inside i hi => by omega⟩

end Sys2Proof.Machine
end

section
/-! SUPPORT. The hand-over of a page in both directions (R23, R35, R36, R84): the leaf rewritten, the page copied, and what waits for it;
and the host's side together (O55). -/

namespace Sys2Proof.Machine

/-! ## The leaf rewritten (R15) -/

theorem pteFrame_aligned (e : DWord) : pteFrame e % 4096 = 0 := Nat.mul_mod_left _ _

theorem pteFrame_lt (e : DWord) : pteFrame e < 2 ^ 52 := by
  have below := (e.extractLsb' 12 40 : BitVec 40).isLt
  unfold pteFrame
  omega

theorem frameMask_bit : ∀ i : Fin 64, (0x020FFFFFFFFFF000#64).getLsbD i = decide (12 ≤ i.val ∧ i.val < 52 ∨ i.val = 57) := by decide

theorem ownBit_bit : ∀ i : Fin 64, (0x0200000000000000#64).getLsbD i = decide (i.val = 57) := by decide

theorem testBit_aligned {f i : Nat} (aligned : f % 4096 = 0) (low : i < 12) : f.testBit i = false := by
  obtain ⟨k, rfl⟩ := Nat.dvd_of_mod_eq_zero aligned
  rw [show (4096 : Nat) = 2 ^ 12 by rfl, Nat.testBit_two_pow_mul]
  simp [Nat.not_le.mpr low]

/-- Bits of a leaf with another owner and frame: the frame's, OWN, and the rest of the leaf. -/
theorem getLsbD_leafWith (own : Bool) {f : Nat} (e : DWord) (aligned : f % 4096 = 0) (below : f < 2 ^ 52) {i : Nat} (hi : i < 64) :
    (leafWith own f e).getLsbD i = if 12 ≤ i ∧ i < 52 then f.testBit i else if i = 57 then own else e.getLsbD i := by
  have mask := frameMask_bit ⟨i, hi⟩
  have bit := ownBit_bit ⟨i, hi⟩
  dsimp only at mask bit
  have own' : (if own then 0x0200000000000000#64 else 0#64).getLsbD i = (own && decide (i = 57)) := by cases own <;> simp [bit]
  have high : 52 ≤ i → f.testBit i = false := fun h => Nat.testBit_lt_two_pow (lt_of_lt_of_le below (Nat.pow_le_pow_right (by decide) h))
  have low := testBit_aligned (i := i) aligned
  unfold leafWith
  rw [BitVec.getLsbD_or, BitVec.getLsbD_or, BitVec.getLsbD_and, BitVec.getLsbD_not, mask, own', BitVec.getLsbD_ofNat]
  grind

theorem pteOwn_leafWith (own : Bool) {f : Nat} (e : DWord) (aligned : f % 4096 = 0) (below : f < 2 ^ 52) : pteOwn (leafWith own f e) = own := by
  rw [pteOwn, getLsbD_leafWith own e aligned below (by decide)]
  rfl

theorem pteFrame_leafWith (own : Bool) {f : Nat} (e : DWord) (aligned : f % 4096 = 0) (below : f < 2 ^ 52) : pteFrame (leafWith own f e) = f := by
  have field : (leafWith own f e).extractLsb' 12 40 = BitVec.ofNat 40 (f / 4096) := by
    refine BitVec.eq_of_getLsbD_eq fun i hi => ?_
    rw [BitVec.getLsbD_extractLsb', getLsbD_leafWith own e aligned below (by omega), if_pos (by omega), BitVec.getLsbD_ofNat,
      show (4096 : Nat) = 2 ^ 12 by rfl, Nat.testBit_div_two_pow, Nat.add_comm]
  unfold pteFrame
  rw [field, BitVec.toNat_ofNat]
  omega

theorem testBit_pteFrame (e : DWord) (i : Nat) : (pteFrame e).testBit i = (decide (12 ≤ i ∧ i < 52) && e.getLsbD i) := by
  unfold pteFrame
  rw [show (4096 : Nat) = 2 ^ 12 by rfl, Nat.testBit_mul_two_pow, BitVec.testBit_toNat, BitVec.getLsbD_extractLsb']
  by_cases h : 12 ≤ i
  · have back : 12 + (i - 12) = i := by omega
    have range : (i - 12 < 40) ↔ i < 52 := by omega
    simp [h, back, range]
  · simp [h]

/-- The device takes a page in place: OWN becomes 0, and nothing else of the leaf changes (R35). -/
theorem leafWith_false_frame (e : DWord) : leafWith false (pteFrame e) e = e &&& ~~~0x0200000000000000#64 := by
  refine BitVec.eq_of_getLsbD_eq fun i hi => ?_
  have bit := ownBit_bit ⟨i, hi⟩
  dsimp only at bit
  rw [getLsbD_leafWith false e (pteFrame_aligned e) (pteFrame_lt e) hi, testBit_pteFrame, BitVec.getLsbD_and, BitVec.getLsbD_not, bit]
  grind

/-- The device gives a page in place: OWN becomes 1, and nothing else of the leaf changes (R36). -/
theorem leafWith_true_frame (e : DWord) : leafWith true (pteFrame e) e = e ||| 0x0200000000000000#64 := by
  refine BitVec.eq_of_getLsbD_eq fun i hi => ?_
  have bit := ownBit_bit ⟨i, hi⟩
  dsimp only at bit
  rw [getLsbD_leafWith true e (pteFrame_aligned e) (pteFrame_lt e) hi, testBit_pteFrame, BitVec.getLsbD_or, bit]
  grind

theorem rewriteLeaves_one (s : State) (a : Nat) (f : DWord → DWord) :
    rewriteLeaves s [a] f = rawWrite s a (bytesOf 8 (f (pteAt s a)).toNat) := rfl

theorem pteAt_rewriteLeaves_one (s : State) (a : Nat) (f : DWord → DWord) : pteAt (rewriteLeaves s [a] f) a = f (pteAt s a) :=
  pteAt_rawWrite_self s a _

theorem memByte_rewriteLeaves_one (s : State) {a : Nat} (f : DWord → DWord) {b : Nat} (h : ¬(a ≤ b ∧ b < a + 8)) :
    memByte (rewriteLeaves s [a] f) b = memByte s b :=
  memByte_rawWrite_of_outside s (by rw [bytesOf_length]; omega)

/-! ## A walk depends on memory and the capacity map alone (R19) -/

theorem walkFrom_congr {s t : State} (mem : t.mem = s.mem) (dev : t.dev = s.dev) (now : t.now = s.now) (va : DWord) (n level table : Nat) :
    walkFrom t va n level table = walkFrom s va n level table := by
  have entry : ∀ a, pteAt t a = pteAt s a := fun a => pteAt_congr fun j _ => by rw [memByte, mem]; rfl
  have member : ∀ a e, member64K t a e = member64K s a e := fun a e => by simp only [member64K, entry, now]
  have there : ∀ a, populated t a = populated s a := fun a => by simp only [populated, gibPresent, dev]
  induction n generalizing level table with
  | zero => rfl
  | succ n ih => rw [walkFrom, walkFrom, entry, member, there, ih]

theorem walk_congr {s t : State} (mem : t.mem = s.mem) (dev : t.dev = s.dev) (now : t.now = s.now) (root : Nat) (va : DWord) :
    walk t root va = walk s root va := walkFrom_congr mem dev now va 4 0 root

/-! ## Requests over a link (R60, R61) -/

/-- t is s but for what requests change: balances, and the lists of requests that issued or wait. -/
def OnlyAsks (s t : State) : Prop := ∃ rs ws sent, t = { s with regions := rs, waiting := ws, sent := sent }

theorem OnlyAsks.refl (s : State) : OnlyAsks s s := ⟨_, _, _, rfl⟩

theorem OnlyAsks.trans {s t u : State} (h : OnlyAsks s t) (k : OnlyAsks t u) : OnlyAsks s u := by
  obtain ⟨rs, ws, sent, rfl⟩ := h
  obtain ⟨rs', ws', sent', rfl⟩ := k
  exact ⟨rs', ws', sent', rfl⟩

theorem ask_onlyAsks (s : State) (who : Asker) (region : Nat) (a : Activity) (r line n : Nat) : OnlyAsks s (ask s who region a r line n).1 := by
  unfold ask
  split
  · unfold chargeAs
    split
    · exact ⟨_, _, _, rfl⟩
    · obtain ⟨rs, charged, -⟩ := charge_onlyBalances s region a r n
      rw [charged]
      exact ⟨_, _, _, rfl⟩
  · unfold waitFor
    dsimp only
    split
    · exact .refl s
    · exact ⟨_, _, _, rfl⟩

theorem askLink_onlyAsks (s : State) (who : Asker) (region : Nat) (a : Activity) (l : List Nat) : OnlyAsks s (askLink s who region a l).1 := by
  induction l generalizing s with
  | nil => exact .refl s
  | cons p ps ih => exact (ask_onlyAsks s who region a 0 p 1).trans (ih _)

theorem askMove_onlyAsks (s : State) (ctx page region : Nat) (e : DWord) (es : List Nat) (link : LinkResult) :
    OnlyAsks s (askMove s ctx page region e es link).1 := by
  unfold askMove
  dsimp only
  split
  · exact .refl s
  · exact askLink_onlyAsks s _ _ _ _

theorem askMove_dram (s : State) (ctx page region : Nat) {e : DWord} (es : List Nat) (link : LinkResult) (h : isDram (pteFrame e) = true) :
    askMove s ctx page region e es link = (s, true) := by
  rw [askMove, h]
  rfl

end Sys2Proof.Machine
end

section
/-! SUPPORT. A hand-over that was asked for, in its order: what holds it, the reads over the link, its failure and its success
(R23, R35, R61); the hand-over of an idle page from the device (R36, R84); and the host's side together (O55). -/

namespace Sys2Proof.Machine

/-! ## The list of hand-overs asked for -/

theorem handReq?_spec {s : State} {ctx page : Nat} {r : HandReq} (h : handReq? s ctx page = some r) : r.page = page := by
  have found := List.find?_some h
  simp only [Bool.and_eq_true, beq_iff_eq] at found
  exact found.2

theorem handReq?_dropReq (s : State) (ctx page : Nat) : handReq? (dropReq s ctx page) ctx page = none := by
  refine List.find?_eq_none.mpr fun r hr => ?_
  have kept := (List.mem_filter.mp hr).2
  rw [Bool.not_eq_true'] at kept
  rw [kept]
  exact Bool.false_ne_true

/-! ## Gangs whose next access raises OWNER (R35) -/

theorem foldl_field {α β : Type} {step : State → α → State} (f : State → β) (h : ∀ t x, f (step t x) = f t) (s : State) (l : List α) :
    f (l.foldl step s) = f s := by
  induction l generalizing s with
  | nil => rfl
  | cons x l ih => exact (ih (step s x)).trans (h s x)

theorem setK_setK {α : Type} (k : Nat) (v : α) (l : List (Nat × α)) : setK k v (setK k v l) = setK k v l := by
  induction l with
  | nil => simp [setK]
  | cons p l ih =>
    obtain ⟨j, w⟩ := p
    by_cases below : k < j
    · simp [setK, below]
    · by_cases same : j = k
      · simp [setK, same]
      · simp [setK, below, same, ih]

/-- The gang raises OWNER with this subcause at its next access to the page. -/
def failsAt (page sub : Nat) (g : Gang) : Gang := { g with ownerFail := setK page sub g.ownerFail }

theorem failsAt_failsAt (page sub : Nat) (g : Gang) : failsAt page sub (failsAt page sub g) = failsAt page sub g := by
  simp only [failsAt, setK_setK]

theorem gang?_modGang {s : State} {f : Gang → Gang} (hf : ∀ g, (f g).uid = g.uid) (w u : Nat) :
    gang? (modGang s w f) u = (gang? s u).map fun g => if u = w then f g else g := by
  have same : ((fun g : Gang => g.uid == u) ∘ fun h => if h.uid = w then f h else h) = fun g => g.uid == u := by
    funext h
    rw [Function.comp_apply]
    split
    · rw [hf]
    · rfl
  unfold gang? modGang
  rw [List.find?_map, same]
  cases found : s.gangs.find? fun g => g.uid == u with
  | none => rfl
  | some g =>
    have mine : g.uid = u := by simpa using List.find?_some found
    rw [Option.map_some, Option.map_some, mine]

theorem gang?_failsAt (page sub : Nat) (ws : List Nat) (s : State) (u : Nat) :
    gang? (ws.foldl (fun s u => modGang s u (failsAt page sub)) s) u = (gang? s u).map fun g => if u ∈ ws then failsAt page sub g else g := by
  induction ws generalizing s with
  | nil => simp
  | cons w ws ih =>
    rw [List.foldl_cons, ih, gang?_modGang (f := failsAt page sub) (fun _ => rfl), Option.map_map]
    congr 1
    funext g
    simp only [Function.comp_apply, List.mem_cons]
    by_cases first : u = w
    · by_cases again : u ∈ ws <;> simp [first, failsAt_failsAt]
    · simp [first]

/-- What a failed hand-over changes, where no copy command waits for it: the gangs that wait, grids and raster units (R35). -/
theorem failHandover_spec (s : State) {r : HandReq} (sub : Nat) (hc : r.cmds = []) :
    (failHandover s r sub).mem = s.mem ∧
      ∀ u ∈ r.waiters, ∀ g, gang? s u = some g → gang? (failHandover s r sub) u = some (failsAt r.page sub g) := by
  unfold failHandover
  rw [hc]
  extract_lets gangs grids units
  have mem : units.mem = s.mem := calc
    units.mem = grids.mem := foldl_field State.mem (by intros; rfl) grids r.units
    _ = gangs.mem := foldl_field State.mem (by intros; rfl) gangs r.grids
    _ = s.mem := foldl_field State.mem (by intros; rfl) s r.waiters
  have kept : units.gangs = gangs.gangs := calc
    units.gangs = grids.gangs := foldl_field State.gangs (by intros; rfl) grids r.units
    _ = gangs.gangs := foldl_field State.gangs (by intros; rfl) gangs r.grids
  refine ⟨mem, fun u hu g hg => ?_⟩
  have failed := gang?_failsAt r.page sub r.waiters s u
  rw [hg, Option.map_some, if_pos hu] at failed
  rw [← failed]
  show gang? units u = gang? gangs u
  simp only [gang?, kept]

/-! ## A page that comes to the device (R35) -/

theorem entryBytes_one (a : Nat) : entryBytes [a] = (List.range 8).map (a + ·) := by simp [entryBytes]

theorem leafEntries_one (entry : Nat) {e : DWord} (h : ptePS e = false) : leafEntries entry e = [entry] := by simp [leafEntries, h]

theorem awaitsParty_one (s : State) (entry : Nat) (p : Party) : awaitsParty s [entry] p = true ↔ (entry, p) ∈ s.handedOver := by
  simp only [awaitsParty, List.any_eq_true, Bool.and_eq_true, beq_iff_eq, List.contains_eq_mem, List.mem_singleton, decide_eq_true_eq]
  exact ⟨fun ⟨h, m, hp, he⟩ => by rwa [← he, ← hp], fun m => ⟨_, m, rfl, rfl⟩⟩

theorem context?_rawWrite (s : State) (a : Nat) (bs : List Byte) (n : Nat) : context? (rawWrite s a bs) n = context? s n := rfl

/-- What is written of a hand-over that succeeded: its request is gone, and the party has the next access (R36). -/
def tookOver (t : State) (ctx page entry now : Nat) : State := { noteHanded (dropReq t ctx page) [entry] .device with now := now }

/-- A hand-over of one page once its reads over the link have been asked for: it waits for them, fails or succeeds (R35, R61). -/
def handOverAfter (ctx : Nat) (va : DWord) (r : HandReq) (entry : Nat) (link : LinkResult) : State × Bool → Out
  | (t, false) => .next t
  | (s, true) => match handOver s ctx va link with
    | .failed sub => .next (dropReq (failHandover s r sub) ctx r.page)
    | .done t => .next (breakPins (tookOver t ctx r.page entry (t.now + 1)))

section
variable (t : State) (ctx page entry now : Nat)

theorem pteAt_tookOver (a : Nat) : pteAt (tookOver t ctx page entry now) a = pteAt t a := rfl

theorem context?_tookOver (n : Nat) : context? (tookOver t ctx page entry now) n = context? t n := rfl

theorem readBytes_tookOver (key a n : Nat) : readBytes (tookOver t ctx page entry now) key a n = readBytes t key a n := rfl

theorem handReq?_tookOver : handReq? (tookOver t ctx page entry now) ctx page = none := handReq?_dropReq t ctx page

theorem mem_handedOver_tookOver : (entry, Party.device) ∈ (tookOver t ctx page entry now).handedOver := List.mem_append_left _ (List.mem_singleton.mpr rfl)

end

section
variable {s : State} {ctx : Nat} {va : DWord} {r : HandReq} {c : Context} {entry : Nat} {e : DWord} {link : LinkResult}
  (hr : handReq? s ctx (va.toNat / 4096) = some r) (hc : context? s ctx = some c) (hw : walk s c.root va = .leaf 3 entry e)
  (own : pteOwn e = true) (ps : ptePS e = false)
include hr hc hw own ps

theorem ownershipHandover_eq : exec (.ownershipHandover ctx va link) s =
    if holdsWalk s (entryBytes [entry]) || awaitsParty s [entry] .partner then .next s
    else handOverAfter ctx va r entry (linkNow s (pteFrame e) link)
      (askMove s ctx r.page (handRegion s r) e [entry] (linkNow s (pteFrame e) link)) := by
  have key : pageKey s ctx va = va.toNat / 4096 := by simp [pageKey, hc, hw, ps]
  rw [exec_ownershipHandover, execOwnershipHandover, key, hr]
  dsimp only
  rw [leafAt_of_walk hc hw]
  dsimp only
  rw [leafEntries_one entry ps, own, if_neg (by simp)]
  rfl

theorem ownershipHandover_held (held : holdsWalk s ((List.range 8).map (entry + ·)) = true ∨ (entry, Party.partner) ∈ s.handedOver) :
    exec (.ownershipHandover ctx va link) s = .next s := by
  have waits : (holdsWalk s (entryBytes [entry]) || awaitsParty s [entry] .partner) = true := by
    rw [Bool.or_eq_true, entryBytes_one, awaitsParty_one]
    exact held
  rw [ownershipHandover_eq hr hc hw own ps, if_pos waits]

variable {u : State} (free : holdsWalk s ((List.range 8).map (entry + ·)) = false) (due : (entry, Party.partner) ∉ s.handedOver)
include free due

theorem ownershipHandover_free : exec (.ownershipHandover ctx va link) s = handOverAfter ctx va r entry (linkNow s (pteFrame e) link)
    (askMove s ctx r.page (handRegion s r) e [entry] (linkNow s (pteFrame e) link)) := by
  have ready : ¬(holdsWalk s (entryBytes [entry]) || awaitsParty s [entry] .partner) = true := by
    rw [entryBytes_one, free, Bool.false_or, awaitsParty_one]
    exact due
  rw [ownershipHandover_eq hr hc hw own ps, if_neg ready]

theorem ownershipHandover_asks (asked : askMove s ctx r.page (handRegion s r) e [entry] (linkNow s (pteFrame e) link) = (u, false)) :
    exec (.ownershipHandover ctx va link) s = .next u := by
  rw [ownershipHandover_free hr hc hw own ps free due, asked, handOverAfter]

variable (asked : askMove s ctx r.page (handRegion s r) e [entry] (linkNow s (pteFrame e) link) = (u, true))
include asked

theorem ownershipHandover_failed {sub : Nat} (failed : handOver u ctx va (linkNow s (pteFrame e) link) = .failed sub) :
    exec (.ownershipHandover ctx va link) s = .next (dropReq (failHandover u r sub) ctx (va.toNat / 4096)) := by
  rw [ownershipHandover_free hr hc hw own ps free due, asked, handOverAfter, failed, handReq?_spec hr]

theorem ownershipHandover_done {t : State} (done : handOver u ctx va (linkNow s (pteFrame e) link) = .done t) (pins : NoPins t) :
    exec (.ownershipHandover ctx va link) s = .next (tookOver t ctx (va.toNat / 4096) entry (t.now + 1)) := by
  have still : NoPins (tookOver t ctx (va.toNat / 4096) entry (t.now + 1)) := pins
  rw [ownershipHandover_free hr hc hw own ps free due, asked, handOverAfter, done, handReq?_spec hr]
  exact congrArg Host.Outcome.next (breakPins_of_noPins still)

end

/-- The page in device DRAM that comes to the device: OWN becomes 0, in place (R35). -/
theorem handOver_inPlace {s : State} {ctx : Nat} {va : DWord} {c : Context} {entry : Nat} {e : DWord} {link : LinkResult}
    (hc : context? s ctx = some c) (hw : walk s c.root va = .leaf 3 entry e) (own : pteOwn e = true) (ps : ptePS e = false)
    (up : link ≠ .failed) (dram : isDram (pteFrame e) = true) :
    handOver s ctx va link = .done (rewriteLeaves (lend s (pteFrame e) 1 0) [entry] (leafWith false (pteFrame e))) := by
  rw [handOver, hc]
  dsimp only
  rw [hw]
  dsimp only
  rw [own, leafEntries_one entry ps, dram, if_neg (by simp), if_pos rfl, if_neg up, ps]
  rfl

/-- A page copied from a window to frame f of the pool, and mapped there (R35; log 66). -/
def fetched (s : State) (ctx entry f : Nat) (e : DWord) : State :=
  rewriteLeaves (modContext (writeBytes s (pteKey e) f (rawBytes s (pteFrame e) 4096)) ctx fun c =>
    { c with pool := c.pool.filter fun x => !(f ≤ x && x < f + 4096) }) [entry] (leafWith false f)

theorem handOver_moved {s : State} {ctx : Nat} {va : DWord} {c : Context} {entry f : Nat} {e : DWord}
    (hc : context? s ctx = some c) (hw : walk s c.root va = .leaf 3 entry e) (own : pteOwn e = true) (ps : ptePS e = false)
    (window : isDram (pteFrame e) = false) (clean : ∀ l, l < 32 → lineOf (pteFrame e) + l ∉ s.linePoison) (hf : poolFrame c.pool 1 = some f) :
    handOver s ctx va .ok = .done (fetched s ctx entry f e) := by
  have unpoisoned : ((List.range (32 * 1)).any fun l => s.linePoison.contains (lineOf (pteFrame e) + l)) = false := by
    rw [List.any_eq_false]
    intro l hl
    simpa using clean l (List.mem_range.mp hl)
  rw [handOver, hc]
  dsimp only
  rw [hw]
  dsimp only
  rw [own, leafEntries_one entry ps, window, if_neg (by simp), if_neg (by simp), ps]
  rw [if_neg (by simp), hf]
  dsimp only
  rw [if_neg (by simp), unpoisoned, if_neg (by simp)]
  rfl

theorem poolFrame_spec {pool : List Nat} {n f : Nat} (h : poolFrame pool n = some f) : f % (4096 * n) = 0 := by
  have found := List.find?_some h
  rw [Bool.and_eq_true, beq_iff_eq] at found
  exact found.1

theorem context?_modContext {s : State} {f : Context → Context} (hf : ∀ c, (f c).num = c.num) (n : Nat) :
    context? (modContext s n f) n = (context? s n).map f := by
  have same : ((fun c : Context => c.num == n) ∘ fun c => if c.num = n then f c else c) = fun c => c.num == n := by
    funext c
    rw [Function.comp_apply]
    split
    · rw [hf]
    · rfl
  unfold context? modContext
  rw [List.find?_map, same]
  cases found : s.contexts.find? fun c => c.num == n with
  | none => rfl
  | some c =>
    have mine : c.num = n := by simpa using List.find?_some found
    rw [Option.map_some, Option.map_some, if_pos mine]

section
variable {s : State} {ctx entry f : Nat} {e : DWord} (aligned : f % 4096 = 0)
include aligned

/-- The frame holds, under the key of the leaf, the bytes of the window page. -/
theorem readBytes_fetched (hk : (keyPair s (pteKey e)).isSome) (apart : entry + 8 ≤ f ∨ f + 4096 ≤ entry) :
    readBytes (fetched s ctx entry f e) (pteKey e) f 4096 = rawBytes s (pteFrame e) 4096 := by
  have keys : (fetched s ctx entry f e).keys = (writeBytes s (pteKey e) f (rawBytes s (pteFrame e) 4096)).keys := by
    rw [fetched, rewriteLeaves_one, rawWrite_keys, modContext_keys]
  have lineKey : (fetched s ctx entry f e).lineKey = (writeBytes s (pteKey e) f (rawBytes s (pteFrame e) 4096)).lineKey := by
    rw [fetched, rewriteLeaves_one, rawWrite_lineKey, modContext_lineKey]
  refine readBytes_of_written hk (rawBytes_length _ _ _) aligned keys lineKey fun a low high => ?_
  rw [fetched, memByte_rewriteLeaves_one _ _ (by omega), memByte_modContext]

variable (below : f < 2 ^ 40)
include below

theorem pteFrame_fetched : pteFrame (pteAt (fetched s ctx entry f e) entry) = f := by
  rw [fetched, pteAt_rewriteLeaves_one]
  exact pteFrame_leafWith false _ aligned (by omega)

theorem pteOwn_fetched : pteOwn (pteAt (fetched s ctx entry f e) entry) = false := by
  rw [fetched, pteAt_rewriteLeaves_one]
  exact pteOwn_leafWith false _ aligned (by omega)

end

theorem fetched_gangs (s : State) (ctx entry f : Nat) (e : DWord) : (fetched s ctx entry f e).gangs = s.gangs := by
  rw [fetched, rewriteLeaves_one, rawWrite_gangs, modContext_gangs, writeBytes_gangs]

theorem context?_fetched (s : State) (ctx entry f : Nat) (e : DWord) : context? (fetched s ctx entry f e) ctx =
    (context? s ctx).map fun c => { c with pool := c.pool.filter fun x => !(f ≤ x && x < f + 4096) } := by
  have kept := writeBytes_field (context? · ctx) (fun _ _ _ => rfl) s (pteKey e) f (rawBytes s (pteFrame e) 4096)
  rw [fetched, rewriteLeaves_one, context?_rawWrite, ← kept]
  exact context?_modContext (f := fun c => { c with pool := c.pool.filter fun x => !(f ≤ x && x < f + 4096) }) (fun _ => rfl) ctx

/-! ## A page that leaves the device (R36, R84) -/

/-- The lines of a page. -/
def pageLines (frame : Nat) : List Nat := (List.range 32).map (lineOf frame + ·)

theorem leafPages_one {e : DWord} (h : ptePS e = false) : leafPages e = [pteFrame e] := by simp [leafPages, h]

theorem readBytes_forgetLines (s : State) (lines : List Nat) (key a n : Nat) : readBytes (forgetLines s lines) key a n = readBytes s key a n := rfl

theorem context?_forgetLines (s : State) (lines : List Nat) (n : Nat) : context? (forgetLines s lines) n = context? s n := rfl

theorem forgetLines_now (s : State) (lines : List Nat) : (forgetLines s lines).now = s.now := rfl

theorem spanWritesPage_idle {g : Gang} (ver : g.span.ver = []) (p : Nat → Bool) : spanWritesPage g.span p = false := by
  rw [spanWritesPage, ver]
  rfl

theorem gang?_mem {s : State} {u : Nat} {g : Gang} (h : gang? s u = some g) : g ∈ s.gangs := List.mem_of_find?_eq_some h

section
variable {s : State} (idle : IdleSpans s)
include idle

theorem noPins_of_idle : NoPins s := fun g hg => by
  obtain ⟨-, pins, moves, -⟩ := idle g hg
  exact ⟨pins, moves⟩

theorem commitForHandover_idle (p : Nat → Bool) (u : Nat) : commitForHandover p s u = s := by
  unfold commitForHandover
  split
  · rfl
  next g hg =>
    obtain ⟨ver, -⟩ := idle g (gang?_mem hg)
    rw [spanWritesPage_idle ver]
    rfl

theorem restartForHandover_idle (p : Nat → Bool) (lines : List Nat) (u : Nat) : restartForHandover p lines s u = s := by
  unfold restartForHandover
  split
  · rfl
  next g hg =>
    obtain ⟨-, pins, moves, reads, sigReads, formReads, touched, ovf⟩ := idle g (gang?_mem hg)
    simp [spanReadsPage, pins, moves, reads, sigReads, formReads, touched, ovf]

/-- Idle spans have nothing of any page (R84). -/
theorem spansForHandover_idle (p : Nat → Bool) (lines : List Nat) : spansForHandover s p lines = s := by
  unfold spansForHandover
  dsimp only
  rw [List.foldl_fixed' (commitForHandover_idle idle p), List.foldl_fixed' (restartForHandover_idle idle p lines)]

theorem holdsPage_idle (stores : ∀ g ∈ s.gangs, accStLines s g.uid = []) (p : Nat → Bool) : holdsPage s p = false := by
  refine List.any_eq_false.mpr fun g hg => ?_
  obtain ⟨ver, -⟩ := idle g hg
  rw [spanWritesPage_idle ver, stores g hg]
  simp

variable {ctx : Nat} {va : DWord} {c : Context} {entry : Nat} {e : DWord} (hc : context? s ctx = some c)
  (hw : walk s c.root va = .leaf 3 entry e) (own : pteOwn e = false) (ps : ptePS e = false)
include hc hw own ps

/-- The page in place, handed to the owner at a port. -/
theorem handAway_inPlace (port : Nat) : handAway s ctx va none port =
    { rewriteLeaves (lend (forgetLines s (pageLines (pteFrame e))) (pteFrame e) 1 port) [entry] (leafWith true (pteFrame e)) with
      now := s.now + 1 } := by
  unfold handAway
  rw [hc]
  dsimp only
  rw [hw]
  dsimp only
  rw [own, if_neg (by simp), leafPages_one ps, leafEntries_one entry ps, spansForHandover_idle idle, List.flatMap_singleton]
  rfl

/-- The page, moved to frame f of a window; its frame joins the pool (log 67). -/
theorem handAway_moved (f port : Nat) : handAway s ctx va (some f) port =
    { modContext (rewriteLeaves (rawWrite (forgetLines s (pageLines (pteFrame e))) f (readBytes s (pteKey e) (pteFrame e) 4096))
        [entry] (leafWith true f)) ctx (fun c => { c with pool := c.pool ++ [pteFrame e] }) with now := s.now + 1 } := by
  unfold handAway
  rw [hc]
  dsimp only
  rw [hw]
  dsimp only
  rw [own, if_neg (by simp), leafPages_one ps, leafEntries_one entry ps, spansForHandover_idle idle, List.flatMap_singleton]
  simp only [List.length_singleton, Nat.mul_one, Option.isSome_some, if_true, readBytes_forgetLines, pageLines, rewriteLeaves_one,
    modContext_now, rawWrite_now, forgetLines_now]

end

theorem noPins_forgetLines {s : State} (h : NoPins s) (lines : List Nat) : NoPins (forgetLines s lines) := fun g hg => by
  obtain ⟨k, hk, rfl⟩ := List.mem_map.mp hg
  exact h k hk

/-- A core that forgets these lines. -/
def forgetInCore (lines : List Nat) (k : Core) : Core :=
  { k with l1 := dropLines k.l1 lines, icache := dropLines k.icache lines,
           dbc := k.dbc.filter fun e => !e.lines.any fun l => lines.contains l }

theorem coreOf_forgetLines (s : State) (lines : List Nat) (q : Nat) : coreOf (forgetLines s lines) q = forgetInCore lines (coreOf s q) := calc
    (getK q (s.cores.map fun p => (p.1, forgetInCore lines p.2))).getD Core.zero
      = ((getK q s.cores).map (forgetInCore lines)).getD Core.zero := by rw [getK_map]
    _ = forgetInCore lines ((getK q s.cores).getD Core.zero) := by cases getK q s.cores <;> rfl

/-- What the L1 caches keep: no line of those forgotten (R36). -/
theorem mem_l1_forgetLines {s : State} {lines : List Nat} {q : Nat} {l : CacheLine} (h : l ∈ (coreOf (forgetLines s lines) q).l1) :
    l ∈ (coreOf s q).l1 ∧ l.line ∉ lines := by
  rw [coreOf_forgetLines, forgetInCore, dropLines, List.mem_filter] at h
  simpa using h

theorem mem_pageLines {frame : Nat} (aligned : frame % 4096 = 0) {l : Nat} (h : l / 32 = frame / 4096) : l ∈ pageLines frame :=
  List.mem_map.mpr ⟨l - lineOf frame, List.mem_range.mpr (by unfold lineOf; omega), by unfold lineOf; omega⟩

/-! ## Whether the page may leave (R23, R36) -/

section
variable {s : State} {ctx : Nat} {va : DWord} {c : Context} {entry : Nat} {e : DWord} (hc : context? s ctx = some c)
  (hw : walk s c.root va = .leaf 3 entry e) (own : pteOwn e = false) (ps : ptePS e = false)
include hc hw ps

theorem awayReady_none (held : (entry, Party.device) ∈ s.handedOver ∨ holdsWalk s ((List.range 8).map (entry + ·)) = true) :
    awayReady s ctx va = none := by
  have waits : (awaitsParty s [entry] .device || holdsWalk s (entryBytes [entry])) = true := by
    rw [Bool.or_eq_true, entryBytes_one, awaitsParty_one]
    exact held
  unfold awayReady
  rw [leafAt_of_walk hc hw]
  dsimp only
  rw [leafEntries_one entry ps]
  rw [if_pos]
  rw [Bool.or_eq_true] at waits
  simp only [Bool.or_eq_true]
  tauto

include own in
theorem awayReady_idle (idle : IdleSpans s) (due : (entry, Party.device) ∉ s.handedOver)
    (free : holdsWalk s ((List.range 8).map (entry + ·)) = false) (stores : ∀ g ∈ s.gangs, accStLines s g.uid = []) :
    awayReady s ctx va = some [entry] := by
  have awaits : awaitsParty s [entry] .device = false := by
    rw [← Bool.not_eq_true, awaitsParty_one]
    exact due
  unfold awayReady
  rw [leafAt_of_walk hc hw]
  dsimp only
  rw [leafEntries_one entry ps, own, awaits, entryBytes_one, free, holdsPage_idle idle stores]
  rfl

end

/-! ## The page given away -/

theorem giveAway_noPins {s : State} {ctx : Nat} {va : DWord} {es : List Nat} {moveTo : Option Nat} {port : Nat}
    (h : NoPins (handAway s ctx va moveTo port)) : giveAway s ctx va es moveTo port = noteHanded (handAway s ctx va moveTo port) es .partner := by
  rw [giveAway, breakPins_of_noPins]
  exact h

/-- What is written of a page that moved away: its frame is in the pool, and the partner has the next access (R36; log 67). -/
def movedAway (t : State) (ctx frame entry now : Nat) : State :=
  noteHanded { modContext t ctx (fun c => { c with pool := c.pool ++ [frame] }) with now := now } [entry] .partner

section
variable (t : State) (ctx frame entry now : Nat)

theorem pteAt_movedAway (a : Nat) : pteAt (movedAway t ctx frame entry now) a = pteAt t a := rfl

theorem rawBytes_movedAway (a n : Nat) : rawBytes (movedAway t ctx frame entry now) a n = rawBytes t a n := rfl

theorem context?_movedAway : context? (movedAway t ctx frame entry now) ctx = (context? t ctx).map fun c => { c with pool := c.pool ++ [frame] } :=
  context?_modContext (s := t) (f := fun c => { c with pool := c.pool ++ [frame] }) (fun _ => rfl) ctx

end

section
variable {s : State} {ctx : Nat} {va : DWord} {c : Context} {entry : Nat} {e : DWord} (hc : context? s ctx = some c)
  (hw : walk s c.root va = .leaf 3 entry e) (own : pteOwn e = false) (ps : ptePS e = false) (idle : IdleSpans s)
  (due : (entry, Party.device) ∉ s.handedOver) (free : holdsWalk s ((List.range 8).map (entry + ·)) = false)
  (stores : ∀ g ∈ s.gangs, accStLines s g.uid = [])
include hc hw own ps idle due free stores

/-- A page given away in place: OWN becomes 1, and no L1 cache keeps a line of it (R36, R84). -/
theorem handoverFromDevice_inPlace (stands : pteAt s entry = e) : ∃ v, exec (.handoverFromDevice ctx va none) s = .next v ∧
    pteAt v entry = e ||| 0x0200000000000000#64 ∧ (∀ a, ¬(entry ≤ a ∧ a < entry + 8) → memByte v a = memByte s a) ∧
    (entry, Party.partner) ∈ v.handedOver ∧ ∀ q l, l ∈ (coreOf v q).l1 → l ∈ (coreOf s q).l1 ∧ l.line / 32 ≠ pteFrame e / 4096 := by
  have ready := awayReady_idle hc hw own ps idle due free stores
  have away := handAway_inPlace idle hc hw own ps 0
  have pins : NoPins (handAway s ctx va none 0) := by
    rw [away]
    exact noPins_forgetLines (noPins_of_idle idle) _
  refine ⟨giveAway s ctx va [entry] none 0, ?_, ?_⟩
  · rw [exec_handoverFromDevice, execHandoverFromDevice, ready]
    rfl
  rw [giveAway_noPins pins, away]
  refine ⟨?_, fun a out => ?_, List.mem_append_left _ (List.mem_singleton.mpr rfl), fun q l hl => ?_⟩
  · calc pteAt (rewriteLeaves (lend (forgetLines s (pageLines (pteFrame e))) (pteFrame e) 1 0) [entry] (leafWith true (pteFrame e))) entry
        = leafWith true (pteFrame e) (pteAt s entry) := pteAt_rewriteLeaves_one _ _ _
      _ = e ||| 0x0200000000000000#64 := by rw [stands, leafWith_true_frame]
  · exact memByte_rewriteLeaves_one _ _ out
  · obtain ⟨before, outside⟩ := mem_l1_forgetLines (s := s) (lines := pageLines (pteFrame e)) (q := q) hl
    exact ⟨before, fun same => outside (mem_pageLines (pteFrame_aligned e) same)⟩

/-- A page moved to a frame of a window: the bytes that its key gave, and its own frame joins the pool (R36; log 67). -/
theorem handoverFromDevice_moved {f : Nat} (window : windowFrame s 1 f = true) (dram : isDram entry = true) :
    ∃ v, exec (.handoverFromDevice ctx va (some f)) s = .next v ∧ pteOwn (pteAt v entry) = true ∧ pteFrame (pteAt v entry) = f ∧
      rawBytes v f 4096 = readBytes s (pteKey e) (pteFrame e) 4096 ∧ ∃ k, context? v ctx = some k ∧ k.pool = c.pool ++ [pteFrame e] := by
  have ready := awayReady_idle hc hw own ps idle due free stores
  have away := handAway_moved idle hc hw own ps f 0
  have pins : NoPins (handAway s ctx va (some f) 0) := by
    rw [away]
    exact noPins_forgetLines (noPins_of_idle idle) _
  have place : 2 ^ 48 ≤ f ∧ f < 2 ^ 52 ∧ f % 4096 = 0 := by
    simp [windowFrame, isHostWin, isPeerWin] at window
    omega
  obtain ⟨high, below, aligned⟩ := place
  have low : entry < 2 ^ 40 := by simpa [isDram] using dram
  refine ⟨giveAway s ctx va [entry] (some f) 0, ?_, ?_⟩
  · rw [exec_handoverFromDevice, execHandoverFromDevice, ready]
    exact if_pos window
  rw [giveAway_noPins pins, away]
  change pteOwn (pteAt (movedAway _ ctx (pteFrame e) entry _) entry) = true ∧ pteFrame (pteAt (movedAway _ ctx (pteFrame e) entry _) entry) = f ∧
    rawBytes (movedAway _ ctx (pteFrame e) entry _) f 4096 = _ ∧ ∃ k, context? (movedAway _ ctx (pteFrame e) entry _) ctx = some k ∧ k.pool = _
  rw [pteAt_movedAway, pteAt_rewriteLeaves_one, pteOwn_leafWith true _ aligned below, pteFrame_leafWith true _ aligned below,
    rawBytes_movedAway, context?_movedAway]
  refine ⟨rfl, rfl, ?_, ?_⟩
  · rw [rewriteLeaves_one, rawBytes_rawWrite_of_outside _ (by rw [bytesOf_length]; omega)]
    exact rawBytes_rawWrite_of_length _ _ (by simp [readBytes])
  · refine ⟨{ c with pool := c.pool ++ [pteFrame e] }, ?_, rfl⟩
    rw [rewriteLeaves_one, context?_rawWrite, context?_rawWrite, context?_forgetLines, hc]
    rfl

end

end Sys2Proof.Machine
end

section
/-! SUPPORT. The host's side together (O55). -/

namespace Sys2Proof.Machine

/-- The state that a partner's write leaves. -/
theorem hostCxl_written {s : State} {agent : Byte} {pa len : Nat} {bs : List Byte} (up : linkUp s agent.toNat = true) (pins : NoPins s)
    (reach : mayReach s agent.toNat ((List.range bs.length).map (pa + ·)) = true)
    (alone : deviceLeaves s ((List.range bs.length).map (pa + ·)) = []) (free : holdsWalk s ((List.range bs.length).map (pa + ·)) = false) :
    ∃ v, exec (.hostCxlMemAccess agent pa (some bs) len) s = .next v ∧ rawBytes v pa bs.length = bs ∧
      (∀ a, (a < pa ∨ pa + bs.length ≤ a) → memByte v a = memByte s a) ∧ v.gangs = s.gangs ∧
      ∀ l, l ∈ v.linePoison ↔ l ∈ s.linePoison ∧ ¬(pa ≤ 128 * l ∧ 128 * l + 128 ≤ pa + bs.length) := by
  obtain ⟨h, written⟩ := hostCxl_write (pa := pa) (len := len) up pins reach alone free
  refine ⟨_, written, ?_, fun a out => ?_, rfl, fun l => ?_⟩
  · exact rawBytes_rawWrite_self { s with handedOver := h } pa bs
  · exact memByte_rawWrite_of_outside { s with handedOver := h } out
  · rw [← whole_iff]
    simp [clearWhole]

section
variable {s : State} {ctx : Nat} {va : DWord} {r : HandReq} {c : Context} {entry : Nat} {e : DWord} {link : LinkResult}
  (hr : handReq? s ctx (va.toNat / 4096) = some r) (hc : context? s ctx = some c) (hw : walk s c.root va = .leaf 3 entry e)
  (own : pteOwn e = true) (ps : ptePS e = false) (free : holdsWalk s ((List.range 8).map (entry + ·)) = false)
  (due : (entry, Party.partner) ∉ s.handedOver)
include hr hc hw own ps free due

/-- A hand-over that fails marks its waiters, and no byte changes (R35). -/
theorem ownershipHandover_marks {u : State} {sub : Nat}
    (asked : askMove s ctx r.page (handRegion s r) e [entry] (linkNow s (pteFrame e) link) = (u, true))
    (failed : handOver u ctx va (linkNow s (pteFrame e) link) = .failed sub) (cmds : r.cmds = []) :
    ∃ v, exec (.ownershipHandover ctx va link) s = .next v ∧ v.mem = s.mem ∧ handReq? v ctx (va.toNat / 4096) = none ∧
      ∀ w ∈ r.waiters, ∀ g, gang? s w = some g →
        ∃ k, gang? v w = some k ∧ k.ownerFail = setK r.page sub g.ownerFail ∧ { k with ownerFail := g.ownerFail } = g := by
  have only := askMove_onlyAsks s ctx r.page (handRegion s r) e [entry] (linkNow s (pteFrame e) link)
  rw [asked] at only
  obtain ⟨rs, ws, sent, rfl⟩ := only
  obtain ⟨mem, marks⟩ := failHandover_spec { s with regions := rs, waiting := ws, sent := sent } sub cmds
  exact ⟨_, ownershipHandover_failed hr hc hw own ps free due asked failed, mem, handReq?_dropReq _ _ _,
    fun w hw g hg => ⟨failsAt r.page sub g, marks w hw g hg, rfl, rfl⟩⟩

variable (pins : NoPins s)
include pins

/-- A page in device DRAM comes to the device in place (R35). -/
theorem ownershipHandover_inPlace (stands : pteAt s entry = e) (up : linkNow s (pteFrame e) link ≠ .failed) (dram : isDram (pteFrame e) = true) :
    ∃ v, exec (.ownershipHandover ctx va link) s = .next v ∧
      pteAt v entry = e &&& ~~~0x0200000000000000#64 ∧ handReq? v ctx (va.toNat / 4096) = none ∧ (entry, Party.device) ∈ v.handedOver ∧
      ∀ a, ¬(entry ≤ a ∧ a < entry + 8) → memByte v a = memByte s a := by
  have asked := askMove_dram s ctx r.page (handRegion s r) [entry] (linkNow s (pteFrame e) link) dram
  refine ⟨_, ownershipHandover_done hr hc hw own ps free due asked (handOver_inPlace hc hw own ps up dram) pins, ?_,
    handReq?_tookOver _ _ _ _ _, mem_handedOver_tookOver _ _ _ _ _, fun a out => ?_⟩
  · calc pteAt (rewriteLeaves (lend s (pteFrame e) 1 0) [entry] (leafWith false (pteFrame e))) entry
        = leafWith false (pteFrame e) (pteAt s entry) := pteAt_rewriteLeaves_one _ _ _
      _ = e &&& ~~~0x0200000000000000#64 := by rw [stands, leafWith_false_frame]
  · exact memByte_rewriteLeaves_one _ _ out

/-- A page of a window comes to the device: its bytes are copied to a frame of the pool (R35; log 66). -/
theorem ownershipHandover_moved {u : State} {f : Nat}
    (asked : askMove s ctx r.page (handRegion s r) e [entry] (linkNow s (pteFrame e) link) = (u, true))
    (up : linkNow s (pteFrame e) link = .ok) (window : isDram (pteFrame e) = false)
    (clean : ∀ l, l < 32 → lineOf (pteFrame e) + l ∉ s.linePoison) (hf : poolFrame c.pool 1 = some f) (below : f < 2 ^ 40)
    (hk : (keyPair s (pteKey e)).isSome) (apart : entry + 8 ≤ f ∨ f + 4096 ≤ entry) :
    ∃ v, exec (.ownershipHandover ctx va link) s = .next v ∧ pteFrame (pteAt v entry) = f ∧ pteOwn (pteAt v entry) = false ∧
      readBytes v (pteKey e) f 4096 = rawBytes s (pteFrame e) 4096 ∧ handReq? v ctx (va.toNat / 4096) = none ∧
      ∃ k, context? v ctx = some k ∧ k.pool = c.pool.filter fun x => !(f ≤ x && x < f + 4096) := by
  have only := askMove_onlyAsks s ctx r.page (handRegion s r) e [entry] (linkNow s (pteFrame e) link)
  rw [asked] at only
  obtain ⟨rs, ws, sent, rfl⟩ := only
  have aligned : f % 4096 = 0 := poolFrame_spec hf
  have moved := handOver_moved (s := { s with regions := rs, waiting := ws, sent := sent }) (va := va) hc
    ((walk_congr rfl rfl rfl c.root va).trans hw) own ps window clean hf
  rw [← up] at moved
  have still : NoPins (fetched { s with regions := rs, waiting := ws, sent := sent } ctx entry f e) := by
    rw [NoPins, fetched_gangs]
    exact pins
  refine ⟨_, ownershipHandover_done hr hc hw own ps free due asked moved still, ?_, ?_, ?_, handReq?_tookOver _ _ _ _ _, ?_⟩
  · rw [pteAt_tookOver, pteFrame_fetched aligned below]
  · rw [pteAt_tookOver, pteOwn_fetched aligned below]
  · rw [readBytes_tookOver]
    exact readBytes_fetched aligned hk apart
  · refine ⟨{ c with pool := c.pool.filter fun x => !(f ≤ x && x < f + 4096) }, ?_, rfl⟩
    rw [context?_tookOver, context?_fetched]
    exact congrArg (Option.map _) hc

end

/-- Settles O55, part by part: RESET, the registers, the links, a partner's access, and the hand-overs, each by its lemmas above. -/
theorem hostSide : Obligations.HostSide := by
  refine ⟨?reset, ?registers, ?links, ?access, ?toDevice, ?fromDevice⟩
  case reset =>
    intro s
    have cores := coreOf_reset (s := s) rfl
    refine ⟨_, rfl, rfl, rfl, rfl, rfl, rfl, rfl, rfl, rfl, rfl, rfl, rfl, rfl, rfl, rfl, rfl, rfl, rfl, rfl, rfl, rfl, rfl, rfl, fun c => ?_⟩
    obtain ⟨k, hk⟩ := cores c
    rw [hk]
    exact ⟨rfl, rfl, rfl, rfl⟩
  case registers =>
    intro s x w off d n D
    refine ⟨fun down => ⟨?_, ?_⟩, fun up => ⟨sqtailDoorbell_up up w, hostRegisterWrite_up up 0 x, hostRegisterWrite_up up 8 x, hostRegisterWrite_control up x,
      fun off => ?_,
      hostRegisterWrite_up up 0x14 x, fun other => ?_⟩⟩
    · rw [exec_sqtailDoorbell, execSqtailDoorbell, down]
      rfl
    · rw [exec_hostRegisterWrite, execHostRegisterWrite, if_pos down]
    · refine ⟨_, hostRegisterWrite_up up 0 x, ?_⟩
      rw [hostRegisterRead_base]
      exact congrArg (fun e : Device => e.sqBase.toNat) (if_neg (by rw [off]; simp))
    · simp only [List.mem_cons, List.not_mem_nil, or_false, not_or] at other
      obtain ⟨n0, n8, n10, n14⟩ := other
      rw [hostRegisterWrite_up up, if_neg n0, if_neg n8, if_neg n10, if_neg n14]
  case links =>
    intro s port rate width mode flit pa up
    refine ⟨rfl, rfl, fun beyond => ?_, fun there => ?_⟩
    · rw [exec_linkTraining, execLinkTraining, if_pos beyond]
    · refine ⟨{ s with links := setK port ⟨up && trains port rate width mode, rate, width⟩ s.links }, ?_, rfl, ?_, fun q hq => linkUp_setK_ne s hq _⟩
      · rw [exec_linkTraining, execLinkTraining, if_neg (by omega)]
      · rw [linkUp_setK_self, Bool.and_eq_true, trains_iff there]
  case access =>
    intro s agent pa len bs
    refine ⟨fun down => ⟨hostCxl_down down, hostCxl_down down⟩, ?_, fun up reach => ⟨fun stays => ?_, fun alone => ?_, ?_⟩,
      fun up pins reach alone free => hostCxl_written up pins reach alone free⟩
    · rintro i b hi rfl bad
      have peer : agent ≠ 0 → agent.toNat ≠ 0 := fun h k => h (BitVec.eq_of_toNat_eq k)
      have refused : mayReach s agent.toNat ((List.range len).map (pa + ·)) = false :=
        mayReach_of_bad (List.mem_map.mpr ⟨i, List.mem_range.mpr hi, rfl⟩) (bad.imp_right (Or.imp_right (Or.imp_right (And.imp_left peer))))
      exact ⟨hostCxl_refused refused, fun same => hostCxl_refused (by rw [Option.map_some, Option.getD_some, same, refused])⟩
    · rw [hostCxl_read up reach, stays]
      rfl
    · rw [hostCxl_read up reach, alone]
      rfl
    · intro ctx va es one ready
      rw [hostCxl_read up reach, one, handAllAway_one ready]
      rfl
  case toDevice =>
    intro s ctx va link
    refine ⟨fun unasked => ?_, fun r c entry e hr hc hw own ps => ?_⟩
    · rw [exec_ownershipHandover, execOwnershipHandover, unasked]
    refine ⟨fun held => ownershipHandover_held hr hc hw own ps (.inl held), fun waits => ownershipHandover_held hr hc hw own ps (.inr waits),
      fun u ok asked => ?_⟩
    change askMove s ctx r.page (handRegion s r) e [entry] (linkNow s (pteFrame e) link) = (u, ok) at asked
    refine ⟨?_, fun dram => ?_, fun stands free due pins => ⟨?_, ?_, fun up dram => ?_, ?_⟩⟩
    · have only := askMove_onlyAsks s ctx r.page (handRegion s r) e [entry] (linkNow s (pteFrame e) link)
      rw [asked] at only
      obtain ⟨rs, ws, sent, rfl⟩ := only
      rfl
    · rw [askMove_dram s ctx r.page (handRegion s r) [entry] _ dram] at asked
      cases asked
      exact ⟨rfl, rfl⟩
    · rintro rfl
      exact ownershipHandover_asks hr hc hw own ps free due asked
    · rintro rfl sub failed cmds
      exact ownershipHandover_marks hr hc hw own ps free due asked failed cmds
    · exact ownershipHandover_inPlace hr hc hw own ps free due pins stands up dram
    · rintro rfl up window clean f hf below hk apart
      exact ownershipHandover_moved hr hc hw own ps free due pins asked up window clean hf below hk apart
  case fromDevice =>
    intro s ctx va moveTo c entry e hc hw own ps stands idle
    refine ⟨fun held => ?_, fun due free stores => ⟨?_, ?_⟩⟩
    · rw [exec_handoverFromDevice, execHandoverFromDevice, awayReady_none hc hw ps held]
    · rintro rfl
      exact handoverFromDevice_inPlace hc hw own ps idle due free stores stands
    · rintro f rfl window dram
      exact handoverFromDevice_moved hc hw own ps idle due free stores window dram

end Sys2Proof.Machine
end

section
/-! SUPPORT. Reads of control registers (O15): the two forms of SYSRD, and the fields of the registers that R80, R157, R275 and
R363 lay out. -/

namespace Sys2Proof.Machine

/-! ## The two forms of SYSRD -/

theorem execSysrd_computes {s : State} {it : Issue} {g : Gang} (hi : Issues s it g) (d : Reg) {csr : BitVec 12} (hc : csr.toNat < 0x800)
    (free : ¬(csr = 0x111#12 ∧ engineOpen s it.gang = true)) :
    Computes1 s it g (exec (.sysrd d csr) s) d fun i => csrRead s it.pre (execMask g it) i csr.toNat := by
  have allowed : ¬0x800 ≤ csr.toNat := by omega
  rw [exec_sysrd, execSysrd, if_neg allowed, withGang_of hi, if_neg free]
  exact computes1_of hi d _

theorem execSysrdCyclelo_next {s : State} {it : Issue} {g : Gang} (hi : Issues s it g) (d : Reg) :
    ∃ h, exec (.sysrdCyclelo d) s =
        .next (withGangState s { h with cycleLatch := BitVec.ofNat 32 (coreCycle s g.core / 2 ^ 32) }) ∧
      Writes g h (execMask g it) fun _ => [(d.toNat, BitVec.ofNat 32 (coreCycle s g.core))] := by
  refine ⟨_, ?_, writes_fold g (execMask g it) _ fun _ => distinct1 _ _⟩
  rw [exec_sysrdCyclelo, execSysrdCyclelo, withGang_of hi]
  rfl

/-! ## Fields of a word -/

theorem ofBool32_eq (b : Bool) (k : Nat) : ofBool32 b k = b.toNat * 2 ^ k := by cases b <;> simp [ofBool32]

/-- A bit of a word made from a number, as the number's digit there. -/
theorem getLsbD_ofNat_eq {n k : Nat} {b : Bool} (hk : k < 32) (digit : n / 2 ^ k % 2 = b.toNat) : (BitVec.ofNat 32 n).getLsbD k = b := by
  rw [BitVec.getLsbD_ofNat, Nat.testBit_eq_decide_div_mod_eq, digit]
  cases b <;> simp [hk]

theorem getLsbD_visMask (g : Gang) (m : LaneMask) {k : Nat} (hk : k < 32) :
    (visMask g m).getLsbD k = if g.prot then decide (k < 16) && m.getLsbD (2 * k) else m.getLsbD k := by
  unfold visMask
  split
  · rw [getLsbD_maskOf _ k hk]
    simp
  · rfl

/-! ## Registers of several fields -/

/-- SPANSTAT before it is cut to a word (R80). -/
def spanStatNat (s : State) (g : Gang) : Nat :=
  g.span.tx.isSome.toNat * 2 ^ 31 + g.span.exact.toNat * 2 ^ 30 + g.span.locate.toNat * 2 ^ 29 +
    (decide (s.favoured = some g.uid)).toNat * 2 ^ 28 + g.span.ovf.toNat * 2 ^ 27 + g.span.pol.toNat * 2 ^ 26 +
    g.span.restarts % 16 * 2 ^ 22 + g.span.lastEnd % 8 * 2 ^ 19 + g.span.count % 2 ^ 17

theorem spanStat_eq (s : State) (g : Gang) : spanStat s g = BitVec.ofNat 32 (spanStatNat s g) := by
  simp only [spanStat, ofBool32_eq, spanStatNat]

theorem spanStat_flags (s : State) (g : Gang) :
    (spanStat s g).getLsbD 31 = g.span.tx.isSome ∧ (spanStat s g).getLsbD 30 = g.span.exact ∧ (spanStat s g).getLsbD 29 = g.span.locate ∧
      (spanStat s g).getLsbD 28 = decide (s.favoured = some g.uid) ∧ (spanStat s g).getLsbD 27 = g.span.ovf ∧
      (spanStat s g).getLsbD 26 = g.span.pol := by
  have exact := Bool.toNat_le g.span.exact
  have locate := Bool.toNat_le g.span.locate
  have favoured := Bool.toNat_le (decide (s.favoured = some g.uid))
  have ovf := Bool.toNat_le g.span.ovf
  have pol := Bool.toNat_le g.span.pol
  have tx := Bool.toNat_le g.span.tx.isSome
  rw [spanStat_eq, spanStatNat]
  refine ⟨getLsbD_ofNat_eq (by decide) ?_, getLsbD_ofNat_eq (by decide) ?_, getLsbD_ofNat_eq (by decide) ?_,
    getLsbD_ofNat_eq (by decide) ?_, getLsbD_ofNat_eq (by decide) ?_, getLsbD_ofNat_eq (by decide) ?_⟩ <;> omega

theorem spanStat_counts (s : State) (g : Gang) :
    (spanStat s g).toNat % 2 ^ 17 = g.span.count % 2 ^ 17 ∧ (spanStat s g).toNat / 2 ^ 22 % 2 ^ 4 = g.span.restarts % 16 ∧
      (spanStat s g).toNat / 2 ^ 19 % 2 ^ 3 = g.span.lastEnd % 8 := by
  rw [spanStat_eq, spanStatNat, BitVec.toNat_ofNat]
  refine ⟨?_, ?_, ?_⟩ <;> omega

theorem gangCtl_fields (g : Gang) : (gangCtl g).getLsbD 0 = g.sstep ∧ (gangCtl g).getLsbD 1 = g.freeze ∧
    (gangCtl g).getLsbD 2 = g.deadsrc ∧ (gangCtl g).getLsbD 7 = g.prot := by
  have sstep := Bool.toNat_le g.sstep
  have freeze := Bool.toNat_le g.freeze
  have deadsrc := Bool.toNat_le g.deadsrc
  have prot := Bool.toNat_le g.prot
  simp only [gangCtl, ofBool32_eq]
  refine ⟨getLsbD_ofNat_eq (by decide) ?_, getLsbD_ofNat_eq (by decide) ?_, getLsbD_ofNat_eq (by decide) ?_,
    getLsbD_ofNat_eq (by decide) ?_⟩ <;> omega

theorem trapNest_fields (t : TrapState) : (trapNest t).getLsbD 0 = t.nest ∧ (trapNest t).getLsbD 1 = t.async ∧
    (trapNest t).getLsbD 7 = t.qovf ∧ (trapNest t).toNat / 16 % 8 = t.queue.length % 8 := by
  have nest := Bool.toNat_le t.nest
  have async := Bool.toNat_le t.async
  have qovf := Bool.toNat_le t.qovf
  simp only [trapNest, ofBool32_eq]
  refine ⟨getLsbD_ofNat_eq (by decide) ?_, getLsbD_ofNat_eq (by decide) ?_, getLsbD_ofNat_eq (by decide) ?_, ?_⟩
  · omega
  · omega
  · omega
  · rw [BitVec.toNat_ofNat]
    omega

theorem hasGrant_eq_false {g : Gang} : hasGrant g = false ↔ g.grant.rows = 0 ∧ g.grant.panels = [] ∧ g.grant.scales = [] := by
  simp [hasGrant, and_assoc]

theorem accLimit_toNat {g : Gang} (rows : g.grant.base + g.grant.rows < 2 ^ 9) (panels : g.grant.panels.length < 2 ^ 3)
    (scales : g.grant.scales.length / 16 < 2 ^ 6) :
    (accLimit g).toNat = if g.grant.rows = 0 ∧ g.grant.panels = [] ∧ g.grant.scales = [] then 0
      else g.grant.scales.length / 16 * 2 ^ 20 + g.grant.panels.length * 2 ^ 16 + (g.grant.base + g.grant.rows) := by
  unfold accLimit
  simp only [← hasGrant_eq_false]
  cases hasGrant g with
  | false => rfl
  | true =>
    simp only [if_true, Bool.true_eq_false, if_false, BitVec.toNat_ofNat]
    omega

theorem leaseRead_fields {l : Lease} (meas : l.meas < 2 ^ 12) (decl : l.decl < 2 ^ 12) :
    (BitVec.ofNat 32 (l.meas * 2 ^ 16 + l.decl)).toNat / 2 ^ 16 = l.meas ∧
      (BitVec.ofNat 32 (l.meas * 2 ^ 16 + l.decl)).toNat % 2 ^ 16 = l.decl := by
  rw [BitVec.toNat_ofNat]
  omega

theorem encMode_eq (m : LeaseMode) :
    BitVec.ofNat 32 (encMode m) = match m with | .measured => 0 | .declared => 1 | .floor => 2 := by cases m <;> rfl

/-- Settles O15: the two forms of SYSRD, then the registers one field at a time. -/
theorem csrReads : Obligations.CsrReads := by
  refine ⟨fun s it g d csr hi hc free => execSysrd_computes hi d hc free, fun s it g d hi => execSysrdCyclelo_next hi d, ?_⟩
  intro s g m i R
  refine ⟨?plain, fun k hk => getLsbD_visMask g m hk, fun k hk => getLsbD_visMask g _ hk, leaseRead_fields, encMode_eq g.lease.mode,
    accLimit_toNat, ?spanStat, gangCtl_fields g, trapNest_fields g.trap, ?grid⟩
  case spanStat =>
    obtain ⟨tx, exact, locate, favoured, ovf, pol⟩ := spanStat_flags s g
    exact ⟨tx, exact, locate, favoured, ovf, pol, spanStat_counts s g⟩
  case plain =>
    simp only [List.forall_mem_cons]
    refine ⟨rfl, rfl, rfl, rfl, rfl, rfl, rfl, rfl, rfl, rfl, rfl, rfl, rfl, rfl, rfl, rfl, rfl, rfl, rfl, rfl, rfl, rfl, rfl, rfl,
      rfl, rfl, rfl, ?_⟩
    simp
  case grid =>
    intro c gr hc hg
    have hgrid : gridOf s g = some gr := by simp [gridOf, hc, hg]
    simp only [R, csrRead, wgid, gdims, wdims, cohortXyz, hc, hgrid, Option.map_some, Option.getD_some, and_self]

end Sys2Proof.Machine
end

section
/-! SUPPORT. Which gang an operation acts on: rollbacks, restarts and victims change one gang, and beside the gangs only the queues
and caches that serve them (R64, R71 to R78). -/

namespace Sys2Proof.Machine

/-! ## A step that acts on one gang -/

/-- s, with everything that a rollback or the resolution of a victim may change taken from t. -/
def keepVictims (s t : State) : State :=
  { s with gangs := t.gangs, cores := t.cores, mem := t.mem, waiting := t.waiting, sent := t.sent, favoured := t.favoured,
           favourQueue := t.favourQueue }

/-- From s to t only gangs of the name u have changed, each as a function of itself, and what `keepVictims` names. -/
structure ActsOn (u : Nat) (s t : State) : Prop where
  rest : keepVictims s t = t
  gangs : ∃ f : Gang → Gang, (∀ g, (f g).uid = g.uid) ∧ (∀ g, g.uid ≠ u → f g = g) ∧ t.gangs = s.gangs.map f

section
variable {u : Nat} {s t v : State}

theorem ActsOn.of_same (rest : keepVictims s t = t) (gangs : t.gangs = s.gangs) : ActsOn u s t :=
  ⟨rest, id, fun _ => rfl, fun _ _ => rfl, by rw [List.map_id, gangs]⟩

theorem ActsOn.refl (s : State) : ActsOn u s s := .of_same rfl rfl

theorem ActsOn.trans (h : ActsOn u s t) (k : ActsOn u t v) : ActsOn u s v := by
  obtain ⟨f, fuid, fother, fgangs⟩ := h.gangs
  obtain ⟨f', fuid', fother', fgangs'⟩ := k.gangs
  refine ⟨?_, f' ∘ f, fun g => (fuid' _).trans (fuid g), fun g hg => ?_, ?_⟩
  · rw [← k.rest, ← h.rest]; rfl
  · rw [Function.comp_apply, fother g hg, fother' g hg]
  · rw [fgangs', fgangs, List.map_map]

theorem ActsOn.modGang (s : State) (u : Nat) {f : Gang → Gang} (name : ∀ g, (f g).uid = g.uid) : ActsOn u s (modGang s u f) := by
  refine ⟨rfl, fun g => if g.uid = u then f g else g, fun g => ?_, fun g hg => if_neg hg, rfl⟩
  rw [apply_ite Gang.uid, name, ite_self]

theorem ActsOn.setGang (s : State) {g : Gang} (hg : g.uid = u) : ActsOn u s (setGang s g) := by
  refine ⟨rfl, fun h => if h.uid = g.uid then g else h, fun h => ?_, fun h hh => if_neg (hg ▸ hh), rfl⟩
  dsimp only
  split
  next e => exact e.symm
  next => rfl

theorem ActsOn.fold {α : Type} {f : State → α → State} (one : ∀ t x, ActsOn u t (f t x)) (s : State) (l : List α) :
    ActsOn u s (l.foldl f s) := by
  induction l generalizing s with
  | nil => exact .refl s
  | cons x l ih => exact (one s x).trans (ih (f s x))

/-- Another gang stands as it did. -/
theorem ActsOn.gang_ne (h : ActsOn u s t) {a : Nat} (ha : a ≠ u) : gang? t a = gang? s a := by
  obtain ⟨f, fuid, fother, fgangs⟩ := h.gangs
  unfold gang?
  rw [fgangs, List.find?_map]
  have same : ((fun g : Gang => g.uid == a) ∘ f) = fun g => g.uid == a := by
    funext g; rw [Function.comp_apply, fuid]
  rw [same]
  cases e : s.gangs.find? fun g => g.uid == a with
  | none => rfl
  | some g =>
    have named : g.uid = a := by simpa using List.find?_some e
    rw [Option.map_some, fother g (named ▸ ha)]

end

/-! ## What stands of a gang -/

/-- A gang of the name u is there, and every gang of that name is as P says. -/
def Stands (u : Nat) (P : Gang → Prop) (s : State) : Prop := (gang? s u).isSome ∧ ∀ g ∈ s.gangs, g.uid = u → P g

section
variable {u : Nat} {P Q : Gang → Prop} {s t : State}

theorem Stands.gang (h : Stands u P s) : ∃ k, gang? s u = some k ∧ P k := by
  obtain ⟨k, hk⟩ := Option.isSome_iff_exists.mp h.1
  exact ⟨k, hk, h.2 k (gang?_mem hk) (gang?_uid hk)⟩

theorem Stands.of_gang (h : Stands u P s) {k : Gang} (hk : gang? s u = some k) : P k := h.2 k (gang?_mem hk) (gang?_uid hk)

theorem Stands.mono (h : Stands u P s) (pq : ∀ g, P g → Q g) : Stands u Q s := ⟨h.1, fun g hg hu => pq g (h.2 g hg hu)⟩

theorem Stands.eq (h : Stands u (· = k) s) : gang? s u = some k := by
  obtain ⟨_, hk, rfl⟩ := h.gang
  exact hk

theorem Stands.congr (h : Stands u P s) (gangs : t.gangs = s.gangs) : Stands u P t := by
  simpa only [Stands, gang?, gangs] using h

theorem isSome_gang?_map {f : Gang → Gang} (name : ∀ g, (f g).uid = g.uid) (gangs : t.gangs = s.gangs.map f) :
    (gang? t u).isSome = (gang? s u).isSome := by
  have same : ((fun g : Gang => g.uid == u) ∘ f) = fun g => g.uid == u := by
    funext g; rw [Function.comp_apply, name]
  unfold gang?
  rw [gangs, List.find?_map, same, Option.isSome_map]

/-- Each gang of the name changes in a way that takes P to Q. -/
theorem Stands.map (h : Stands u P s) {f : Gang → Gang} (name : ∀ g, (f g).uid = g.uid) (pq : ∀ g, g.uid = u → P g → Q (f g))
    (gangs : t.gangs = s.gangs.map f) : Stands u Q t := by
  refine ⟨(isSome_gang?_map name gangs).trans h.1, fun g hg hu => ?_⟩
  rw [gangs] at hg
  obtain ⟨k, hk, rfl⟩ := List.mem_map.mp hg
  have named : k.uid = u := (name k).symm.trans hu
  exact pq k named (h.2 k hk named)

theorem Stands.modGang (h : Stands u P s) {f : Gang → Gang} (name : ∀ g, (f g).uid = g.uid) (pq : ∀ g, P g → Q (f g)) :
    Stands u Q (modGang s u f) :=
  h.map (f := fun g => if g.uid = u then f g else g) (fun g => by split <;> simp [name])
    (fun g hu hg => by rw [if_pos hu]; exact pq g hg) rfl

theorem Stands.setGang {g k : Gang} (hg : gang? s u = some g) (hk : k.uid = u) : Stands u (· = k) (setGang s k) := by
  refine ⟨?_, fun h hh hu => ?_⟩
  · rw [setGang_eq, gang?_withGangState hg (hk.trans (gang?_uid hg).symm)]; rfl
  · obtain ⟨x, -, rfl⟩ := List.mem_map.mp hh
    by_cases e : x.uid = k.uid
    · rw [if_pos e]
    · rw [if_neg e] at hu
      exact absurd (hu.trans hk.symm) e

/-- What acts on another gang leaves this one. -/
theorem ActsOn.stands {a : Nat} (h : ActsOn a s t) (other : a ≠ u) (k : Stands u P s) : Stands u P t := by
  obtain ⟨f, fuid, fother, fgangs⟩ := h.gangs
  exact k.map fuid (fun g hu hg => by rwa [fother g (by rw [hu]; exact other.symm)]) fgangs

end

/-! ## Rollbacks and restarts act on their gang -/

section
variable (u : Nat) (s : State)

theorem rawWrite_acts (a : Nat) (bs : List Byte) : ActsOn u s (rawWrite s a bs) := .of_same rfl rfl

theorem returnPins_acts (pins : List Pin) : ActsOn u s (returnPins s pins) := by
  refine .fold (fun t p => ?_) s pins
  exact rawWrite_acts u t _ _

theorem dropStoreOps_acts (a : Nat) : ActsOn u s (dropStoreOps s a) := by
  unfold dropStoreOps
  split
  · exact .refl s
  · exact .of_same rfl rfl

theorem noteEnd_acts (code : Nat) : ActsOn u s (noteEnd s u code) := .modGang s u fun _ => rfl

end

/-- The gang as a rollback leaves it (R64). -/
def rolledBack (s : State) (g : Gang) : Gang :=
  let c := g.span.chk
  let g := { g with alloc := c.alloc, regs := c.regs, slices := c.slices, fpctl := c.fpctl, fpflags := c.fpflags,
                    acq := s.now, seen := [], trap := { g.trap with replay := c.replay, pending := c.pending } }
  let g := if g.sched.wait == .noSplit && !(readySplits g).isEmpty then wake s g else g
  { settle g with span := emptySpan { g with slices := c.slices }, ownerFail := [] }

/-- The machine whose gang a rollback sets: its pins returned, its stores dropped. -/
def beforeRollback (s : State) (g : Gang) : State := dropStoreOps (returnPins s g.span.pins) g.uid

theorem beforeRollback_acts (u : Nat) (s : State) (g : Gang) : ActsOn u s (beforeRollback s g) :=
  (returnPins_acts u s g.span.pins).trans (dropStoreOps_acts u _ g.uid)

theorem rollback_eq {s : State} {u : Nat} {g : Gang} (hg : gang? s u = some g) : ∃ w sent fav,
    rollback s u = { setGang (beforeRollback s g) (rolledBack (beforeRollback s g) g) with waiting := w, sent := sent, favoured := fav } := by
  have named := gang?_uid hg
  unfold rollback
  rw [hg]
  subst named
  exact ⟨_, _, _, rfl⟩

theorem rolledBack_uid (s : State) (g : Gang) : (rolledBack s g).uid = g.uid := by
  unfold rolledBack
  dsimp only
  split <;> rfl

theorem rollback_acts (s : State) (u : Nat) : ActsOn u s (rollback s u) := by
  cases hg : gang? s u with
  | none => rw [rollback, hg]; exact .refl s
  | some g =>
    obtain ⟨w, sent, fav, e⟩ := rollback_eq hg
    rw [e]
    exact ((beforeRollback_acts u s g).trans (.setGang _ ((rolledBack_uid _ g).trans (gang?_uid hg)))).trans (.of_same rfl rfl)

/-- A rollback leaves one gang of its name, rolled back. -/
theorem stands_rollback {s : State} {u : Nat} {g : Gang} (hg : gang? s u = some g) :
    Stands u (· = rolledBack (beforeRollback s g) g) (rollback s u) := by
  obtain ⟨w, sent, fav, e⟩ := rollback_eq hg
  have before : (gang? (beforeRollback s g) u).isSome := by
    obtain ⟨f, name, -, gangs⟩ := (beforeRollback_acts u s g).gangs
    rw [isSome_gang?_map name gangs, hg]; rfl
  obtain ⟨k, hk⟩ := Option.isSome_iff_exists.mp before
  rw [e]
  exact (Stands.setGang hk ((rolledBack_uid _ g).trans (gang?_uid hg))).congr rfl

section
variable (s : State) (u : Nat)

@[simp] theorem putLanes_uid (g : Gang) (r : Nat) (m : LaneMask) (f : Nat → Word) : (putLanes g r m f).uid = g.uid := by
  unfold putLanes
  induction lanesOf m generalizing g with
  | nil => rfl
  | cons i ls ih => exact ih (putReg g r i (f i))

theorem txRestart_acts (status : Nat) (code : Option Nat) : ActsOn u s (txRestart s u status code) := by
  have ended : ActsOn u s ((code.map (noteEnd (rollback s u) u)).getD (rollback s u)) := by
    cases code with
    | none => exact rollback_acts s u
    | some c => exact (rollback_acts s u).trans (noteEnd_acts u _ c)
  unfold txRestart
  dsimp only
  split
  · exact ended
  · refine ended.trans (.modGang _ u fun g => ?_)
    rw [apply_ite Gang.uid, putLanes_uid, ite_self]

theorem countRestart_acts : ActsOn u s (countRestart s u) := by
  have counted : ActsOn u s (modGang s u fun g => { g with span := { g.span with restarts := min 15 (g.span.restarts + 1) } }) :=
    .modGang s u fun _ => rfl
  unfold countRestart
  dsimp only
  split
  · split
    · exact counted.trans (.of_same rfl rfl)
    · exact counted
  · exact counted

theorem setLocate_acts (ts : List Target) : ActsOn u s (setLocate s u ts) := by
  have set : ActsOn u s (modGang s u fun h => { h with span := { h.span with locate := !ts.isEmpty, targets := ts } }) :=
    .modGang s u fun _ => rfl
  unfold setLocate
  dsimp only
  split
  · exact set.trans (countRestart_acts _ u)
  · exact set

theorem resolveVictim_acts (cs : List (Loc × Nat)) (csn : Nat) (src : Word) : ActsOn u s (resolveVictim s u cs csn src) := by
  unfold resolveVictim
  split
  · exact .refl s
  · split
    · exact (txRestart_acts s u 1 none).trans (countRestart_acts _ u)
    · exact (rollback_acts s u).trans (setLocate_acts _ u _)

theorem resolveStale_acts (st : List (Loc × CommitRec)) : ActsOn u s (resolveStale s u st) := by
  unfold resolveStale
  split
  · exact .refl s
  · split
    · exact (txRestart_acts s u 1 none).trans (countRestart_acts _ u)
    · exact (rollback_acts s u).trans (setLocate_acts _ u _)

theorem resolveExact_acts : ActsOn u s (resolveExact s u) := by
  unfold resolveExact
  split
  · exact .refl s
  · split
    · exact txRestart_acts s u 1 none
    · exact (rollback_acts s u).trans (.modGang _ u fun _ => rfl)

end

/-! ## What follows a committed write (R71, R136) -/

/-- The span has recorded nothing that a write could conflict with, and holds nothing of a surface. -/
structure SpanIdle (sp : Span) : Prop where
  reads : sp.reads = []
  ver : sp.ver = []
  touched : sp.touched = []
  ovf : sp.ovf = false
  pins : sp.pins = []
  moves : sp.moves = []

theorem spanIdle_emptySpan (g : Gang) : SpanIdle (emptySpan g) := ⟨rfl, rfl, rfl, rfl, rfl, rfl⟩

theorem SpanIdle.conflicts {sp : Span} (h : SpanIdle sp) (bytes : List Nat) (samples : List Sample) : conflicts sp bytes samples = [] := by
  simp [Machine.conflicts, h.reads, h.ver, h.touched, getK]

theorem SpanIdle.undecidable {sp : Span} (h : SpanIdle sp) (bytes : List Nat) : undecidable sp bytes = false := by
  simp [Machine.undecidable, h.ovf]

/-- A committed write makes the span a victim, or a hit that it cannot decide (R71, R76). -/
def hitBy (bytes : List Nat) (samples : List Sample) (sp : Span) : Prop := conflicts sp bytes samples ≠ [] ∨ undecidable sp bytes = true

/-- One gang met by a committed write. -/
def resolveOne (writer : Option Nat) (bytes : List Nat) (samples : List Sample) (csn : Nat) (src : Word) (s : State) (g0 : Gang) : State :=
  if writer = some g0.uid ∨ g0.ended = true then s
  else match gang? s g0.uid with
    | none => s
    | some g =>
      let cs := conflicts g.span bytes samples
      if !cs.isEmpty then resolveVictim s g.uid cs csn src
      else if undecidable g.span bytes then resolveExact s g.uid else s

/-- The log with the write. -/
def logged (s : State) (bytes : List Nat) (samples : List Sample) (csn : Nat) (src : Word) : State :=
  { s with log := s.log ++ [(⟨s.now, csn, src, wordsOfBytes bytes, samples⟩ : CommitRec)], now := s.now + 1 }

theorem afterWrites_eq (s : State) (writer : Option Nat) (bytes : List Nat) (samples : List Sample) (csn : Nat) (src : Word) :
    afterWrites s writer bytes samples csn src =
      breakPins (s.gangs.foldl (resolveOne writer bytes samples csn src) (logged s bytes samples csn src)) := rfl

section
variable {writer : Option Nat} {bytes : List Nat} {samples : List Sample} {csn : Nat} {src : Word}

/-- A gang that a write meets is changed only if the write hits its span, and is not its own. -/
theorem resolveOne_cases (s : State) (g0 : Gang) : resolveOne writer bytes samples csn src s g0 = s ∨
    ∃ g, gang? s g.uid = some g ∧ writer ≠ some g.uid ∧ hitBy bytes samples g.span ∧
      ActsOn g.uid s (resolveOne writer bytes samples csn src s g0) := by
  unfold resolveOne
  split
  · exact .inl rfl
  next own =>
    split
    · exact .inl rfl
    next g hg =>
      have named := gang?_uid hg
      rw [← named] at own hg
      have other : writer ≠ some g.uid := fun e => own (.inl e)
      dsimp only
      split
      next hit => exact .inr ⟨g, hg, other, .inl (by simpa using hit), resolveVictim_acts s g.uid _ _ _⟩
      next =>
        split
        next hit => exact .inr ⟨g, hg, other, .inr hit, resolveExact_acts s g.uid⟩
        next => exact .inl rfl

/-- What holds before the gangs are met, and after each hit gang is acted on, holds after all. -/
theorem resolveAll_keeps {Q : State → Prop} (l : List Gang) {s : State} (h : Q s) (step : ∀ t t' g, Q t → gang? t g.uid = some g →
    writer ≠ some g.uid → hitBy bytes samples g.span → ActsOn g.uid t t' → Q t') : Q (l.foldl (resolveOne writer bytes samples csn src) s) := by
  induction l generalizing s with
  | nil => exact h
  | cons g0 l ih =>
    rw [List.foldl_cons]
    refine ih ?_
    rcases resolveOne_cases s g0 with e | ⟨g, hg, other, hit, acts⟩
    · rwa [e]
    · exact step s _ g h hg other hit acts

/-- The pins that a write breaks roll back gangs that hold something of a surface (R136). -/
theorem breakPins_keeps {Q : State → Prop} {s : State} (h : Q s) (step : ∀ g ∈ s.gangs, ¬(g.span.pins = [] ∧ g.span.moves = []) →
    ∀ t t', Q t → ActsOn g.uid t t' → Q t') : Q (breakPins s) := by
  unfold breakPins
  generalize hl : s.gangs = l at step
  clear hl
  induction l generalizing s with
  | nil => exact h
  | cons g l ih =>
    rw [List.foldl_cons]
    refine ih ?_ fun k hk => step k (List.mem_cons_of_mem _ hk)
    split
    · exact h
    next holds =>
      have some' : ¬(g.span.pins = [] ∧ g.span.moves = []) := fun ⟨pins, moves⟩ => holds (by simp [pins, moves])
      split
      · exact step g List.mem_cons_self some' s _ h (txRestart_acts s g.uid 5 none)
      · exact step g List.mem_cons_self some' s _ h (rollback_acts s g.uid)

/-- Beside its entry in the log, a committed write changes victims alone (R71). -/
theorem afterWrites_rest (s : State) : keepVictims (logged s bytes samples csn src) (afterWrites s writer bytes samples csn src) =
    afterWrites s writer bytes samples csn src := by
  have chain : ∀ {u t t'}, keepVictims (logged s bytes samples csn src) t = t → ActsOn u t t' →
      keepVictims (logged s bytes samples csn src) t' = t' := fun h acts => by rw [← acts.rest, ← h]; rfl
  rw [afterWrites_eq]
  exact breakPins_keeps (Q := fun t => keepVictims _ t = t)
    (resolveAll_keeps (Q := fun t => keepVictims _ t = t) _ rfl fun _ _ _ h _ _ _ acts => chain h acts) fun _ _ _ _ _ h acts => chain h acts

/-- A gang whose span has recorded nothing stands through any committed write. -/
theorem Stands.afterWrites {u : Nat} {P : Gang → Prop} {s : State} (h : Stands u P s) (idle : ∀ g, P g → SpanIdle g.span) :
    Stands u P (afterWrites s writer bytes samples csn src) := by
  have resolved : Stands u P (s.gangs.foldl (resolveOne writer bytes samples csn src) (logged s bytes samples csn src)) := by
    refine resolveAll_keeps (Q := Stands u P) _ (h.congr rfl) fun t t' g ht hg _ hit acts => acts.stands (fun e => ?_) ht
    have none := idle g (ht.of_gang (e ▸ hg))
    rcases hit with hit | hit
    · exact hit (none.conflicts _ _)
    · rw [none.undecidable] at hit; cases hit
  rw [afterWrites_eq]
  refine breakPins_keeps resolved fun g hg holds t t' ht acts => acts.stands (fun e => ?_) ht
  have none := idle g (resolved.2 g hg e)
  exact holds ⟨none.pins, none.moves⟩

theorem resolveOne_memoryStands {s : State} (h : NoPins s) (g0 : Gang) : MemoryStands s (resolveOne writer bytes samples csn src s g0) := by
  unfold resolveOne
  split
  · exact .refl h
  · split
    · exact .refl h
    · dsimp only
      split
      · exact resolveVictim_stands h _ _ _ _
      · split
        · exact resolveExact_stands h _
        · exact .refl h

/-- Where no span holds a pin, a gang that the write does not hit stands. -/
theorem gang?_afterWrites {s : State} (pins : NoPins s) {a : Nat} {k : Gang} (hk : gang? s a = some k) (miss : ¬hitBy bytes samples k.span) :
    gang? (afterWrites s writer bytes samples csn src) a = some k := by
  have start : NoPins (logged s bytes samples csn src) := pins
  have quiet := (MemoryStands.fold (fun _ g ht => resolveOne_memoryStands (writer := writer) (bytes := bytes)
    (samples := samples) (csn := csn) (src := src) ht g) start s.gangs).noPins
  rw [afterWrites_eq, breakPins_of_noPins quiet]
  refine resolveAll_keeps (Q := fun t => gang? t a = some k) _ hk fun t t' g ht hg _ hit acts => ?_
  have other : a ≠ g.uid := by
    rintro rfl
    rw [ht] at hg
    exact miss (Option.some.inj hg ▸ hit)
  rw [acts.gang_ne other, ht]

end

end Sys2Proof.Machine
end

section
/-! SUPPORT. A commit and the gangs (R62, R68, R71): it changes its own gang and victims, and leaves that gang alone under its name
with an empty span. -/

namespace Sys2Proof.Machine

/-! ## Steps that change no gang and not the issue -/

structure SameGangs (s t : State) : Prop where
  gangs : t.gangs = s.gangs
  iss : t.iss = s.iss

section
variable {s t u : State}

theorem SameGangs.refl (s : State) : SameGangs s s := ⟨rfl, rfl⟩

theorem SameGangs.trans (h : SameGangs s t) (k : SameGangs t u) : SameGangs s u := ⟨k.gangs.trans h.gangs, k.iss.trans h.iss⟩

theorem SameGangs.of_keepAsks (h : keepAsks s t = t) : SameGangs s t := by
  obtain ⟨-, gangs, -, -, -, iss, -⟩ := keepAsks_frame h
  exact ⟨gangs, iss⟩

theorem SameGangs.fold {α : Type} {f : State → α → State} (one : ∀ t x, SameGangs t (f t x)) (s : State) (l : List α) :
    SameGangs s (l.foldl f s) := by
  induction l generalizing s with
  | nil => exact .refl s
  | cons x l ih => exact (one s x).trans (ih (f s x))

/-- The same for a fold that gathers something beside the state. -/
theorem SameGangs.foldWith {α β : Type} {f : State × β → α → State × β} (one : ∀ a x, SameGangs a.1 (f a x).1) {a b : State × β}
    {l : List α} (h : l.foldl f a = b) : SameGangs a.1 b.1 := by
  subst h
  induction l generalizing a with
  | nil => exact .refl a.1
  | cons x l ih => exact (one a x).trans ih

end

theorem writeByte_sameGangs (s : State) (key pa : Nat) (b : Byte) : SameGangs s (writeByte s key pa b) := by
  have rest := writeByte_rest s key pa b
  exact ⟨(congrArg State.gangs rest :), (congrArg State.iss rest :)⟩

theorem readLinesAt_sameGangs (s : State) (region : Nat) (xs : List Xlat) : SameGangs s (readLinesAt s region xs) :=
  .fold (f := fun s x => llcRead s region x) (fun t x => .of_keepAsks (llcRead_keeps t region x)) s xs

section
variable {v : View} {s t : State} {w : FormBytes}

theorem formWrite_sameGangs {kind : Nat} {va : DWord} {bs : List Byte} (h : formWrite v s kind va bs = (t, w)) : SameGangs s t := by
  refine .foldWith (fun a p => ?_) h
  split
  · exact writeByte_sameGangs _ _ _ _
  · exact .refl _

theorem markEntry_sameGangs {d : SurfDesc} {e : Nat} {set : Bool} (h : markEntry v s d e set = (t, w)) : SameGangs s t := by
  unfold markEntry at h
  extract_lets bva read old b b' at h
  split at h
  next t1 w1 h1 =>
    extract_lets used at h
    split at h
    next t2 w2 h2 =>
      obtain ⟨rfl, -⟩ := Prod.mk.inj h
      exact (readLinesAt_sameGangs s _ _).trans ((formWrite_sameGangs h1).trans (formWrite_sameGangs h2))

theorem storeBlock_sameGangs {r : Recoded} (h : storeBlock v s r = (t, w)) : SameGangs s t := by
  unfold storeBlock at h
  extract_lets d va at h
  split at h
  · exact formWrite_sameGangs h
  · split at h
    next t0 e w0 taken =>
      have first : SameGangs s t0 := by
        split at taken
        · obtain ⟨rfl, -⟩ := Prod.mk.inj taken
          exact .refl s
        · split at taken
          next t1 w1 h1 =>
            obtain ⟨rfl, -⟩ := Prod.mk.inj taken
            exact (readLinesAt_sameGangs s _ _).trans (markEntry_sameGangs h1)
      split at h
      next t1 w1 h1 =>
        split at h
        next t2 w2 h2 =>
          obtain ⟨rfl, -⟩ := Prod.mk.inj h
          exact first.trans ((formWrite_sameGangs h1).trans (formWrite_sameGangs h2))

end

theorem returnPins_sameGangs (s : State) (pins : List Pin) : SameGangs s (returnPins s pins) := by
  refine .fold (fun t p => ?_) s pins
  unfold addReserved rawWrite
  exact ⟨rfl, rfl⟩

/-- Re-encoding writes memory (R137, R138). -/
theorem reencode_sameGangs {s t : State} {ctx region : Nat} {pins : List Pin} {moves : List MvWrite} {w : FormBytes}
    (h : reencode s ctx region pins moves = (t, w)) : SameGangs s t := by
  unfold reencode at h
  extract_lets v at h
  split at h
  next s1 w0 h1 =>
    extract_lets s2 rs at h
    split at h
    next s3 w1 h3 =>
      split at h
      next s4 w2 h4 =>
        obtain ⟨rfl, -⟩ := Prod.mk.inj h
        have first : SameGangs s s1 := .foldWith (fun a m => by
          split
          next t' w' e => exact formWrite_sameGangs e) h1
        have second : SameGangs s1 s2 := .fold (fun t p => readLinesAt_sameGangs t region _) s1 pins
        have third : SameGangs s2 s3 := .foldWith (fun a r => by
          split
          · split
            next t' w' e => exact markEntry_sameGangs e
          · exact .refl a.1) h3
        have fourth : SameGangs s3 s4 := .foldWith (fun a r => by
          split
          next t' w' e => exact storeBlock_sameGangs e) h4
        exact first.trans (second.trans (third.trans (fourth.trans (returnPins_sameGangs s4 pins))))

/-! ## What publishing a version writes -/

theorem llcStore_sameGangs (s : State) (region line : Nat) (leaf : DWord) : SameGangs s (llcStore s region line leaf) :=
  .of_keepAsks (llcWrite_keeps s region line _ _ _ _)

theorem storeLines_keeps (s : State) (region : Nat) (form : FormBytes) : keepAsks s (storeLines s region form) = storeLines s region form := by
  unfold storeLines
  generalize (form.map fun p => (lineOf p.1, p.2)).eraseDups = l
  induction l generalizing s with
  | nil => rfl
  | cons p l ih => exact keepAsks_trans (llcWrite_keeps s region p.1 _ _ _ _) (ih _)

theorem publish_sameGangs (s : State) (region : Nat) (leaves : List (Nat × DWord)) (ver : List (Nat × Byte)) :
    SameGangs s (publish s region leaves ver) := by
  unfold publish
  extract_lets leaf written lines
  have bytes : SameGangs s written := .fold (fun t p => writeByte_sameGangs t _ _ _) s ver
  have cleared : SameGangs written (clearWhole written (ver.map (·.1))) := ⟨rfl, rfl⟩
  exact bytes.trans (cleared.trans (.fold (fun t l => llcStore_sameGangs t region l _) _ lines))

theorem dbcFill_sameGangs (s : State) (core : Nat) (e : DbcEntry) : SameGangs s (dbcFill s core e) := by
  unfold dbcFill
  dsimp only
  split
  · exact .refl s
  · split <;> exact ⟨rfl, rfl⟩

theorem keepBlock_sameGangs (ctx region core : Nat) (s : State) (p : Pin) : SameGangs s (keepBlock ctx region core s p) := by
  unfold keepBlock
  dsimp only
  split
  · split
    · exact .refl s
    · exact dbcFill_sameGangs s core _
  · exact .refl s

/-! ## The span that ends (R62) -/

/-- A span that ends without a commit, or commits: the gang's next span is empty. -/
structure NextSpan (g k : Gang) (code : Nat) : Prop where
  idle : SpanIdle k.span
  noTx : k.span.tx = none
  count : k.span.count = 0
  lastEnd : k.span.lastEnd = code
  rest : { k with span := g.span, floor := g.floor, mismatches := g.mismatches } = g

theorem endUnbegun_nextSpan {g : Gang} (h : spanOpen g.span = false) (code : Nat) : NextSpan g (endUnbegun g code) code := by
  have noTx : g.span.tx = none := by
    unfold spanOpen at h
    simpa using (Bool.or_eq_false_iff.mp h).2
  exact ⟨⟨rfl, rfl, rfl, rfl, rfl, rfl⟩, noTx, rfl, rfl, rfl⟩

theorem closeSpan_nextSpan (g : Gang) (code floor : Nat) : NextSpan g (closeSpan g code floor) code :=
  ⟨⟨rfl, rfl, rfl, rfl, rfl, rfl⟩, rfl, rfl, rfl, rfl⟩

/-! ## A commit, step by step (R68 to R71) -/

/-- The bytes that a commit writes: those of the version, and those of stored forms. -/
def commitBytes (g : Gang) (form : FormBytes) : List Nat := g.span.ver.map (·.1) ++ form.map (·.1)

def commitLines (g : Gang) (form : FormBytes) : List Nat := ((commitBytes g form).map lineOf).eraseDups

/-- The reaches whose weirs it concerns. -/
def commitWeirs (g : Gang) (form : FormBytes) : List Nat := commitReaches (g.core / 64) (commitLines g form)

def commitClock (s : State) (g : Gang) (form : FormBytes) : Nat :=
  numberSpan s (commitWeirs g form) g.floor (readLines g.span) (commitLines g form)

def commitCsn (s : State) (g : Gang) (form : FormBytes) : Nat := mkCsn (commitClock s g form) ((commitWeirs g form).foldl min 3)

/-- What a commit publishes and numbers, the blocks having been re-encoded in s2. -/
def published (s : State) (g : Gang) (s2 : State) (form : FormBytes) : State :=
  cleanUp (stampCommit (storeLines (publish s2 (regionOf s g) g.span.leaves g.span.ver) (regionOf s g) form) (commitCsn s g form)
    (commitWeirs g form) (readLines g.span) (commitLines g form)) g.core (commitLines g form)

/-- The gang's span is favoured no longer (R77). -/
def unfavour (s : State) (u : Nat) : State := { s with favoured := if s.favoured = some u then none else s.favoured }

/-- The machine with the gang's span closed. -/
def closed (s : State) (g : Gang) (code : Nat) (s2 : State) (form : FormBytes) : State :=
  unfavour (g.span.pins.foldl (keepBlock (ctxOf s g) (regionOf s g) g.core)
    (setGang (published s g s2 form) (closeSpan g code (commitClock s g form)))) g.uid

/-- The blocks of the gang's pins, re-encoded. -/
def reencoded (s : State) (g : Gang) : State × FormBytes := reencode s (ctxOf s g) (regionOf s g) g.span.pins g.span.moves

/-- A commit that nothing holds up. -/
def commitDone (s : State) (g : Gang) (code : Nat) : State :=
  let s2 := (reencoded s g).1
  let form := (reencoded s g).2
  let c := closed s g code s2 form
  if (commitBytes g form).isEmpty && (writtenSamples g.span).isEmpty then { c with now := c.now + 1 }
  else afterWrites c (some g.uid) (commitBytes g form) (writtenSamples g.span) (commitCsn s g form) (gangSrc g)

theorem commitSpanWith_eq {yields : Bool} {s : State} {u code : Nat} {g : Gang} (hg : gang? s u = some g) : commitSpanWith yields s u code =
    if !spanOpen g.span then .done (unfavour (setGang s (endUnbegun g code)) u)
    else if !(accStLines s u).isEmpty then .wait
    else if holdsWalk s (commitBytes g (reencoded s g).2) ||
        (yields && hitsFavoured s (some u) (commitBytes g (reencoded s g).2) (writtenSamples g.span)) then .wait
    else if !(staleReads s g.span).isEmpty then .failed (resolveStale s u (staleReads s g.span))
    else if staleSignature s g.span then .failed (resolveExact s u)
    else .done (commitDone s g code) := by
  have named := gang?_uid hg
  subst named
  unfold commitSpanWith
  rw [hg]
  rfl

theorem closed_sameGangs (s : State) (g : Gang) (code : Nat) {s2 : State} {form : FormBytes} (h : SameGangs s s2) :
    SameGangs (setGang s (closeSpan g code (commitClock s g form))) (closed s g code s2 form) := by
  have stored := SameGangs.of_keepAsks (storeLines_keeps (publish s2 (regionOf s g) g.span.leaves g.span.ver) (regionOf s g) form)
  have written : SameGangs s (published s g s2 form) :=
    h.trans ((publish_sameGangs s2 _ _ _).trans (stored.trans ⟨rfl, rfl⟩))
  have set : SameGangs (setGang s (closeSpan g code (commitClock s g form)))
      (setGang (published s g s2 form) (closeSpan g code (commitClock s g form))) :=
    ⟨by simp only [setGang, written.gangs], written.iss⟩
  exact set.trans (.trans (.fold (keepBlock_sameGangs _ _ _) _ _) ⟨rfl, rfl⟩)

theorem reencoded_sameGangs (s : State) (g : Gang) : SameGangs s (reencoded s g).1 := reencode_sameGangs rfl

/-! ## What a commit leaves of the gangs -/

/-- The gang's own span is closed, and its name stands for it alone. -/
theorem commitDone_own {s : State} {u code : Nat} {g : Gang} (hg : gang? s u = some g) : ∃ k, NextSpan g k code ∧ Stands u (· = k) (commitDone s g code) := by
  have named := gang?_uid hg
  have same := closed_sameGangs s g code (form := (reencoded s g).2) (reencoded_sameGangs s g)
  have set : Stands u (· = closeSpan g code (commitClock s g (reencoded s g).2)) (closed s g code (reencoded s g).1 (reencoded s g).2) :=
    (Stands.setGang (k := closeSpan g code _) hg named).congr same.gangs
  refine ⟨_, closeSpan_nextSpan g code (commitClock s g (reencoded s g).2), ?_⟩
  unfold commitDone
  dsimp only
  split
  · exact set.congr rfl
  · exact set.afterWrites fun _ e => e ▸ (closeSpan_nextSpan g code _).idle

/-- A commit that is made: between spans there was nothing to commit (R62). -/
theorem commitSpan_done {s t : State} {u code : Nat} {g : Gang} (hg : gang? s u = some g) (h : commitSpan s u code = .done t) :
    (spanOpen g.span = false ∧ t = unfavour (setGang s (endUnbegun g code)) u) ∨ t = commitDone s g code := by
  rw [commitSpan, commitSpanWith_eq hg] at h
  split at h
  next shut => exact .inl ⟨by simpa using shut, (CommitRes.done.inj h).symm⟩
  next =>
    split at h
    · cases h
    · split at h
      · cases h
      · split at h
        · cases h
        · split at h
          · cases h
          · exact .inr (CommitRes.done.inj h).symm

/-- A commit fails at a stale read (R43, R76). -/
theorem commitSpan_failed {s t : State} {u code : Nat} {g : Gang} (hg : gang? s u = some g) (h : commitSpan s u code = .failed t) :
    t = resolveStale s u (staleReads s g.span) ∨ t = resolveExact s u := by
  rw [commitSpan, commitSpanWith_eq hg] at h
  split at h
  · cases h
  · split at h
    · cases h
    · split at h
      · cases h
      · split at h
        · exact .inl (CommitRes.failed.inj h).symm
        · split at h
          · exact .inr (CommitRes.failed.inj h).symm
          · cases h

/-- A commit that is made leaves its gang with an empty span, alone under its name. -/
theorem commitSpan_own {s t : State} {u code : Nat} {g : Gang} (hg : gang? s u = some g) (h : commitSpan s u code = .done t) :
    ∃ k, NextSpan g k code ∧ Stands u (· = k) t := by
  have uid := gang?_uid hg
  have named : (endUnbegun g code).uid = u := uid
  rcases commitSpan_done hg h with ⟨shut, rfl⟩ | rfl
  · have set : Stands u (· = endUnbegun g code) (setGang s (endUnbegun g code)) := .setGang hg named
    exact ⟨_, endUnbegun_nextSpan shut code, set.congr rfl⟩
  · exact commitDone_own hg

/-- What a step leaves of the issue, and of a gang that P describes. -/
structure Spares (u : Nat) (P : Gang → Prop) (s t : State) : Prop where
  iss : t.iss = s.iss
  stands : Stands u P s → Stands u P t

section
variable {u a : Nat} {P : Gang → Prop} {s t v : State}

theorem Spares.refl (s : State) : Spares u P s s := ⟨rfl, id⟩

theorem Spares.trans (h : Spares u P s t) (k : Spares u P t v) : Spares u P s v := ⟨k.iss.trans h.iss, k.stands ∘ h.stands⟩

theorem Spares.fold {α : Type} {f : State → α → State} (one : ∀ t x, Spares u P t (f t x)) (s : State) (l : List α) :
    Spares u P s (l.foldl f s) := by
  induction l generalizing s with
  | nil => exact .refl s
  | cons x l ih => exact (one s x).trans (ih (f s x))

theorem SameGangs.spares (h : SameGangs s t) : Spares u P s t := ⟨h.iss, fun k => k.congr h.gangs⟩

theorem ActsOn.spares (h : ActsOn a s t) (other : a ≠ u) : Spares u P s t :=
  ⟨(congrArg State.iss h.rest :).symm, h.stands other⟩

theorem Spares.modGang {f : Gang → Gang} (name : ∀ g, (f g).uid = g.uid) (keep : ∀ g, P g → P (f g)) (a : Nat) :
    Spares u P s (modGang s a f) := by
  refine ⟨rfl, fun h => ?_⟩
  by_cases e : a = u
  · subst e; exact h.modGang name keep
  · exact (ActsOn.modGang s a name).stands e h

variable (idle : ∀ g, P g → SpanIdle g.span)
include idle

theorem afterWrites_spares (s : State) (writer : Option Nat) (bytes : List Nat) (samples : List Sample) (csn : Nat) (src : Word) :
    Spares u P s (afterWrites s writer bytes samples csn src) :=
  ⟨(congrArg State.iss (afterWrites_rest s) :).symm, fun h => h.afterWrites idle⟩

theorem commitDone_spares {g : Gang} (other : g.uid ≠ u) (code : Nat) : Spares u P s (commitDone s g code) := by
  have same := closed_sameGangs s g code (form := (reencoded s g).2) (reencoded_sameGangs s g)
  have set : Spares u P s (closed s g code (reencoded s g).1 (reencoded s g).2) :=
    ((ActsOn.setGang (u := g.uid) (g := closeSpan g code _) s rfl).spares other).trans same.spares
  unfold commitDone
  dsimp only
  split
  · exact set.trans (SameGangs.spares ⟨rfl, rfl⟩)
  · exact set.trans (afterWrites_spares idle _ _ _ _ _ _)

/-- The commit of another gang spares a gang whose span has recorded nothing. -/
theorem commitSpan_spares {code : Nat} (other : a ≠ u) (h : commitSpan s a code = .done t ∨ commitSpan s a code = .failed t) :
    Spares u P s t := by
  cases hg : gang? s a with
  | none =>
    have e : commitSpan s a code = .done s := by simp [commitSpan, commitSpanWith, hg]
    rw [e] at h
    rcases h with h | h
    · exact CommitRes.done.inj h ▸ .refl s
    · cases h
  | some g =>
    have named := gang?_uid hg
    rcases h with h | h
    · rcases commitSpan_done hg h with ⟨-, rfl⟩ | rfl
      · exact ((ActsOn.setGang (g := endUnbegun g code) s named).spares other).trans (SameGangs.spares ⟨rfl, rfl⟩)
      · exact commitDone_spares idle (named ▸ other) code
    · rcases commitSpan_failed hg h with rfl | rfl
      · exact (resolveStale_acts s a _).spares other
      · exact (resolveExact_acts s a).spares other

end

end Sys2Proof.Machine
end

section
/-! SUPPORT. A delivery and the end of a gang keep its registers and its empty span (R156, R364, R365, R375); and transactions (O18;
R78, R79, R267). -/

namespace Sys2Proof.Machine

/-! ## What a delivery keeps of its gang -/

/-- A gang with these registers, no transaction, and a span that has recorded nothing. -/
structure Held (regs : List (Nat × Word)) (alloc : Nat) (k : Gang) : Prop where
  idle : SpanIdle k.span
  noTx : k.span.tx = none
  regs : k.regs = regs
  alloc : k.alloc = alloc

section
variable {R : List (Nat × Word)} {A : Nat} {g k : Gang}

theorem Held.of_span (h : Held R A g) (regs : k.regs = g.regs) (alloc : k.alloc = g.alloc) (span : k.span = g.span) : Held R A k :=
  ⟨span ▸ h.idle, span ▸ h.noTx, regs.trans h.regs, alloc.trans h.alloc⟩

end

/-! ## Steps that touch no gang -/

theorem fixTrapWith_sameGangs (s : State) (t : Trap) (lanes : Option LaneMask) : SameGangs s (fixTrapWith s t lanes).1 := by
  unfold fixTrapWith
  split
  · exact .refl s
  · exact ⟨rfl, rfl⟩

theorem keepRecord_sameGangs (s : State) (r : ErrRec) : SameGangs s (keepRecord s r) := by
  unfold keepRecord
  split <;> exact ⟨rfl, rfl⟩

theorem fixTrap_sameGangs {s s' : State} {g : Gang} {t t' : Trap} (h : fixTrap s g t = (s', t')) : SameGangs s s' := by
  have fixed := fixTrapWith_sameGangs s t (seenLanes g t)
  unfold fixTrap at h
  rwa [h] at fixed

theorem toDomain_sameGangs (s : State) (g : Gang) (t : Trap) (pc : Option DWord) : SameGangs s (toDomain s g t pc) := by
  unfold toDomain
  split
  next s' t' fixed =>
    split
    · exact (fixTrap_sameGangs fixed).trans (keepRecord_sameGangs _ _)
    · have drawn : SameGangs s' (nextFresh s').2 := ⟨rfl, rfl⟩
      exact (fixTrap_sameGangs fixed).trans (drawn.trans (keepRecord_sameGangs _ _))

/-! ## The end of a gang (R156) -/

section
variable {u : Nat} {R : List (Nat × Word)} {A : Nat}

/-- Every gang changed as a function of itself. -/
theorem Spares.mapAll {P : Gang → Prop} {s t : State} {f : Gang → Gang} (iss : t.iss = s.iss) (gangs : t.gangs = s.gangs.map f)
    (name : ∀ g, (f g).uid = g.uid) (keep : ∀ g, P g → P (f g)) : Spares u P s t :=
  ⟨iss, fun h => h.map name (fun g _ hg => keep g hg) gangs⟩

theorem completeWait_held {g : Gang} (h : Held R A g) (s : State) (split : Nat) {f : Gang → Gang} (keep : ∀ g, Held R A g → Held R A (f g)) :
    Held R A (completeWait s g split f) := by
  have moved := keep _ (h.of_span (k := setPc g split (nextPc (splitPc g split) 1)) rfl rfl rfl)
  exact ⟨spanIdle_emptySpan _, moved.noTx, moved.regs, moved.alloc⟩

theorem barProceed_held (s : State) (core obj : Nat) (b : BarObj) (g : Gang) (h : Held R A g) : Held R A (barProceed s core obj b g) := by
  unfold barProceed
  split
  · split
    · exact completeWait_held h s _ fun g hg => hg.of_span rfl rfl rfl
    · exact h
  · exact h

theorem completeWait_uid (s : State) (g : Gang) (split : Nat) {f : Gang → Gang} (name : ∀ g, (f g).uid = g.uid) :
    (completeWait s g split f).uid = g.uid := name _

theorem barProceed_uid (s : State) (core obj : Nat) (b : BarObj) (g : Gang) : (barProceed s core obj b g).uid = g.uid := by
  unfold barProceed
  split
  · split
    · exact completeWait_uid s g _ fun _ => rfl
    · rfl
  · rfl

theorem barSettle_spares (s : State) (core obj : Nat) (b : BarObj) : Spares u (Held R A) s (barSettle s core obj b) := by
  unfold barSettle
  split
  · exact .mapAll rfl rfl (barProceed_uid _ _ _ _) (barProceed_held _ _ _ _)
  · exact SameGangs.spares ⟨rfl, rfl⟩

theorem barLower_spares (s : State) (core obj : Nat) (g : Gang) : Spares u (Held R A) s (barLower s core obj g) := by
  unfold barLower
  split
  · exact .refl s
  next b _ =>
    have set : ∀ x, Spares u (Held R A) s (setBarObj s core obj x) := fun x => SameGangs.spares ⟨rfl, rfl⟩
    split
    · exact .refl s
    · dsimp only
      split
      · exact set _
      · split
        · exact set _
        · exact barSettle_spares s core obj _

theorem lowerAll_spares (s : State) (g : Gang) : Spares u (Held R A) s (lowerAll s g) :=
  .fold (fun t c => .fold (fun t b => barLower_spares t c.1 b.1 g) t c.2.bars) s s.cores

theorem freeGrant_spares (s : State) (a : Nat) : Spares u (Held R A) s (freeGrant s a) := by
  unfold freeGrant
  split
  · exact .refl s
  · split
    · refine .modGang (fun _ => ?_) (fun _ h => ?_) a
      · rfl
      · exact h.of_span rfl rfl rfl
    · exact .refl s

theorem releaseHeld_spares (s : State) (a : Nat) : Spares u (Held R A) s (releaseHeld s a) := by
  refine .mapAll rfl rfl (fun g => ?_) fun g h => ?_
  · rw [apply_ite Gang.uid, ite_self]
  · dsimp only
    split
    · exact h.of_span rfl rfl rfl
    · exact h

theorem gangEnd_spares (s : State) (a : Nat) : Spares u (Held R A) s (gangEnd s a) := by
  unfold gangEnd
  split
  · exact .refl s
  next g _ =>
    extract_lets pc queued shadowed lowered counted ended left fav
    have h1 : Spares u (Held R A) s queued := (SameGangs.fold (fun t x => toDomain_sameGangs t g x none) s g.trap.queue).spares
    have h2 : Spares u (Held R A) queued shadowed := by
      unfold shadowed
      split
      · exact (toDomain_sameGangs _ _ _ _).spares
      · exact .refl queued
    have h3 : Spares u (Held R A) shadowed lowered := lowerAll_spares shadowed g
    have h4 : Spares u (Held R A) lowered counted := by
      unfold counted
      split
      · exact .refl lowered
      · exact SameGangs.spares ⟨rfl, rfl⟩
    have h5 : Spares u (Held R A) counted ended := by
      refine .modGang (fun _ => ?_) (fun _ h => ?_) a
      · rfl
      · exact h.of_span rfl rfl rfl
    have h6 : Spares u (Held R A) ended left := (releaseHeld_spares ended a).trans (SameGangs.spares ⟨rfl, rfl⟩)
    have h7 : Spares u (Held R A) left fav := SameGangs.spares ⟨rfl, rfl⟩
    exact h1.trans (h2.trans (h3.trans (h4.trans (h5.trans (h6.trans (h7.trans (freeGrant_spares fav a)))))))

theorem halt_spares (s : State) (a : Nat) (d : Delivery) : Spares u (Held R A) s (halt s a d) := by
  unfold halt
  split
  · exact .refl s
  next g _ =>
    extract_lets first info x t written
    have set : Spares u (Held R A) s written := by
      refine .modGang (fun _ => ?_) (fun _ h => ?_) a
      · rfl
      · exact h.of_span rfl rfl rfl
    exact set.trans ((keepRecord_sameGangs written _).spares.trans (gangEnd_spares _ a))

/-! ## Delivery (R364, R375) -/

theorem stopOutside_spares {s t : State} {h : Gang} (other : h.uid ≠ u)
    (e : stopOutside s h = .done t ∨ stopOutside s h = .failed t) : Spares u (Held R A) s t := by
  unfold stopOutside at e
  split at e
  · rcases e with e | e
    · exact CommitRes.done.inj e ▸ (txRestart_acts s h.uid 5 (some 6)).spares other
    · cases e
  · split at e
    · exact commitSpan_spares (fun _ held => held.idle) other e
    · rcases e with e | e
      · exact CommitRes.done.inj e ▸ .refl s
      · cases e

theorem freezeOthers_spares (s : State) {g : Gang} (own : g.uid = u) : Spares u (Held R A) s (freezeOthers s g) := by
  refine .fold (fun t h0 => ?_) s s.gangs
  split
  · exact .refl t
  next h hh =>
    split
    · exact .refl t
    next stops =>
      have other : h.uid ≠ u := fun e => stops (.inl (e.trans own.symm))
      dsimp only
      refine Spares.trans ?_ (ActsOn.spares (ActsOn.modGang _ h.uid (fun _ => ?_)) other)
      rotate_left
      · rfl
      split
      next t' e => exact stopOutside_spares other (.inl e)
      next t' e => exact stopOutside_spares other (.inr e)
      next => exact .refl t

/-- The gang in its handler (R364). -/
def inHandler (g : Gang) (d : Delivery) : Gang :=
  let t := { writeTrapRegs g.trap d with nest := true, async := d.async, frame := some (frameOf g d), replay := none, pending := none }
  let t := if d.async then { t with qovf := t.lost, lost := false, queue := t.queue.drop 1 } else t
  let g' := enterSlices g d
  { g' with trap := t, sched := { g'.sched with wait := .none }, ownerFail := if d.async then g.ownerFail else [] }

/-- The machine with the gang in its handler, its span ended with code 6. -/
def entered (s : State) (u : Nat) (g : Gang) (d : Delivery) : State :=
  let s := setGang s (endUnbegun (inHandler g d) 6)
  if g.sched.wait == .none then s else modGang (leaveQueues s u g.core) u fun g => wake s g

/-- The state before a delivery, and the delivery with its trap's free values drawn. -/
def fixedTrap (s : State) (u : Nat) (g : Gang) (d : Delivery) : State × Trap := fixTrap (dropAsks s u) g d.trap

def fixedDelivery (s : State) (u : Nat) (g : Gang) (d : Delivery) : Delivery := { d with trap := (fixedTrap s u g d).2 }

theorem deliver_eq {s : State} {u : Nat} {g : Gang} (hg : gang? s u = some g) (d : Delivery) : deliver s u d =
    if (g.trap.nest && !d.async) || !handlerUsable g then halt (fixedTrap s u g d).1 u (fixedDelivery s u g d)
    else if g.freeze then freezeOthers (entered (fixedTrap s u g d).1 u g (fixedDelivery s u g d)) (inHandler g (fixedDelivery s u g d))
    else entered (fixedTrap s u g d).1 u g (fixedDelivery s u g d) := by
  unfold deliver
  rw [hg]
  rfl

theorem fixedTrap_sameGangs (s : State) (u : Nat) (g : Gang) (d : Delivery) : SameGangs s (fixedTrap s u g d).1 := by
  have drop : SameGangs s (dropAsks s u) := ⟨rfl, rfl⟩
  exact drop.trans (fixTrap_sameGangs (Prod.eta _).symm)

theorem inHandler_held {g : Gang} (h : Held R A g) (d : Delivery) : Held R A (endUnbegun (inHandler g d) 6) :=
  ⟨⟨rfl, rfl, rfl, rfl, rfl, rfl⟩, h.noTx, h.regs, h.alloc⟩

theorem entered_spares {s : State} {g : Gang} (hg : gang? s u = some g) (held : Held R A g) (d : Delivery) :
    Spares u (Held R A) s (entered s u g d) := by
  have named := gang?_uid hg
  have set : Spares u (Held R A) s (setGang s (endUnbegun (inHandler g d) 6)) :=
    ⟨rfl, fun _ => (Stands.setGang (k := endUnbegun (inHandler g d) 6) hg named).mono fun _ e => e ▸ inHandler_held held d⟩
  unfold entered
  extract_lets v
  split
  · exact set
  · refine set.trans (Spares.trans (t := leaveQueues v u g.core) (SameGangs.spares ⟨rfl, rfl⟩) ?_)
    exact .modGang (f := wake v) (fun _ => rfl) (fun _ h => h.of_span rfl rfl rfl) u

theorem deliver_spares {s : State} (h : Stands u (Held R A) s) (d : Delivery) : Spares u (Held R A) s (deliver s u d) := by
  obtain ⟨g, hg, held⟩ := h.gang
  have named := gang?_uid hg
  have same := fixedTrap_sameGangs s u g d
  have hg' : gang? (fixedTrap s u g d).1 u = some g := by unfold gang? at hg ⊢; rwa [same.gangs]
  have inside := same.spares.trans (entered_spares hg' held (fixedDelivery s u g d))
  rw [deliver_eq hg]
  split
  · exact same.spares.trans (halt_spares _ u _)
  · split
    · exact inside.trans (freezeOthers_spares _ named)
    · exact inside

end

end Sys2Proof.Machine
end

section
/-! SUPPORT. Transactions (O18; R78, R79, R267): what SPAN.OPEN writes, what SPAN.CLOSE commits, and that every other boundary
instruction rolls back. -/

namespace Sys2Proof.Machine

/-! ## An outcome that sets the gang -/

/-- Setting the gang to k, under its own name, changes nothing else. -/
theorem leaves_setGang {t : State} {u : Nat} {h k : Gang} (hg : gang? t u = some h) (name : k.uid = h.uid) :
    Leaves t u (.next (setGang t k)) k := by
  have named : k.uid = u := name.trans (gang?_uid hg)
  exact ⟨_, rfl, gang?_withGangState hg name, fun _ other => (ActsOn.setGang t named).gang_ne other, rfl⟩

/-- So does changing it as a function of itself. -/
theorem leaves_modGang {t : State} {u : Nat} {k : Gang} (hg : gang? t u = some k) {f : Gang → Gang} (name : ∀ g, (f g).uid = g.uid) :
    Leaves t u (.next (modGang t u f)) (f k) :=
  ⟨_, rfl, gang_modGang_self f hg (name k), fun _ other => gang_modGang_ne t f name other, rfl⟩

/-- One register written in the lanes of a mask. -/
theorem putAll_writes (g : Gang) (m : LaneMask) (d : Reg) (v : Word) : Writes g (putAll g m d v) m fun _ => [(d.toNat, v)] :=
  writes_fold g m (fun _ => [(d.toNat, v)]) fun _ => by simp [DistinctRegs]

theorem putAll_span (g : Gang) (sp : Span) (m : LaneMask) (d : Reg) (v : Word) :
    putAll { g with span := sp } m d v = { putAll g m d v with span := sp } := by
  unfold putAll putLanes
  induction lanesOf m generalizing g with
  | nil => rfl
  | cons i ls ih => exact ih (putReg g d.toNat i v)

/-! ## SPAN.OPEN -/

/-- The span that SPAN.OPEN begins; `back` where the trap of its own transaction was delivered at its PC and split. -/
def openedSpan (h : Gang) (it : Issue) (d : Reg) (back : Prop) [Decidable back] : Span :=
  { emptySpan h with tx := some ⟨d, execMask h it, it.pc, it.npc, it.split⟩, txNext := if back then none else h.span.txNext }

theorem execSpanOpen_eq {s t : State} {it : Issue} {g h : Gang} (d : Reg) (b : AtBoundary s it g 1 t h) :
    let back := h.span.txNext = some (it.split, it.pc)
    execSpanOpen d s = .next (setGang t { putAll h (execMask h it) d (if back then 4#32 else 0#32) with span := openedSpan h it d back }) := by
  intro back
  rw [execSpanOpen, boundary_at b]
  by_cases e : h.span.txNext = some (it.split, it.pc)
  · simp only [e, back, if_true, putAll_span]; rfl
  · simp only [e, back, if_false, putAll_span]; rfl

theorem spanOpen_opens {s t : State} {it : Issue} {g h : Gang} (d : Reg) (b : AtBoundary s it g 1 t h) :
    let back := h.span.txNext = some (it.split, it.pc)
    ∃ k, Writes h k (execMask h it) (fun _ => [(d.toNat, if back then 4#32 else 0#32)]) ∧
      Leaves t it.gang (exec (.spanOpen d) s) { k with span := openedSpan h it d back } := by
  intro back
  have w := putAll_writes h (execMask h it) d (if back then 4#32 else 0#32)
  refine ⟨_, w, ?_⟩
  rw [exec_spanOpen, execSpanOpen_eq d b]
  exact leaves_setGang b.gang w.uid

/-! ## SPAN.CLOSE -/

theorem standAfter_uid (g : Gang) (it : Issue) : (standAfter g it).uid = g.uid := by
  unfold standAfter
  split <;> rfl

theorem spanClose_commits {s u : State} {it : Issue} {g k : Gang} (hi : Issues s it g) (accepted : offersOpen s it.gang = false)
    (commit : commitSpan (setGang s (standBefore g it)) it.gang 1 = .done u) (quiet : deliverQueued u it.gang it.split = none)
    (hk : gang? u it.gang = some k) : Leaves u it.gang (exec .spanClose s) (fresh (standAfter k it)) := by
  have after : gang? (modGang u it.gang fun g => standAfter g it) it.gang = some (standAfter k it) :=
    gang_modGang_self (fun g => standAfter g it) hk (standAfter_uid k it)
  have performed : exec .spanClose s = .next (modGang u it.gang fun g => fresh (standAfter g it)) := by
    rw [exec_spanClose, execSpanClose, boundary, withGang_of hi]
    simp only [Bool.not_true, Bool.and_false, Bool.false_eq_true, if_false, accepted, commit, quiet, after, doneBoundary, freshSpan]
    rw [modGang_modGang _ _ _ _ fun g => standAfter_uid g it]
    rfl
  have name : ∀ g, (fresh (standAfter g it)).uid = g.uid := fun g => by rw [← standAfter_uid g it]; rfl
  rw [performed]
  exact leaves_modGang hk name

/-! ## Every other boundary instruction inside a transaction (R79) -/

theorem exec_boundary {i : Instr} (h : (boundaryCode i).isSome) (other : i ≠ .spanClose) (s : State) :
    ∃ code body, exec i s = boundary code false s body := by
  cases i
  case spanClose => exact absurd rfl other
  case wbufLd => rw [exec_wbufLd, execWbufLd]; exact ⟨_, _, rfl⟩
  case wbufLdsp => rw [exec_wbufLdsp, execWbufLdsp]; exact ⟨_, _, rfl⟩
  case fgrid => rw [exec_fgrid, execFgrid]; exact ⟨_, _, rfl⟩
  case fgrid2d => rw [exec_fgrid2d, execFgrid2d]; exact ⟨_, _, rfl⟩
  case ldAcq | stRel | atom | atoml | fenceAcq | fenceRel | fenceSc | barInit | barExpect | barArrive | barWait | barTest | cpyKick |
      gridLaunch | exit | regangWg | spanOpen | mma | mmaB | accWin | accZero | accLd | accFromlm | accCvt | scacc | tscaleBind |
      rastKick | regsGrow | regsShrink =>
    simp only [exec_ldAcq, exec_stRel, exec_atom, exec_atoml, exec_fenceAcq, exec_fenceRel, exec_fenceSc, exec_barInit, exec_barExpect,
      exec_barArrive, exec_barWait, exec_barTest, exec_cpyKick, exec_gridLaunch, exec_exit, exec_regangWg, exec_spanOpen, exec_mma,
      exec_mmaB, exec_accWin, exec_accZero, exec_accLd, exec_accFromlm, exec_accCvt, exec_scacc, exec_tscaleBind, exec_rastKick,
      exec_regsGrow, exec_regsShrink]
    exact ⟨_, _, rfl⟩
  all_goals cases h

/-- The rolled-back gang with the status of its transaction written, and no transaction open. -/
def txStatus (tx : TxInfo) (status : Word) (g : Gang) : Gang :=
  let k := putAll g (tx.mask &&& g.live &&& g.launchMask) tx.d status
  { k with span := { emptySpan k with tx := none } }

theorem txStatus_uid (tx : TxInfo) (status : Word) (g : Gang) : (txStatus tx status g).uid = g.uid := (putAll_writes g _ tx.d status).uid

theorem putAll_alloc (g : Gang) (m : LaneMask) (d : Reg) (v : Word) : (putAll g m d v).alloc = g.alloc := by
  simpa using congrArg Gang.alloc (putAll_writes g m d v).rest

theorem txStatus_held (tx : TxInfo) (status : Word) (g : Gang) : Held (txStatus tx status g).regs g.alloc (txStatus tx status g) :=
  ⟨⟨rfl, rfl, rfl, rfl, rfl, rfl⟩, rfl, rfl, putAll_alloc g _ tx.d status⟩

/-- A gang as a rollback leaves its registers, its lanes and its queued errors (R64). -/
structure BackAt (g k : Gang) : Prop where
  regs : k.regs = g.span.chk.regs
  alloc : k.alloc = g.span.chk.alloc
  live : k.live = g.live
  launchMask : k.launchMask = g.launchMask
  queue : k.trap.queue = g.trap.queue
  nest : k.trap.nest = g.trap.nest

theorem rolledBack_backAt (s : State) (g : Gang) : BackAt g (rolledBack s g) := by
  unfold rolledBack
  dsimp only
  split <;> exact ⟨rfl, rfl, rfl, rfl, rfl, rfl⟩

theorem txRestart_eq {s : State} {u : Nat} {g : Gang} {tx : TxInfo} (hg : gang? s u = some g) (opened : g.span.tx = some tx)
    {status : Nat} (ends : status = 2 ∨ status = 3) (code : Nat) :
    txRestart s u status (some code) = modGang (noteEnd (rollback s u) u code) u (txStatus tx (BitVec.ofNat 32 status)) := by
  unfold txRestart
  rw [hg, Option.bind_some, opened]
  simp only [ends, if_true]
  rfl

/-- A transaction rolled back with 2 or 3: the gang stands as at the checkpoint, with the status written (R78). -/
theorem txRestart_own {s : State} {u : Nat} {g : Gang} {tx : TxInfo} (hg : gang? s u = some g) (opened : g.span.tx = some tx)
    {status : Nat} (ends : status = 2 ∨ status = 3) (code : Nat) :
    ∃ k, BackAt g k ∧ Stands u (· = txStatus tx (BitVec.ofNat 32 status) k) (txRestart s u status (some code)) := by
  let ended : Gang → Gang := fun k => { k with span := { k.span with lastEnd := code } }
  have back := rolledBack_backAt (beforeRollback s g) g
  refine ⟨ended (rolledBack (beforeRollback s g) g), ⟨back.regs, back.alloc, back.live, back.launchMask, back.queue, back.nest⟩, ?_⟩
  rw [txRestart_eq hg opened ends]
  have noted : Stands u (· = ended (rolledBack (beforeRollback s g) g)) (noteEnd (rollback s u) u code) :=
    (stands_rollback hg).modGang (f := ended) (fun _ => rfl) fun k e => congrArg ended e
  exact noted.modGang (txStatus_uid tx _) fun k e => congrArg (txStatus tx _) e

theorem deliverQueued_spares {s t : State} {u split : Nat} {R : List (Nat × Word)} {A : Nat} (h : Stands u (Held R A) s)
    (d : deliverQueued s u split = some t) : Spares u (Held R A) s t := by
  unfold deliverQueued at d
  split at d
  · cases d
  · split at d
    · cases d
    · split at d
      · cases d
      · exact Option.some.inj d ▸ deliver_spares h _

/-- A transaction ended with 3, also where a queued error is delivered then (R78, R79, R367). -/
theorem endTx_stands {s : State} {u : Nat} {g : Gang} {tx : TxInfo} (hg : gang? s u = some g) (opened : g.span.tx = some tx)
    (code : Nat) : ∃ k, BackAt g k ∧ Stands u (Held (txStatus tx 3#32 k).regs k.alloc) (endTx s u 3 code) ∧
      (endTx s u 3 code).iss = s.iss := by
  obtain ⟨k, back, stands⟩ := txRestart_own hg opened (.inr rfl) code
  have held : Stands u (Held (txStatus tx 3#32 k).regs k.alloc) (txRestart s u 3 (some code)) :=
    stands.mono fun _ e => e ▸ txStatus_held tx 3#32 k
  have iss : (txRestart s u 3 (some code)).iss = s.iss := (congrArg State.iss (txRestart_acts s u 3 (some code)).rest :).symm
  refine ⟨k, back, ?_⟩
  unfold endTx
  extract_lets split t
  cases d : deliverQueued t u split with
  | none => exact ⟨held, iss⟩
  | some v =>
    have spares := deliverQueued_spares held d
    exact ⟨spares.stands held, spares.iss.trans iss⟩

theorem stopChain_gangs (s : State) : (stopChain s).gangs = s.gangs := rfl

/-- Inside a transaction a boundary instruction is not performed (R79). -/
theorem boundary_rollsBack {s : State} {it : Issue} {g : Gang} {i : Instr} {tx : TxInfo} (hi : Issues s it g) (opened : g.span.tx = some tx)
    (code : (boundaryCode i).isSome) (other : i ≠ .spanClose) :
    ∃ v k, exec i s = .next v ∧ gang? v it.gang = some k ∧ k.span.tx = none ∧ k.span.ver = [] ∧ k.alloc = g.span.chk.alloc ∧
      (v.iss.map (·.stopped)) = some true ∧
      (∀ l, l < 32 → (tx.mask &&& g.live &&& g.launchMask).getLsbD l = true → getReg k tx.d.toNat l = 3#32) ∧
      ∀ r l, l < 32 → ¬(r = tx.d.toNat ∧ (tx.mask &&& g.live &&& g.launchMask).getLsbD l = true) →
        getReg k r l = readK 0#32 (r * 32 + l) g.span.chk.regs := by
  obtain ⟨code, body, performed⟩ := exec_boundary code other s
  obtain ⟨b, back, stands, iss⟩ := endTx_stands hi.gang opened code
  obtain ⟨k, hk, held⟩ := (stands.congr (stopChain_gangs _)).gang
  have w := putAll_writes b (tx.mask &&& b.live &&& b.launchMask) tx.d 3#32
  have reads : ∀ r l, getReg k r l = getReg (putAll b (tx.mask &&& b.live &&& b.launchMask) tx.d 3#32) r l := fun r l => by
    rw [getReg, held.regs]; rfl
  rw [back.live, back.launchMask] at w reads
  refine ⟨stopChain (endTx s it.gang 3 code), k, ?_, hk, held.noTx, held.idle.ver, held.alloc.trans back.alloc, ?_, fun l hl hm => ?_,
    fun r l hl hm => ?_⟩
  · rw [performed, boundary_tx hi (by rw [opened]; rfl)]
  · simp [stopChain, setIss, iss, hi.issuing]
  · rw [reads]
    exact (w.written l hl hm _ (List.mem_singleton.mpr rfl)).1
  · rw [reads, (w.kept r l hl fun c => hm ⟨by simpa using c.2, c.1⟩).1, getReg, back.regs]

/-- Settles O18: SPAN.OPEN's body and SPAN.CLOSE's commit as they stand; every other boundary instruction through the rollback of
its gang, and a delivery that keeps the gang's registers and its empty span. -/
theorem transactions : Obligations.Transactions := by
  unfold Obligations.Transactions
  exact ⟨fun _ _ _ _ _ d b => spanOpen_opens d b, fun _ _ _ _ _ hi accepted commit quiet hk => spanClose_commits hi accepted commit quiet hk,
    fun _ _ _ _ _ hi opened code other => boundary_rollsBack hi opened code other⟩

end Sys2Proof.Machine
end

section
/-! SUPPORT. Between instructions (O56; R62, R77, R78, R150, R269, R358, R367, R377): the favour, the instruction limit, path rotation,
growth, queued errors and storage errors. -/

namespace Sys2Proof.Machine

/-! ## The favour (R77) -/

/-- A gang that may be favoured: it stands at a span start. -/
def favourable (s : State) (u : Nat) : Bool := ((gang? s u).map fun g => g.span.count == 0 && !g.ended && cohortResident s g).getD false

theorem execFavourGrant_eq (s : State) : execFavourGrant s =
    if s.favoured.isSome then .next s
    else match s.favourQueue.find? (favourable s) with
      | none => .next s
      | some u => .next { s with favoured := some u, favourQueue := s.favourQueue.filter (· != u) } := rfl

theorem favourGrant_none {s : State} (h : s.favoured.isSome ∨ ∀ u ∈ s.favourQueue, favourable s u = false) :
    exec .favourGrant s = .next s := by
  rw [exec_favourGrant, execFavourGrant_eq]
  rcases h with h | h
  · rw [if_pos h]
  · have none : s.favourQueue.find? (favourable s) = none := List.find?_eq_none.mpr fun u hu => by simp [h u hu]
    rw [none, ite_self]

/-- The first waiter that may be favoured is. -/
theorem favourGrant_first {s : State} {before after : List Nat} {u : Nat} (free : s.favoured = none)
    (queue : s.favourQueue = before ++ u :: after) (not : ∀ x ∈ before, favourable s x = false) (ok : favourable s u = true) :
    exec .favourGrant s = .next { s with favoured := some u, favourQueue := s.favourQueue.filter (· != u) } := by
  have first : s.favourQueue.find? (favourable s) = some u := by
    rw [queue, List.find?_append, List.find?_eq_none.mpr fun x hx => by simp [not x hx], List.find?_cons_of_pos ok]
    rfl
  rw [exec_favourGrant, execFavourGrant_eq, first, free]
  rfl

/-! ## The instruction limit (R62, R78) -/

theorem txStatus_trap (tx : TxInfo) (status : Word) (g : Gang) : (txStatus tx status g).trap = g.trap := by
  have w := (putAll_writes g (tx.mask &&& g.live &&& g.launchMask) tx.d status).rest
  exact (congrArg Gang.trap w :)

theorem deliverQueued_none {s : State} {u : Nat} {g : Gang} (hg : gang? s u = some g) (h : g.trap.queue = [] ∨ g.trap.nest = true)
    (split : Nat) : deliverQueued s u split = none := by
  unfold deliverQueued
  rw [hg]
  dsimp only
  split
  · rfl
  next t rest queue =>
    rcases h with h | h
    · rw [h] at queue; cases queue
    · simp [h]

section
variable {s : State} {uid : Nat} {g : Gang} (hg : gang? s uid = some g)
include hg

theorem spanLimit_below (below : g.span.count < 65536) : exec (.spanInstructionLimit uid) s = .next s := by
  have limit : atLimit g = false := decide_eq_false (Nat.not_le.mpr below)
  rw [exec_spanInstructionLimit, execSpanInstructionLimit, hg]
  simp [limit]

variable (live : g.ended = false) (limit : 65536 ≤ g.span.count)
include live limit

theorem spanLimit_tx {x : TxInfo} (opened : g.span.tx = some x) : exec (.spanInstructionLimit uid) s =
    .next ((deliverQueued (txRestart s uid 2 (some 3)) uid x.split).getD (txRestart s uid 2 (some 3))) := by
  have met : atLimit g = true := decide_eq_true limit
  rw [exec_spanInstructionLimit, execSpanInstructionLimit, hg]
  simp [met, live, opened, endTx, hg]

/-- Nothing is delivered where no error is queued, or in a handler (R367). -/
theorem spanLimit_quiet {x : TxInfo} (opened : g.span.tx = some x) (h : g.trap.queue = [] ∨ g.trap.nest = true) :
    exec (.spanInstructionLimit uid) s = .next (txRestart s uid 2 (some 3)) := by
  obtain ⟨k, back, stands⟩ := txRestart_own hg opened (.inl rfl) 3
  have same := txStatus_trap x (BitVec.ofNat 32 2) k
  rw [spanLimit_tx hg live limit opened, deliverQueued_none stands.eq (by rw [same, back.queue, back.nest]; exact h)]
  rfl

theorem spanLimit_commits (shut : g.span.tx = none) :
    (∀ t, commitSpan s uid 3 = .done t → exec (.spanInstructionLimit uid) s = .next t) ∧
      (∀ t, commitSpan s uid 3 = .failed t → exec (.spanInstructionLimit uid) s = .next t) ∧
      (commitSpan s uid 3 = .wait → exec (.spanInstructionLimit uid) s = .next s) := by
  have met : atLimit g = true := decide_eq_true limit
  rw [exec_spanInstructionLimit, execSpanInstructionLimit, hg]
  refine ⟨fun t e => ?_, fun t e => ?_, fun e => ?_⟩ <;> simp [met, live, shut, e]

end

/-! ## A change of one gang -/

theorem onlyGang_modGang {s : State} {u : Nat} {g : Gang} (hg : gang? s u = some g) {f : Gang → Gang} (name : ∀ g, (f g).uid = g.uid) :
    OnlyGang s (modGang s u f) u (f g) :=
  ⟨gang_modGang_self f hg (name g), fun _ other => gang_modGang_ne s f name other, rfl⟩

theorem modGang_of_fixed {s : State} {u : Nat} {f : Gang → Gang} (h : ∀ g ∈ s.gangs, g.uid = u → f g = g) : modGang s u f = s := by
  have same : (s.gangs.map fun g => if g.uid = u then f g else g) = s.gangs := by
    refine (List.map_congr_left fun g hg => ?_).trans (List.map_id _)
    split
    next e => exact h g hg e
    next => rfl
  unfold modGang
  rw [same]

/-! ## Path rotation (R150) -/

theorem rotateSlice_uid (g : Gang) (n : Nat) : (rotateSlice g n).uid = g.uid := by
  unfold rotateSlice
  split <;> rfl

theorem rotateSlice_of_not_due {g : Gang} {n : Nat} {sl : Slice} (hn : g.slices[n]? = some sl) (h : sl.back < 64) :
    rotateSlice g n = g := by
  have not : rotationDue sl = false := by simp [rotationDue, h]
  unfold rotateSlice
  rw [hn, Option.map_some, not]
  rfl

theorem getElem?_enumSlices (g : Gang) (n : Nat) : (enumSlices g)[n]? = g.slices[n]?.map fun sl => (n, sl) := by
  cases h : g.slices[n]? with
  | none => simpa [enumSlices, List.getElem?_eq_none_iff] using h
  | some sl =>
    obtain ⟨inside, -⟩ := List.getElem?_eq_some_iff.mp h
    refine List.getElem?_zip_eq_some.mpr ⟨?_, h⟩
    rw [List.getElem?_range inside]

theorem getElem?_modSlices (g : Gang) (f : Nat → Slice → Slice) (n : Nat) : (modSlices g f).slices[n]? = g.slices[n]?.map (f n) := by
  simp [modSlices, getElem?_enumSlices, Function.comp_def]

/-- Regrouping changes the numbers of splits alone (R151). -/
theorem getElem?_regroupFrom (tab : List (Nat × DWord × Nat)) (next : Nat) (l : List Slice) {n : Nat} {sl : Slice} (h : l[n]? = some sl) :
    ∃ k, (regroupFrom tab next l)[n]? = some { sl with split := k } := by
  induction l generalizing tab next n with
  | nil => cases h
  | cons x r ih =>
    have step : ∀ (k : Nat) (tab : List (Nat × DWord × Nat)) (next : Nat),
        ∃ j, ({ x with split := k } :: regroupFrom tab next r)[n]? = some { sl with split := j } := by
      intro k tab next
      cases n with
      | zero => cases h; exact ⟨k, rfl⟩
      | succ n => exact ih tab next h
    unfold regroupFrom
    split
    · exact step x.split _ _
    · split
      · exact step _ _ _
      · split
        · exact step next _ _
        · exact step x.split _ _

theorem settleSlice_of_running {g : Gang} {n : Nat} {sl : Slice} (runs : sliceExec g n sl ≠ 0#4) (fuel : Nat) : settleSlice g n fuel sl = sl := by
  cases fuel with
  | zero => rfl
  | succ k => simp [settleSlice, runs]

/-- A slice with a lane to execute stands through `settle`, but for the number of its split. -/
theorem getElem?_settle {g : Gang} {n : Nat} {sl : Slice} (hn : g.slices[n]? = some sl) (runs : sliceExec g n sl ≠ 0#4) :
    ∃ k, (settle g).slices[n]? = some { sl with split := k } := by
  refine getElem?_regroupFrom _ _ _ ?_
  rw [getElem?_modSlices, hn, Option.map_some, settleSlice_of_running runs]

/-- A due path yields to the pending path on top of its stack. -/
theorem rotateSlice_pending {g : Gang} {n : Nat} {sl : Slice} {p : DWord} {m : BitVec 4} {r : List StackEntry} (hn : g.slices[n]? = some sl)
    (due : 64 ≤ sl.back) (live : sl.ended = false) (free : sl.held = false) (stack : sl.stack = .pending p m :: r)
    (runs : m &&& nibble g.live n &&& nibble g.launchMask n ≠ 0#4) :
    ∃ x, (rotateSlice g n).slices[n]? = some x ∧ x.pc = p ∧ x.path = m ∧ x.back = 0 ∧ x.stack = .pending sl.pc sl.path :: r ∧
      (rotateSlice g n).regs = g.regs := by
  have met : rotationDue sl = true := by simp [rotationDue, due, live, free]
  have rotated : rotate sl = toPath sl p m (.pending sl.pc sl.path :: r) := by rw [rotate, stack]; rfl
  have moved : ({ g with slices := g.slices.modify n rotate } : Gang).slices[n]? = some (rotate sl) := by
    rw [List.getElem?_modify, hn]; simp
  have exec : sliceExec { g with slices := g.slices.modify n rotate } n (rotate sl) ≠ 0#4 := by
    rw [rotated]; simpa [sliceExec, toPath, live] using runs
  obtain ⟨k, hk⟩ := getElem?_settle moved exec
  have e : rotateSlice g n = settle { g with slices := g.slices.modify n rotate } := by
    rw [rotateSlice, hn, Option.map_some, met]; rfl
  rw [rotated] at hk
  rw [e]
  exact ⟨_, hk, rfl, rfl, rfl, rfl, rfl⟩

/-! ## Growth (R269, R358) -/

theorem getK_filter_key {α : Type} (keep : Nat → Bool) (k : Nat) (l : List (Nat × α)) :
    getK k (l.filter fun x => keep x.1) = if keep k then getK k l else none := by
  induction l with
  | nil => simp [getK]
  | cons x l ih =>
    by_cases e : x.1 = k
    · subst e
      by_cases kept : keep x.1
      · simp [getK, kept]
      · simp [kept, ih]
    · by_cases kept : keep x.1 <;> simp [getK, kept, e, ih]

theorem getReg_grow (n : Nat) (g : Gang) (r : Nat) {l : Nat} (hl : l < 32) :
    getReg (grow n g) r l = if r < g.alloc then getReg g r l else 0 := by
  have row : (r * 32 + l) / 32 = r := by omega
  unfold getReg grow readK
  rw [getK_filter_key (fun k => decide (k / 32 < g.alloc)), row]
  by_cases h : r < g.alloc <;> simp [h]

/-- The state in which a grower leaves its queue. -/
def ungrown (s : State) (core uid : Nat) : State := modCore s core fun c => { c with growers := c.growers.filter fun q => q.1 != uid }

/-- The grower with its registers granted, past its wait. -/
def grown (s : State) (core uid split n : Nat) (g : Gang) : Gang := completeWait (ungrown s core uid) g split (grow n)

theorem grown_uid (s : State) (core uid split n : Nat) (g : Gang) : (grown s core uid split n g).uid = g.uid :=
  completeWait_uid _ g split fun _ => rfl

section
variable {s : State} {core part uid n n' split : Nat} {g : Gang} {rest : List (Nat × Nat)}
    (first : growersOf s core part = (uid, n) :: rest) (hg : gang? s uid = some g) (waits : g.sched.wait = .grow n' split)
include first hg waits

theorem execRegsGrowGrant_eq : execRegsGrowGrant core part s =
    if n / 8 - g.alloc / 8 ≤ freeGranules s core part then
      .next (modGang (ungrown s core uid) uid (grown s core uid split n))
    else .next s := by
  unfold execRegsGrowGrant
  rw [first]
  dsimp only
  rw [hg]
  dsimp only
  rw [waits]
  rfl

theorem regsGrowGrant_full (full : freeGranules s core part < n / 8 - g.alloc / 8) : exec (.regsGrowGrant core part) s = .next s := by
  rw [exec_regsGrowGrant, execRegsGrowGrant_eq first hg waits, if_neg (Nat.not_le.mpr full)]

theorem regsGrowGrant_fits (fits : n / 8 - g.alloc / 8 ≤ freeGranules s core part) :
    ∃ v k, exec (.regsGrowGrant core part) s = .next v ∧ gang? v uid = some k ∧
      k.alloc = n ∧ k.sched.wait = .none ∧ (∀ r l, r < g.alloc → l < 32 → getReg k r l = getReg g r l) ∧
      (∀ r l, g.alloc ≤ r → l < 32 → getReg k r l = 0) ∧ (coreOf v core).growers = (coreOf s core).growers.filter (·.1 != uid) ∧
      v.mem = s.mem ∧ ∀ a, a ≠ uid → gang? v a = gang? s a := by
  have own : gang? (ungrown s core uid) uid = some g := hg
  have granted := gang_modGang_self (grown s core uid split n) own (grown_uid s core uid split n g)
  have reads : ∀ r l, l < 32 → getReg (grown s core uid split n g) r l = if r < g.alloc then getReg g r l else 0 :=
    fun r l hl => getReg_grow n (setPc g split (nextPc (splitPc g split) 1)) r hl
  refine ⟨_, _, ?_, granted, rfl, rfl, fun r l hr hl => ?_, fun r l hr hl => ?_, ?_, rfl,
    fun a other => gang_modGang_ne (ungrown s core uid) _ (grown_uid s core uid split n) other⟩
  · rw [exec_regsGrowGrant, execRegsGrowGrant_eq first hg waits, if_pos fits]
  · rw [reads r l hl, if_pos hr]
  · rw [reads r l hl, if_neg (Nat.not_lt.mpr hr)]
  · simp [ungrown]

end

/-! ## Queued errors at a wait (R367) -/

section
variable {s : State} {uid : Nat} {g : Gang} (hg : gang? s uid = some g)
include hg

theorem asyncError_none (h : g.trap.queue = [] ∨ g.trap.nest = true ∨ g.sched.heldBy ≠ none) :
    exec (.asyncErrorDelivery uid) s = .next s := by
  rw [exec_asyncErrorDelivery, execAsyncErrorDelivery, hg]
  dsimp only
  split
  · rfl
  next split found =>
    rcases h with h | h | h
    · rw [deliverQueued_none hg (.inl h)]; rfl
    · rw [deliverQueued_none hg (.inr h)]; rfl
    · have held : g.sched.heldBy.isSome := Option.isSome_iff_ne_none.mpr h
      simp [deliverySplit, held] at found

end

/-- Drawing a trap's free values draws numbers alone, and keeps its cause (log 19). -/
theorem fixTrapWith_keeps (s : State) (t : Trap) (lanes : Option LaneMask) : (fixTrapWith s t lanes).1.mem = s.mem ∧
    (fixTrapWith s t lanes).2.cause = t.cause ∧ (fixTrapWith s t lanes).2.info = t.info := by
  unfold fixTrapWith
  split <;> exact ⟨rfl, rfl, rfl⟩

theorem fixedTrap_keeps (s : State) (u : Nat) (g : Gang) (d : Delivery) : (fixedTrap s u g d).1.mem = s.mem ∧
    (fixedTrap s u g d).2.cause = d.trap.cause ∧ (fixedTrap s u g d).2.info = d.trap.info :=
  fixTrapWith_keeps (dropAsks s u) d.trap (seenLanes g d.trap)

/-- A gang that waited enters its handler, out of the queues. -/
theorem entered_of_wait {s : State} {u : Nat} {g : Gang} (hg : gang? s u = some g) (waits : g.sched.wait ≠ .none) (d : Delivery) :
    ∃ w, gang? (entered s u g d) u = some (wake w (endUnbegun (inHandler g d) 6)) ∧ (entered s u g d).mem = s.mem := by
  have set : gang? (setGang s (endUnbegun (inHandler g d) 6)) u = some (endUnbegun (inHandler g d) 6) := gang?_withGangState hg rfl
  unfold entered
  simp only [beq_iff_eq, waits, if_false]
  exact ⟨_, gang_modGang_self _ (by simpa [leaveQueues] using set) rfl, rfl⟩

/-- The slices of the split stand at TRAPBASE (R364). -/
theorem inHandler_enters {g : Gang} {d : Delivery} {i : Nat} {x : Slice} (hx : g.slices[i]? = some x) (split : x.split = d.split)
    (live : x.ended = false) (free : x.held = false) (lanes : nibble d.mask i ≠ 0#4) :
    ∃ y, (inHandler g d).slices[i]? = some y ∧ y.pc = g.trap.base := by
  have enters : entersHandler d i x = true := by simp [entersHandler, split, live, free, lanes]
  have slices : (inHandler g d).slices = (enterSlices g d).slices := rfl
  rw [slices, enterSlices, getElem?_modSlices, hx, Option.map_some, if_pos enters]
  exact ⟨_, rfl, rfl⟩

/-- An error delivered at a wait for a barrier. -/
theorem asyncError_delivers {s : State} {uid : Nat} {g : Gang} (hg : gang? s uid = some g) {t : Trap} {rest : List Trap}
    {core obj split : Nat} (queue : g.trap.queue = t :: rest) (nest : g.trap.nest = false) (live : g.ended = false)
    (resident : cohortResident s g = true) (waits : g.sched.wait = .barrier core obj split) (free : g.sched.heldBy = none)
    (pending : g.trap.pending = none) (replay : g.trap.replay = none) (usable : handlerUsable g = true) (alone : g.freeze = false) :
    ∃ v k, exec (.asyncErrorDelivery uid) s = .next v ∧ gang? v uid = some k ∧ k.trap.cause = BitVec.zeroExtend 32 t.cause ∧
      k.trap.info = t.info ∧ k.trap.async = true ∧ k.trap.nest = true ∧ k.trap.queue = rest ∧ k.trap.qovf = g.trap.lost ∧
      k.trap.pc = splitPc g split ∧ k.span.lastEnd = 6 ∧ k.sched.wait = .none ∧ k.regs = g.regs ∧ v.mem = s.mem ∧
      ∀ i x, g.slices[i]? = some x → x.split = split → x.ended = false → x.held = false → nibble (splitMask g split) i ≠ 0#4 →
        ∃ y, k.slices[i]? = some y ∧ y.pc = g.trap.base := by
  let d : Delivery := { trap := t, pc := splitPc g split, record := none, split, mask := splitMask g split, async := true, txTrap := false }
  obtain ⟨mem, cause, info⟩ := fixedTrap_keeps s uid g d
  have own : gang? (fixedTrap s uid g d).1 uid = some g := by
    unfold gang? at hg ⊢; rwa [(fixedTrap_sameGangs s uid g d).gangs]
  obtain ⟨w, hw, entry⟩ := entered_of_wait own (by rw [waits]; simp) (fixedDelivery s uid g d)
  have next : owedNext g = none := by rw [owedNext, replay]; rfl
  have chosen : deliverySplit g none = some split := by simp [deliverySplit, free, waits, waitingSplit]
  have delivered : deliver s uid d = entered (fixedTrap s uid g d).1 uid g (fixedDelivery s uid g d) := by
    simp [deliver_eq hg, usable, alone, nest, d]
  have queued : deliverQueued s uid split = some (deliver s uid d) := by
    simp [deliverQueued, hg, queue, nest, live, pending, asyncDelivery, next, d]
  have performed : exec (.asyncErrorDelivery uid) s = .next (entered (fixedTrap s uid g d).1 uid g (fixedDelivery s uid g d)) := by
    rw [exec_asyncErrorDelivery, execAsyncErrorDelivery, hg]
    simp only [resident, if_true, chosen, queued, delivered, Option.getD_some]
  refine ⟨_, _, performed, hw, congrArg (BitVec.zeroExtend 32) cause, info, rfl, rfl, ?_, rfl, rfl, rfl, rfl, rfl, entry.trans mem,
    fun i x hx atSplit running unheld lanes => inHandler_enters (d := fixedDelivery s uid g d) hx atSplit running unheld lanes⟩
  show g.trap.queue.drop 1 = rest
  rw [queue]; rfl

/-! ## Errors of the storage (R377) -/

theorem l1Line_drops (s : State) (core line : Nat) : ∃ v, exec (.uncorrectableError (.l1Line core line)) s = .next v ∧
    (∀ x, x ∈ (coreOf v core).l1 ↔ x ∈ (coreOf s core).l1 ∧ x.line ≠ line) ∧ v.mem = s.mem :=
  ⟨_, rfl, fun x => by simp [dropLines], rfl⟩

theorem dbcBlock_drops (s : State) (core slot : Nat) : ∃ v, exec (.uncorrectableError (.dbcBlock core slot)) s = .next v ∧
    (∀ x, x ∈ (coreOf v core).dbc ↔ x ∈ (coreOf s core).dbc ∧ x.slot ≠ slot) ∧ v.mem = s.mem :=
  ⟨_, rfl, fun x => by simp, rfl⟩

theorem accCell_poisons (s : State) {core row col : Nat} (hr : row < 256) (hc : col < 256) :
    ∃ v, exec (.uncorrectableError (.accCell core row col)) s = .next v ∧ (row * 256 + col) ∈ (coreOf v core).accPoison ∧
      (coreOf v core).acc = (coreOf s core).acc := by
  refine ⟨_, rfl, ?_, by simp⟩
  simp [List.mem_eraseDups, Nat.mod_eq_of_lt hr, Nat.mod_eq_of_lt hc]

theorem wbufColumn_poisons (s : State) {core panel slot : Nat} (hs : slot < 256) :
    ∃ v, exec (.uncorrectableError (.wbufColumn core panel slot)) s = .next v ∧ (panel * 256 + slot) ∈ (coreOf v core).wbufPoison ∧
      (coreOf v core).wbuf = (coreOf s core).wbuf := by
  refine ⟨_, rfl, ?_, by simp⟩
  simp [List.mem_eraseDups, Nat.mod_eq_of_lt hs]

theorem keepRecord_keeps (s : State) (r : ErrRec) : (keepRecord s r).mem = s.mem ∧ (keepRecord s r).linePoison = s.linePoison ∧
    (keepRecord s r).dev = s.dev := by
  unfold keepRecord
  split <;> exact ⟨rfl, rfl, rfl⟩

/-- The bit of a page, once set, reads as set. -/
theorem pagePoisoned_setPagePoison_true {s : State} {pa : Nat} (dram : isDram pa = true) : pagePoisoned (setPagePoison s pa true) pa = true := by
  have low : (poisonBit s pa).2 < 8 := Nat.mod_lt _ (by decide)
  have kept : poisonBit (setPagePoison s pa true) pa = poisonBit s pa := poisonBit_congr rfl pa
  rw [pagePoisoned, dram, Bool.true_and, kept, setPagePoison]
  simp [memByte_memPut, low]

theorem markPage_keeps (s : State) (pa : Nat) : (markPage s pa).linePoison = s.linePoison := by
  unfold markPage
  split
  · rfl
  · exact (keepRecord_keeps _ _).2.1

theorem markPage_marks {s : State} {pa : Nat} (h : populated s pa = true) : pagePoisoned (markPage s pa) pa = true := by
  have dram : isDram pa = true := (Bool.and_eq_true_iff.mp h).1
  unfold markPage
  split
  next marked => simpa [h] using marked
  next =>
    obtain ⟨mem, -, dev⟩ := keepRecord_keeps (setPagePoison s pa true) (deviceRecord 3#8 (pa / 4096 * 4096) 1)
    rw [pagePoisoned_congr mem dev, pagePoisoned_setPagePoison_true dram]

theorem llcCommitted_poisons (s : State) (line : Nat) : ∃ v, exec (.uncorrectableError (.llcCommitted line)) s = .next v ∧
    line ∈ v.linePoison ∧ (populated s (128 * line) = true → pagePoisoned v (128 * line) = true) := by
  refine ⟨_, rfl, ?_, fun h => ?_⟩
  · rw [poisonLine, markPage_keeps]
    simp [List.mem_eraseDups]
  · rw [Nat.mul_comm] at h ⊢
    exact markPage_marks (s := { s with linePoison := (line :: s.linePoison).eraseDups }) h

section
variable {s : State} {uid line : Nat} {g : Gang} (hg : gang? s uid = some g)
include hg

theorem llcVersion_other (none : line ∉ g.span.ver.map fun p => lineOf p.1) :
    exec (.uncorrectableError (.llcVersion uid line)) s = .next s := by
  have absent : line ∉ verLines g.span := by rwa [verLines, List.mem_eraseDups]
  rw [exec_uncorrectableError, execUncorrectableError, loseVersion, hg]
  simp [absent]

/-- The span whose version is lost restarts at its checkpoint. -/
theorem llcVersion_rollsBack (held : line ∈ g.span.ver.map fun p => lineOf p.1) (pins : g.span.pins = []) (shut : g.span.tx = none) :
    ∃ v k, exec (.uncorrectableError (.llcVersion uid line)) s = .next v ∧ gang? v uid = some k ∧
      k.span.ver = [] ∧ k.regs = g.span.chk.regs ∧ v.mem = s.mem := by
  have present : line ∈ verLines g.span := by rwa [verLines, List.mem_eraseDups]
  obtain ⟨w, sent, fav, e⟩ := rollback_eq hg
  refine ⟨rollback s uid, _, ?_, (stands_rollback hg).eq, ?_, (rolledBack_backAt _ g).regs, ?_⟩
  · rw [exec_uncorrectableError, execUncorrectableError, loseVersion, hg]
    simp [present, shut]
  · unfold rolledBack; rfl
  · rw [e]
    show (dropStoreOps (returnPins s g.span.pins) g.uid).mem = s.mem
    rw [pins, dropStoreOps]
    split <;> rfl

end

theorem localWord_poisons {s : State} {u wg off : Nat} {c : Cohort} {w : Workgroup} (hc : cohort? s u = some c) (hw : c.wgs[wg]? = some w) :
    ∃ v, exec (.uncorrectableError (.localWord u wg off)) s = .next v ∧
      localPoisoned v u wg (off / 4 * 4) 4 = true ∧ ∀ x o, localByte v u x o = localByte s u x o := by
  have kept := localByte_modWg_of_mem (s := s) (c := u) wg (fun w => { w with poison := (off / 4 * 4 :: w.poison).eraseDups }) fun _ => rfl
  refine ⟨_, rfl, ?_, kept⟩
  have poisoned := cohort_modWg_self hc wg fun w => { w with poison := (off / 4 * 4 :: w.poison).eraseDups }
  rw [localPoisoned, poisonWord, poisoned]
  simp [workgroup?, hw, List.mem_eraseDups]

theorem register_poisons {s : State} {uid reg lane : Nat} {g : Gang} (hg : gang? s uid = some g) (hr : reg < g.alloc) (hl : lane < 32) :
    ∃ v k, exec (.uncorrectableError (.register uid reg lane)) s = .next v ∧ OnlyGang s v uid k ∧
      regPoisoned k reg lane = true ∧ { k with regPoison := g.regPoison } = g := by
  have name : ∀ g : Gang, (if reg < g.alloc ∧ lane < 32 then { g with regPoison := ((reg * 32 + lane) :: g.regPoison).eraseDups } else g).uid = g.uid :=
    fun g => by split <;> rfl
  refine ⟨_, _, rfl, onlyGang_modGang hg name, ?_, ?_⟩
  · simp [hr, hl, regPoisoned, List.mem_eraseDups]
  · simp [hr, hl]

end Sys2Proof.Machine
end

section
/-! SUPPORT. A commit between instructions (O56; R62, R68 to R71): the version becomes memory, its lines take one CSN, and gangs without a
conflict stand. -/

namespace Sys2Proof.Machine

/-! ## The bytes of a version, written through their leaves (R68 step 4) -/

/-- The key slot through which a version's byte is written. -/
def verKey (leaves : List (Nat × DWord)) (a : Nat) : Nat := pteKey ((getK (a / 4096) leaves).getD 0)

def writeVersion (s : State) (leaves : List (Nat × DWord)) (ver : List (Nat × Byte)) : State :=
  ver.foldl (fun s p => writeByte s (verKey leaves p.1) p.1 p.2) s

/-- What was written, whether in DRAM under its key pair or outside it. -/
theorem readByte_writeByte_of_dram {s : State} {key pa : Nat} (hk : isDram pa = true → (keyPair s key).isSome) (b : Byte) (a : Nat) :
    readByte (writeByte s key pa b) key a = if a = pa then b else readByte s key a := by
  by_cases dram : isDram pa = true
  · exact readByte_writeByte (hk dram) pa b a
  · by_cases line : lineOf a = lineOf pa
    · have raw : isDram a = false := by rw [isDram_of_lineOf_eq line]; simpa using dram
      have same : enciphered s key pa = s := if_neg dram
      simp only [readByte, raw, Bool.false_eq_true, if_false, memByte_writeByte, same]
    · have away : a ≠ pa := fun e => line (e ▸ rfl)
      rw [(writeByte_lineKept s key pa b line).readByte_eq, if_neg away]

/-- Lines of one page are written through one leaf. -/
theorem verKey_of_lineOf_eq (leaves : List (Nat × DWord)) {a b : Nat} (h : lineOf a = lineOf b) : verKey leaves a = verKey leaves b := by
  have page : a / 4096 = b / 4096 := by unfold lineOf at h; omega
  rw [verKey, verKey, page]

section
variable {leaves : List (Nat × DWord)}

theorem readByte_writeByte_verKey {s : State} {x : Nat} (hk : isDram x = true → (keyPair s (verKey leaves x)).isSome) (b : Byte) (a : Nat) :
    readByte (writeByte s (verKey leaves x) x b) (verKey leaves a) a = if a = x then b else readByte s (verKey leaves a) a := by
  by_cases line : lineOf a = lineOf x
  · rw [verKey_of_lineOf_eq leaves line]
    exact readByte_writeByte_of_dram hk b a
  · have away : a ≠ x := fun e => line (e ▸ rfl)
    rw [(writeByte_lineKept s _ x b line).readByte_eq, if_neg away]

theorem readByte_writeVersion_of_not_mem {s : State} {ver : List (Nat × Byte)}
    (hk : ∀ p ∈ ver, isDram p.1 = true → (keyPair s (verKey leaves p.1)).isSome) {a : Nat} (ha : a ∉ ver.map (·.1)) :
    readByte (writeVersion s leaves ver) (verKey leaves a) a = readByte s (verKey leaves a) a := by
  induction ver generalizing s with
  | nil => rfl
  | cons p ver ih =>
    simp only [List.map_cons, List.mem_cons, not_or] at ha
    obtain ⟨head, tail⟩ := ha
    have first := hk p List.mem_cons_self
    have rest : ∀ q ∈ ver, isDram q.1 = true → (keyPair (writeByte s (verKey leaves p.1) p.1 p.2) (verKey leaves q.1)).isSome :=
      fun q hq dram => by rw [keyPair_writeByte]; exact hk q (List.mem_cons_of_mem _ hq) dram
    rw [writeVersion, List.foldl_cons, ← writeVersion, ih rest tail, readByte_writeByte_verKey first, if_neg head]

/-- Each byte of the version reads as the version holds it. -/
theorem readByte_writeVersion {s : State} {ver : List (Nat × Byte)} (hn : (ver.map (·.1)).Nodup)
    (hk : ∀ p ∈ ver, isDram p.1 = true → (keyPair s (verKey leaves p.1)).isSome) {p : Nat × Byte} (hp : p ∈ ver) :
    readByte (writeVersion s leaves ver) (verKey leaves p.1) p.1 = p.2 := by
  induction ver generalizing s with
  | nil => cases hp
  | cons q ver ih =>
    obtain ⟨fresh, hn'⟩ := List.nodup_cons.mp hn
    have rest : ∀ x ∈ ver, isDram x.1 = true → (keyPair (writeByte s (verKey leaves q.1) q.1 q.2) (verKey leaves x.1)).isSome :=
      fun x hx dram => by rw [keyPair_writeByte]; exact hk x (List.mem_cons_of_mem _ hx) dram
    rw [writeVersion, List.foldl_cons, ← writeVersion]
    rcases List.mem_cons.mp hp with rfl | hp
    · rw [readByte_writeVersion_of_not_mem rest fresh, readByte_writeByte_verKey (hk p List.mem_cons_self), if_pos rfl]
    · exact ih hn' rest hp

theorem writeVersion_lineKept (s : State) {ver : List (Nat × Byte)} {l : Nat} (away : ∀ p ∈ ver, lineOf p.1 ≠ l) :
    LineKept s (writeVersion s leaves ver) l := by
  induction ver generalizing s with
  | nil => exact .refl s l
  | cons p ver ih =>
    rw [writeVersion, List.foldl_cons, ← writeVersion]
    exact (writeByte_lineKept s _ p.1 p.2 (away p List.mem_cons_self).symm).trans (ih _ fun q hq => away q (List.mem_cons_of_mem _ hq))

/-- A version's bytes leave keys, stamps and numbers. -/
theorem writeVersion_frame (s : State) (ver : List (Nat × Byte)) : (writeVersion s leaves ver).keys = s.keys ∧
    (writeVersion s leaves ver).wStamp = s.wStamp ∧ (writeVersion s leaves ver).weirClock = s.weirClock ∧
    (writeVersion s leaves ver).psn = s.psn := by
  induction ver generalizing s with
  | nil => exact ⟨rfl, rfl, rfl, rfl⟩
  | cons p ver ih =>
    have one := writeByte_rest s (verKey leaves p.1) p.1 p.2
    obtain ⟨keys, wStamp, weirClock, psn⟩ := ih (writeByte s (verKey leaves p.1) p.1 p.2)
    rw [writeVersion, List.foldl_cons, ← writeVersion, keys, wStamp, weirClock, psn]
    exact ⟨(congrArg State.keys one :), (congrArg State.wStamp one :), (congrArg State.weirClock one :), (congrArg State.psn one :)⟩

end

/-- The lines of a version, written at their home slices. -/
def storeVersion (s : State) (region : Nat) (leaves : List (Nat × DWord)) (lines : List Nat) : State :=
  lines.foldl (fun s l => llcStore s region l ((getK (lineBase l / 4096) leaves).getD 0)) s

theorem storeVersion_keeps (s : State) (region : Nat) (leaves : List (Nat × DWord)) (lines : List Nat) :
    keepAsks s (storeVersion s region leaves lines) = storeVersion s region leaves lines := by
  induction lines generalizing s with
  | nil => rfl
  | cons l lines ih => exact keepAsks_trans (llcWrite_keeps s region l _ _ _ _) (ih _)

theorem publish_eq (s : State) (region : Nat) (leaves : List (Nat × DWord)) (ver : List (Nat × Byte)) : publish s region leaves ver =
    storeVersion (clearWhole (writeVersion s leaves ver) (ver.map (·.1))) region leaves (ver.map fun p => lineOf p.1).eraseDups := rfl

/-- The state that a version is published in, but for requests. -/
structure Published (s : State) (leaves : List (Nat × DWord)) (ver : List (Nat × Byte)) (t : State) : Prop where
  mem : t.mem = (writeVersion s leaves ver).mem
  lineKey : t.lineKey = (writeVersion s leaves ver).lineKey
  keys : t.keys = s.keys
  wStamp : t.wStamp = s.wStamp
  weirClock : t.weirClock = s.weirClock
  psn : t.psn = s.psn

theorem publish_published (s : State) (region : Nat) (leaves : List (Nat × DWord)) (ver : List (Nat × Byte)) :
    Published s leaves ver (publish s region leaves ver) := by
  obtain ⟨keys, wStamp, weirClock, psn⟩ := writeVersion_frame (leaves := leaves) s ver
  rw [publish_eq, ← storeVersion_keeps]
  exact ⟨rfl, rfl, keys, wStamp, weirClock, psn⟩

/-! ## Numbers (R70) -/

theorem le_maxL {n : Nat} {l : List Nat} (h : n ∈ l) : n ≤ maxL l := by
  have grows : ∀ (l : List Nat) (m : Nat), m ≤ l.foldl max m := by
    intro l
    induction l with
    | nil => exact fun _ => le_refl _
    | cons x l ih => exact fun m => (le_max_left m x).trans (ih _)
  have all : ∀ (l : List Nat) (m : Nat), n ∈ l → n ≤ l.foldl max m := by
    intro l
    induction l with
    | nil => exact fun _ h => nomatch h
    | cons x l ih =>
      intro m h
      rcases List.mem_cons.mp h with rfl | h
      · exact (le_max_right m n).trans (grows l _)
      · exact ih _ h
  exact all l 0 h

theorem csnClock_mkCsn (clock : Nat) {r : Nat} (h : r ≤ 3) : csnClock (mkCsn clock r) = clock := by
  unfold csnClock mkCsn
  omega

theorem foldl_min_le (l : List Nat) (m : Nat) : l.foldl min m ≤ m := by
  induction l generalizing m with
  | nil => exact le_refl _
  | cons x l ih => exact (ih _).trans (min_le_left m x)

theorem csnClock_commitCsn (s : State) (g : Gang) (form : FormBytes) : csnClock (commitCsn s g form) = commitClock s g form :=
  csnClock_mkCsn _ (foldl_min_le _ 3)

theorem readK_stampLines {csn l : Nat} {lines : List Nat} (h : l ∈ lines) (t : List (Nat × Nat)) :
    readK 0 l (lines.foldl (fun t l => setK l csn t) t) = csn := by
  have stays : ∀ (lines : List Nat) (t : List (Nat × Nat)), readK 0 l t = csn → readK 0 l (lines.foldl (fun t l => setK l csn t) t) = csn := by
    intro lines
    induction lines with
    | nil => exact fun _ h => h
    | cons x lines ih =>
      refine fun t ht => ih _ ?_
      by_cases e : l = x
      · simp [readK, e]
      · rwa [readK, getK_setK_ne e]
  induction lines generalizing t with
  | nil => cases h
  | cons x lines ih =>
    rcases List.mem_cons.mp h with rfl | h
    · exact stays lines _ (by simp [readK])
    · exact ih h _

/-! ## What a commit without pins leaves -/

/-- Nothing of the span holds a surface, and there is something to commit. -/
structure BytesOnly (g : Gang) : Prop where
  pins : g.span.pins = []
  moves : g.span.moves = []
  samples : g.span.touched = []
  nonempty : g.span.ver ≠ []

/-- The reaches that a version's lines lie in. -/
def verReaches (g : Gang) : List Nat := ((g.span.ver.map fun p => lineOf p.1).eraseDups.map fun l => reachOf (lineBase l)).eraseDups

theorem spanReaches_of_noPins {g : Gang} (h : g.span.pins = []) : spanReaches g = verReaches g := by
  simp [spanReaches, verReaches, verLines, h]

section
variable {s : State} {g : Gang} (only : BytesOnly g)
include only

theorem reencoded_of_bytesOnly : reencoded s g = (s, []) := by
  rw [reencoded, only.pins, only.moves]
  rfl

omit only in
theorem commitLines_nil (g : Gang) : commitLines g [] = (g.span.ver.map fun p => lineOf p.1).eraseDups := by
  simp [commitLines, commitBytes, Function.comp_def]

theorem verReaches_ne_nil : verReaches g ≠ [] := by
  obtain ⟨p, hp⟩ := List.exists_mem_of_ne_nil _ only.nonempty
  have line : lineOf p.1 ∈ (g.span.ver.map fun p => lineOf p.1).eraseDups := List.mem_eraseDups.mpr (List.mem_map.mpr ⟨p, hp, rfl⟩)
  have reach : reachOf (lineBase (lineOf p.1)) ∈ verReaches g := List.mem_eraseDups.mpr (List.mem_map.mpr ⟨_, line, rfl⟩)
  exact List.ne_nil_of_mem reach

theorem commitWeirs_nil : commitWeirs g [] = verReaches g := by
  have reaches := verReaches_ne_nil only
  rw [verReaches] at reaches
  rw [commitWeirs, commitLines_nil, commitReaches, verReaches]
  split
  next none => exact absurd none reaches
  next => rfl

/-- The committed write is what follows the closed span (R71). -/
theorem commitDone_bytesOnly (code : Nat) : commitDone s g code =
    afterWrites (closed s g code s []) (some g.uid) (g.span.ver.map (·.1)) [] (commitCsn s g []) (gangSrc g) := by
  have bytes : commitBytes g [] = g.span.ver.map (·.1) := by simp [commitBytes]
  have bytesThere : (g.span.ver.map (·.1)).isEmpty = false := by simpa using only.nonempty
  have none : writtenSamples g.span = [] := by simp [writtenSamples, only.samples]
  rw [commitDone, reencoded_of_bytesOnly only]
  simp only [bytes, none, bytesThere, Bool.false_and, Bool.false_eq_true, if_false]

/-- The closed machine, as what was published, its stamps and the gang's closed span (R68 to R70). -/
structure Closed (s : State) (g : Gang) (t : State) : Prop where
  published : Published s g.span.leaves g.span.ver { t with wStamp := s.wStamp, weirClock := s.weirClock, psn := s.psn }
  wStamp : t.wStamp = (commitLines g []).foldl (fun t l => setK l (commitCsn s g []) t) s.wStamp
  weirClock : t.weirClock = (List.range 4).map fun r =>
    if (verReaches g).contains r then max (s.weirClock.getD r 0) (commitClock s g []) else s.weirClock.getD r 0
  psn : t.psn = if 2 ≤ (verReaches g).length then s.psn + 1 else s.psn

theorem closed_keeps (code : Nat) : Closed s g (closed s g code s []) := by
  have out := publish_published s (regionOf s g) g.span.leaves g.span.ver
  unfold closed
  rw [only.pins, published, commitWeirs_nil only]
  refine ⟨⟨out.mem, out.lineKey, out.keys, rfl, rfl, rfl⟩, ?_, ?_, ?_⟩
  · exact congrArg (fun w => (commitLines g []).foldl (fun t l => setK l (commitCsn s g []) t) w) out.wStamp
  · rw [← csnClock_commitCsn s g [], ← out.weirClock]; rfl
  · rw [← out.psn]; rfl

end

/-! ## The commit that is due (R62, R69) -/

section
variable {s : State} {uid : Nat} {g : Gang} (hg : gang? s uid = some g)
include hg

theorem commitOf_none (due : commitDue g = none) (two : Bool) : commitOf two uid s = s := by
  rw [commitOf, hg]
  simp only [due]

theorem commitOf_other {code : Nat} (due : commitDue g = some code) (pins : g.span.pins = []) {two : Bool}
    (reach : two = true ↔ 2 ≤ (verReaches g).length) : commitOf (!two) uid s = s := by
  rw [commitOf, hg]
  simp only [due, spanReaches_of_noPins pins]
  by_cases h : 2 ≤ (verReaches g).length <;> simp [h, reach]

theorem commitOf_due {code : Nat} (due : commitDue g = some code) (pins : g.span.pins = []) {two : Bool}
    (reach : two = true ↔ 2 ≤ (verReaches g).length) : (commitSpan s uid code = .wait → commitOf two uid s = s) ∧
      (∀ t, commitSpan s uid code = .failed t → commitOf two uid s = t) ∧ ∀ t, commitSpan s uid code = .done t → commitOf two uid s = t := by
  have same : (decide (2 ≤ (verReaches g).length) != two) = false := by
    cases two <;> simpa using reach
  rw [commitOf, hg]
  simp only [due, spanReaches_of_noPins pins, same, Bool.false_eq_true, if_false]
  exact ⟨fun e => by rw [e], fun t e => by rw [e], fun t e => by rw [e]⟩

end

/-- A commit that nothing holds up is made (R43, R68, R77). -/
theorem commitSpan_made {s : State} {uid : Nat} {g : Gang} (hg : gang? s uid = some g) (only : BytesOnly g) (begun : g.span.begun = true)
    (stores : accStLines s uid = []) (fresh : staleReads s g.span = []) (sound : staleSignature s g.span = false)
    (free : favourBlocks s (some uid) (g.span.ver.map (·.1)) [] = false) (code : Nat) :
    commitSpan s uid code = .done (commitDone s g code) := by
  have opened : spanOpen g.span = true := by simp [spanOpen, begun]
  have bytes : commitBytes g [] = g.span.ver.map (·.1) := by simp [commitBytes]
  have none : writtenSamples g.span = [] := by simp [writtenSamples, only.samples]
  obtain ⟨favour, walks⟩ := Bool.or_eq_false_iff.mp free
  rw [commitSpan, commitSpanWith_eq hg, reencoded_of_bytesOnly only]
  simp [opened, stores, fresh, sound, bytes, none, favour, walks]

theorem commitClock_gt {s : State} {g : Gang} {form : FormBytes} {n : Nat}
    (h : n ∈ g.floor :: ((commitWeirs g form).map fun r => s.weirClock.getD r 0)
      ++ ((readLines g.span).map fun l => csnClock (readK 0 l s.wStamp))
      ++ (commitLines g form).flatMap fun l => [csnClock (readK 0 l s.wStamp), csnClock (readK 0 l s.rStamp)]) :
    n < commitClock s g form := by
  have top := le_maxL h
  unfold commitClock numberSpan
  omega

theorem commitClock_gt_floor (s : State) (g : Gang) (form : FormBytes) : g.floor < commitClock s g form :=
  commitClock_gt (by simp)

/-- The CSN lies above both old stamps of each line written. -/
theorem commitClock_gt_stamps (s : State) {g : Gang} {form : FormBytes} {l : Nat} (h : l ∈ commitLines g form) :
    csnClock (readK 0 l s.wStamp) < commitClock s g form ∧ csnClock (readK 0 l s.rStamp) < commitClock s g form := by
  have pair : ∀ n, n ∈ [csnClock (readK 0 l s.wStamp), csnClock (readK 0 l s.rStamp)] → n < commitClock s g form := fun n hn =>
    commitClock_gt (List.mem_append_right _ (List.mem_flatMap.mpr ⟨l, h, hn⟩))
  exact ⟨pair _ (by simp), pair _ (by simp)⟩

/-- What a commit makes of the gang, of memory, of the stamps and of other gangs. -/
structure Commits (s : State) (uid : Nat) (g : Gang) (code : Nat) (two : Bool) (v : State) : Prop where
  own : gang? v uid = some (closeSpan g code (commitClock s g []))
  bytes : ∀ p ∈ g.span.ver, readByte v (verKey g.span.leaves p.1) p.1 = p.2
  stamps : ∀ p ∈ g.span.ver, readK 0 (lineOf p.1) v.wStamp = commitCsn s g []
  kept : ∀ a, (∀ p ∈ g.span.ver, lineOf p.1 ≠ lineOf a) → memByte v a = memByte s a
  weirs : ∀ r, r ∈ verReaches g → r < 4 → commitClock s g [] ≤ v.weirClock.getD r 0
  psn : v.psn = s.psn + (if two then 1 else 0)
  others : ∀ a h, a ≠ uid → gang? s a = some h → conflicts h.span (g.span.ver.map (·.1)) [] = [] → h.span.ovf = false →
    gang? v a = some h

theorem commitDone_commits {s : State} {uid : Nat} {g : Gang} (hg : gang? s uid = some g) (free : NoPins s) (only : BytesOnly g)
    (distinct : (g.span.ver.map (·.1)).Nodup)
    (keyed : ∀ p ∈ g.span.ver, isDram p.1 = true → (keyPair s (verKey g.span.leaves p.1)).isSome) (code : Nat) {two : Bool}
    (reach : two = true ↔ 2 ≤ (verReaches g).length) : Commits s uid g code two (commitDone s g code) := by
  have named := gang?_uid hg
  have same := closed_sameGangs s g code (form := []) (.refl s)
  have out := closed_keeps only (s := s) code
  rw [commitDone_bytesOnly only]
  generalize closed s g code s [] = c at same out
  have noPins : NoPins c := by
    have set := (setGang_stands free (g := closeSpan g code (commitClock s g [])) ⟨rfl, rfl⟩).noPins
    rwa [NoPins, same.gangs]
  have stands := afterWrites_stands noPins (some g.uid) (g.span.ver.map (·.1)) [] (commitCsn s g []) (gangSrc g)
  have rest := afterWrites_rest c (writer := some g.uid) (bytes := g.span.ver.map (·.1)) (samples := []) (csn := commitCsn s g [])
    (src := gangSrc g)
  have closedGang : Stands uid (· = closeSpan g code (commitClock s g [])) c :=
    (Stands.setGang (k := closeSpan g code (commitClock s g [])) hg named).congr same.gangs
  have own := closedGang.afterWrites (writer := some g.uid) (bytes := g.span.ver.map (·.1)) (samples := []) (csn := commitCsn s g [])
    (src := gangSrc g) fun _ e => e ▸ (closeSpan_nextSpan g code _).idle
  have others : ∀ a h, a ≠ uid → gang? s a = some h → gang? c a = some h := fun a h other ha => by
    rw [← ha, ← (ActsOn.setGang (g := closeSpan g code (commitClock s g [])) s named).gang_ne other, gang?, gang?, same.gangs]
  have miss : ∀ a h, a ≠ uid → gang? s a = some h → conflicts h.span (g.span.ver.map (·.1)) [] = [] → h.span.ovf = false →
      gang? (afterWrites c (some g.uid) (g.span.ver.map (·.1)) [] (commitCsn s g []) (gangSrc g)) a = some h :=
    fun a h other ha none ovf => gang?_afterWrites noPins (others a h other ha) (by simp [hitBy, none, undecidable, ovf])
  generalize afterWrites c (some g.uid) (g.span.ver.map (·.1)) [] (commitCsn s g []) (gangSrc g) = v at stands rest own miss
  have wStamp : v.wStamp = c.wStamp := (congrArg State.wStamp rest :).symm
  have weirClock : v.weirClock = c.weirClock := (congrArg State.weirClock rest :).symm
  have psn : v.psn = c.psn := (congrArg State.psn rest :).symm
  have memory : ∀ a, memByte v a = memByte (writeVersion s g.span.leaves g.span.ver) a := fun a => by
    rw [memByte, stands.mem, out.published.mem]; rfl
  refine ⟨own.eq, fun p hp => ?_, fun p hp => ?_, fun a away => ?_, fun r hr small => ?_, ?_, miss⟩
  · have keys : v.keys = (writeVersion s g.span.leaves g.span.ver).keys :=
      stands.keys.trans (out.published.keys.trans (writeVersion_frame s g.span.ver).1.symm)
    have lineKey : v.lineKey = (writeVersion s g.span.leaves g.span.ver).lineKey := stands.lineKey.trans out.published.lineKey
    have line : LineKept (writeVersion s g.span.leaves g.span.ver) v (lineOf p.1) := ⟨keys, by rw [lineKey], fun a _ => memory a⟩
    rw [line.readByte_eq, readByte_writeVersion distinct keyed hp]
  · rw [wStamp, out.wStamp]
    exact readK_stampLines (by rw [commitLines_nil]; exact List.mem_eraseDups.mpr (List.mem_map.mpr ⟨p, hp, rfl⟩)) _
  · rw [memory, (writeVersion_lineKept s away).bytes a rfl]
  · rw [weirClock, out.weirClock]
    have inside : (verReaches g).contains r = true := by simpa using hr
    simp [List.getD_eq_getElem?_getD, small, hr]
  · rw [psn, out.psn]
    by_cases h : 2 ≤ (verReaches g).length <;> simp [h, reach]

/-- The instruction of the commit that is due, for one reach or for several. -/
theorem exec_commit (two : Bool) (uid : Nat) (s : State) :
    exec (if two then .twoPhaseCommit uid else .spanCommit uid) s = .next (commitOf two uid s) := by
  cases two <;> rfl

/-- The instruction of the other commit. -/
theorem exec_otherCommit (two : Bool) (uid : Nat) (s : State) :
    exec (if two then .spanCommit uid else .twoPhaseCommit uid) s = .next (commitOf (!two) uid s) := by
  cases two <;> rfl

/-- The first clause of O56 for a commit that is made. -/
theorem commit_made {s : State} {uid code : Nat} {g : Gang} {two : Bool} (hg : gang? s uid = some g) (due : commitDue g = some code)
    (free : NoPins s) (reach : two = true ↔ 2 ≤ (verReaches g).length) (only : BytesOnly g) (begun : g.span.begun = true)
    (distinct : (g.span.ver.map (·.1)).Nodup) (stores : accStLines s uid = []) (fresh : staleReads s g.span = [])
    (sound : staleSignature s g.span = false) (unblocked : favourBlocks s (some uid) (g.span.ver.map (·.1)) [] = false)
    (keyed : ∀ p ∈ g.span.ver, isDram p.1 = true → (keyPair s (verKey g.span.leaves p.1)).isSome) :
    commitOf two uid s = commitDone s g code ∧ Commits s uid g code two (commitDone s g code) :=
  ⟨(commitOf_due hg due only.pins reach).2.2 _ (commitSpan_made hg only begun stores fresh sound unblocked code),
    commitDone_commits hg free only distinct keyed code reach⟩

/-- Settles O56: the commit by what `commitDone` leaves; the other steps each by the equation of its function. -/
theorem betweenInstructions : Obligations.BetweenInstructions := by
  unfold Obligations.BetweenInstructions
  refine ⟨fun s uid g two hg => ⟨fun due => ?_, fun code due free reach => ⟨?_, fun wait => ?_, fun t failed => ?_, ?_⟩⟩,
    fun s => ⟨favourGrant_none, fun before u after free queue not ok => favourGrant_first free queue not ok⟩,
    fun s uid g hg live => ?_, fun s uid n g sl hg alone hn => ?_, fun s core part uid n n' split g rest first hg waits => ?_, fun s uid g hg => ?_,
    fun s => ?_⟩
  · rw [exec_commit, commitOf_none hg due]
  · rw [exec_otherCommit, commitOf_other hg due (free g (gang?_mem hg)).1 reach]
  · rw [exec_commit, (commitOf_due hg due (free g (gang?_mem hg)).1 reach).1 wait]
  · rw [exec_commit, (commitOf_due hg due (free g (gang?_mem hg)).1 reach).2.1 t failed]
  · intro written begun distinct stores fresh sound touched unblocked keyed
    obtain ⟨pins, moves⟩ := free g (gang?_mem hg)
    obtain ⟨performed, out⟩ := commit_made hg due free reach ⟨pins, moves, touched, written⟩ begun distinct stores fresh sound unblocked keyed
    refine ⟨commitDone s g code, _, commitCsn s g [], by rw [exec_commit, performed], out.own, rfl, rfl, rfl, rfl, rfl, rfl,
      commitClock_gt_floor s g [], csnClock_commitCsn s g [], fun p hp => ?_, out.kept, out.weirs, out.psn, out.others⟩
    have line : lineOf p.1 ∈ commitLines g [] := by
      rw [commitLines_nil]; exact List.mem_eraseDups.mpr (List.mem_map.mpr ⟨p, hp, rfl⟩)
    exact ⟨out.bytes p hp, out.stamps p hp, commitClock_gt_stamps s line⟩
  · exact ⟨spanLimit_below hg, fun x limit opened => ⟨spanLimit_quiet hg live limit opened, spanLimit_tx hg live limit opened⟩,
      fun limit shut => spanLimit_commits hg live limit shut⟩
  · refine ⟨fun below => ?_, fun p m r due live free stack runs => ?_⟩
    · rw [exec_pathRotation, execPathRotation, modGang_of_fixed fun h hh e => by rw [alone h hh e]; exact rotateSlice_of_not_due hn below]
    · obtain ⟨x, hx, pc, path, back, rest, regs⟩ := rotateSlice_pending hn due live free stack runs
      exact ⟨_, _, x, by rw [exec_pathRotation, execPathRotation], onlyGang_modGang hg fun g => rotateSlice_uid g n, hx, pc, path, back, rest, regs⟩
  · exact ⟨regsGrowGrant_full first hg waits, regsGrowGrant_fits first hg waits⟩
  · exact ⟨asyncError_none hg, fun t rest core obj split queue nest live resident waits free pending replay usable alone =>
      asyncError_delivers hg queue nest live resident waits free pending replay usable alone⟩
  · exact ⟨l1Line_drops s, dbcBlock_drops s, llcCommitted_poisons s, fun uid line g hg => ⟨llcVersion_other hg, llcVersion_rollsBack hg⟩,
      fun u wg off c w hc hw => localWord_poisons hc hw, fun uid reg lane g hg => register_poisons hg,
      fun core row col => accCell_poisons s, fun core panel slot => wbufColumn_poisons s, fun n => rfl⟩

end Sys2Proof.Machine
end

section
/-! SUPPORT. Atomics, what both forms share (O24; R262, R263): the operations, the gang at its boundary, lanes at one location in
turn, and the registers and floors that the gang keeps. -/

namespace Sys2Proof.Machine

/-! ## The operations (R262) -/

section
variable {w : Nat} (a b : BitVec w)

theorem toInt_minS : (minS a b).toInt = min a.toInt b.toInt := by
  unfold minS
  split <;> omega

theorem toInt_maxS : (maxS a b).toInt = max a.toInt b.toInt := by
  unfold maxS
  split <;> omega

theorem toNat_minU : (minU a b).toNat = min a.toNat b.toNat := by
  unfold minU
  split <;> omega

theorem toNat_maxU : (maxU a b).toNat = max a.toNat b.toNat := by
  unfold maxU
  split <;> omega

end

/-- The bytes that an atomic writes fill its location. -/
theorem atomBytes_length {a : AtomArgs} {g : Gang} {i : Nat} {old bs : List Byte} (h : atomBytes a g i old = some bs) :
    bs.length = atomSize a := by
  unfold atomBytes at h
  unfold atomSize
  dsimp only at h
  split at h
  next dbl =>
    obtain ⟨v, -, rfl⟩ := Option.map_eq_some_iff.mp h
    rw [bytesOf_length, if_pos dbl]
  next dbl =>
    obtain ⟨v, -, rfl⟩ := Option.map_eq_some_iff.mp h
    rw [bytesOf_length, if_neg dbl]

theorem atomSize_cases (a : AtomArgs) : atomSize a = 4 ∨ atomSize a = 8 := by
  unfold atomSize
  split
  · exact .inr rfl
  · exact .inl rfl

/-! ## Lanes at one location in turn -/

/-- One lane's turn: what it reads, what it leaves, and whether the location has been written. -/
def atomTurn (a : AtomArgs) (g : Gang) (z : List (Nat × List Byte) × List Byte × Bool) (j : Nat) : List (Nat × List Byte) × List Byte × Bool :=
  match atomBytes a g j z.2.1 with
  | some bs => (z.1 ++ [(j, z.2.1)], bs, true)
  | none => (z.1 ++ [(j, z.2.1)], z.2.1, z.2.2)

def atomTurns (a : AtomArgs) (g : Gang) (grp : List Nat) (bytes : List Byte) : List (Nat × List Byte) × List Byte × Bool :=
  grp.foldl (atomTurn a g) ([], bytes, false)

theorem atomTurn_none {a : AtomArgs} {g : Gang} {z : List (Nat × List Byte) × List Byte × Bool} {j : Nat} (h : atomBytes a g j z.2.1 = none) :
    atomTurn a g z j = (z.1 ++ [(j, z.2.1)], z.2.1, z.2.2) := by
  rw [atomTurn, h]

theorem atomTurn_some {a : AtomArgs} {g : Gang} {z : List (Nat × List Byte) × List Byte × Bool} {j : Nat} {bs : List Byte}
    (h : atomBytes a g j z.2.1 = some bs) : atomTurn a g z j = (z.1 ++ [(j, z.2.1)], bs, true) := by
  rw [atomTurn, h]

/-! ## The gang at its boundary -/

theorem standBefore_uid (g : Gang) (it : Issue) : (standBefore g it).uid = g.uid := by
  unfold standBefore
  split <;> rfl

theorem standAfter_span (g : Gang) (it : Issue) : (standAfter g it).span = g.span := by
  unfold standAfter
  split <;> rfl

/-- At its boundary the gang is alone under its name, and its span is empty (R62). -/
theorem stands_atBoundary {s t : State} {it : Issue} {g h : Gang} {code : Nat} (b : AtBoundary s it g code t h) :
    Stands it.gang (· = h) t ∧ SpanIdle h.span ∧ h.span.count = 0 := by
  obtain ⟨u, commit, -, rfl⟩ := b.commit
  have before : gang? (setGang s (standBefore g it)) it.gang = some (standBefore g it) :=
    gang?_withGangState b.issues.gang (standBefore_uid g it)
  obtain ⟨k, next, stands⟩ := commitSpan_own before commit
  have after : Stands it.gang (· = standAfter k it) (modGang u it.gang fun k => standAfter k it) :=
    stands.modGang (fun g => standAfter_uid g it) fun _ e => congrArg (standAfter · it) e
  obtain rfl : standAfter k it = h := Option.some.inj (after.eq.symm.trans b.gang)
  rw [standAfter_span]
  exact ⟨after, next.idle, next.count⟩

/-! ## The old values in the registers (R263) -/

/-- The old values of the lanes, loaded into d and up. -/
def takeOlds (d : Reg) (olds : List (Nat × List Byte)) (g : Gang) : Gang := olds.foldl (fun g o => loadInto g d false o.2 o.1) g

theorem takeOlds_rest (d : Reg) (olds : List (Nat × List Byte)) (g : Gang) :
    { takeOlds d olds g with regs := g.regs, regPoison := g.regPoison } = g := by
  induction olds generalizing g with
  | nil => rfl
  | cons o olds ih =>
    have one := putWrites_rest g o.1 (loadWrites d false o.2)
    have rest := ih (loadInto g d false o.2 o.1)
    rw [takeOlds, List.foldl_cons, ← takeOlds]
    rw [loadInto_eq] at rest ⊢
    generalize takeOlds d olds _ = x at rest ⊢
    generalize putWrites g o.1 _ = y at one rest
    cases x; cases y; cases g
    simp_all

theorem takeOlds_uid (d : Reg) (olds : List (Nat × List Byte)) (g : Gang) : (takeOlds d olds g).uid = g.uid := by
  simpa using congrArg Gang.uid (takeOlds_rest d olds g)

/-- Old values as the lanes of an atomic of n bytes leave them: one for each lane, in the lanes' order. -/
structure OldsOf (n : Nat) (ls : List Nat) (olds : List (Nat × List Byte)) : Prop where
  lanes : olds.map (·.1) = ls
  length : ∀ o ∈ olds, o.2.length = n

theorem OldsOf.append {n : Nat} {ls : List Nat} {olds : List (Nat × List Byte)} (h : OldsOf n ls olds) {j : Nat} {old : List Byte}
    (len : old.length = n) : OldsOf n (ls ++ [j]) (olds ++ [(j, old)]) := by
  refine ⟨by rw [List.map_append, h.lanes]; rfl, fun o ho => ?_⟩
  rcases List.mem_append.mp ho with ho | ho
  · exact h.length o ho
  · rw [List.mem_singleton.mp ho]; exact len

section
variable {d : Reg} {n : Nat} (words : 4 ≤ n)
include words

theorem takeOlds_kept {olds : List (Nat × List Byte)} (length : ∀ o ∈ olds, o.2.length = n) (lanes : ∀ o ∈ olds, o.1 < 32) (g : Gang)
    {r i : Nat} (hi : i < 32) (away : ¬(i ∈ olds.map (·.1) ∧ d.toNat ≤ r ∧ r < d.toNat + n / 4)) :
    getReg (takeOlds d olds g) r i = getReg g r i := by
  induction olds generalizing g with
  | nil => rfl
  | cons o olds ih =>
    obtain ⟨len, lengths⟩ := List.forall_mem_cons.mp length
    obtain ⟨lane, lanes'⟩ := List.forall_mem_cons.mp lanes
    have rest : ¬(i ∈ olds.map (·.1) ∧ d.toNat ≤ r ∧ r < d.toNat + n / 4) := fun c => away ⟨List.mem_cons_of_mem _ c.1, c.2⟩
    rw [takeOlds, List.foldl_cons, ← takeOlds, ih lengths lanes' _ rest, loadInto_eq]
    refine (putWrites_kept g o.1 lane _ r i hi fun c => away ⟨?_, ?_⟩).1
    · rw [c.1]; exact List.mem_cons_self
    · have range := loadWrites_range (le_of_eq len) c.2
      omega

/-- Each lane's old value stands in its registers, word by word. -/
theorem takeOlds_taken {olds : List (Nat × List Byte)} (length : ∀ o ∈ olds, o.2.length = n) (lanes : ∀ o ∈ olds, o.1 < 32)
    (distinct : (olds.map (·.1)).Nodup) (g : Gang) {p : Nat × List Byte} (hp : p ∈ olds) {q : Nat} (hq : q < n / 4) :
    getReg (takeOlds d olds g) (d.toNat + q) p.1 = BitVec.ofNat 32 (natOfBytes ((p.2.drop (4 * q)).take 4)) := by
  induction olds generalizing g with
  | nil => cases hp
  | cons o olds ih =>
    obtain ⟨len, lengths⟩ := List.forall_mem_cons.mp length
    obtain ⟨lane, lanes'⟩ := List.forall_mem_cons.mp lanes
    obtain ⟨fresh, distinct'⟩ := List.nodup_cons.mp distinct
    rw [takeOlds, List.foldl_cons, ← takeOlds]
    rcases List.mem_cons.mp hp with rfl | hp
    · rw [takeOlds_kept words lengths lanes' _ lane fun c => fresh c.1]
      exact (loadInto_values g d false p.2 lane).2 q (by omega)
    · exact ih lengths lanes' distinct' _ hp

end

/-! ## The ordering of the gang (R91, R92, R263) -/

/-- What ordering keeps of a gang, and that no floor falls. -/
structure Orders (k k' : Gang) : Prop where
  regs : k'.regs = k.regs
  lanes : k'.live = k.live ∧ k'.launchMask = k.launchMask
  uid : k'.uid = k.uid
  floor : k.floor ≤ k'.floor

/-- An atomic's ordering effects on its gang, the state standing at `now`. -/
def orderedGang (x : AtomArgs) (now : Nat) (wrote : Bool) (stamp : Nat) (g : Gang) : Gang :=
  let g := if atomReleases x && wrote then { g with relFloor := g.floor } else g
  if atomAcquires x then
    let g := { g with floor := max g.floor stamp }
    if scopeWide x.scope then { g with acq := now } else g
  else if x.ord == .relaxed then { g with pendFloor := max g.pendFloor stamp } else g

theorem orderedGang_orders (x : AtomArgs) (now : Nat) (wrote : Bool) (stamp : Nat) (g : Gang) : Orders g (orderedGang x now wrote stamp g) := by
  unfold orderedGang
  extract_lets h h'
  have first : Orders g h := by
    unfold h
    split <;> exact ⟨rfl, ⟨rfl, rfl⟩, rfl, le_refl _⟩
  have same : ∀ k, k.regs = h.regs → k.live = h.live → k.launchMask = h.launchMask → k.uid = h.uid → h.floor ≤ k.floor → Orders g k :=
    fun k regs live launch uid floor => ⟨regs.trans first.regs, ⟨live.trans first.lanes.1, launch.trans first.lanes.2⟩, uid.trans first.uid,
      first.floor.trans floor⟩
  split
  · split <;> exact same _ rfl rfl rfl rfl (le_max_left _ _)
  · split <;> exact same _ rfl rfl rfl rfl (le_refl _)

/-- A release that wrote raises the release floor to the floor (R92). -/
theorem orderedGang_relFloor {x : AtomArgs} (releases : atomReleases x = true) (now stamp : Nat) (g : Gang) :
    (orderedGang x now true stamp g).relFloor = g.floor := by
  unfold orderedGang
  simp only [releases, Bool.and_self, if_true]
  split
  · split <;> rfl
  · split <;> rfl

theorem atomOrder_eq (s : State) (u : Nat) (x : AtomArgs) (acc : AtomAcc) :
    atomOrder s u x acc = modGang s u (orderedGang x s.now acc.wrote acc.stamp) := by
  have twice : ∀ (t : State) (f f' : Gang → Gang), (∀ g, (f g).uid = g.uid) → modGang (modGang t u f) u f' = modGang t u fun g => f' (f g) :=
    fun t f f' name => modGang_modGang t u f f' name
  unfold atomOrder orderedGang acquireEvent raiseFloor moveAcquire raisePending releaseEvent
  by_cases released : (atomReleases x && acc.wrote) = true
  · by_cases acquired : atomAcquires x = true
    · by_cases wide : scopeWide x.scope = true <;> simp [released, acquired, wide, twice]
    · by_cases relaxed : x.ord = .relaxed <;> simp [released, acquired, relaxed, twice]
  · by_cases acquired : atomAcquires x = true
    · by_cases wide : scopeWide x.scope = true <;> simp [released, acquired, wide, twice]
    · by_cases relaxed : x.ord = .relaxed <;> simp [released, acquired, relaxed, modGang_id]

/-! ## The gang after the atomic -/

/-- The gang with its old values taken, ordered, at the start of its next span. -/
def atomDone (x : AtomArgs) (now : Nat) (acc : AtomAcc) (h : Gang) : Gang :=
  fresh (orderedGang x now acc.wrote acc.stamp (takeOlds x.d acc.olds h))

section
variable {x : AtomArgs} {now : Nat} {acc : AtomAcc} {h : Gang}

theorem atomDone_getReg (r i : Nat) : getReg (atomDone x now acc h) r i = getReg (takeOlds x.d acc.olds h) r i := by
  have same := (orderedGang_orders x now acc.wrote acc.stamp (takeOlds x.d acc.olds h)).regs
  rw [getReg, getReg, ← same]
  rfl

theorem atomDone_alive (alive : h.live &&& h.launchMask ≠ 0#32) :
    (atomDone x now acc h).live &&& (atomDone x now acc h).launchMask ≠ 0#32 := by
  obtain ⟨live, launch⟩ := (orderedGang_orders x now acc.wrote acc.stamp (takeOlds x.d acc.olds h)).lanes
  have taken := takeOlds_rest x.d acc.olds h
  have live' : (takeOlds x.d acc.olds h).live = h.live := by simpa using congrArg Gang.live taken
  have launch' : (takeOlds x.d acc.olds h).launchMask = h.launchMask := by simpa using congrArg Gang.launchMask taken
  rw [live'] at live
  rw [launch'] at launch
  rw [atomDone, fresh]
  dsimp only
  rwa [live, launch]

theorem takeOlds_floor : (takeOlds x.d acc.olds h).floor = h.floor := by
  simpa using congrArg Gang.floor (takeOlds_rest x.d acc.olds h)

theorem atomDone_floor : h.floor ≤ (atomDone x now acc h).floor := by
  have rises := (orderedGang_orders x now acc.wrote acc.stamp (takeOlds x.d acc.olds h)).floor
  rwa [takeOlds_floor] at rises

theorem atomDone_relFloor (releases : atomReleases x = true) (wrote : acc.wrote = true) : (atomDone x now acc h).relFloor = h.floor := by
  have raised := orderedGang_relFloor releases now acc.stamp (takeOlds x.d acc.olds h)
  rw [takeOlds_floor] at raised
  rw [atomDone, wrote]
  exact raised

/-- The last steps of both forms change their gang alone. -/
theorem atomLast_eq (s : State) (u : Nat) :
    freshSpan (atomOrder s u x acc) u = modGang s u fun g => fresh (orderedGang x s.now acc.wrote acc.stamp g) := by
  rw [atomOrder_eq, freshSpan, modGang_modGang _ _ _ _ fun g => (orderedGang_orders x s.now acc.wrote acc.stamp g).uid]
  rfl

/-- The registers of the lanes, as O24 says them: `dest` and `taken`. -/
theorem atomDone_registers {ls : List Nat} (olds : OldsOf (atomSize x) ls acc.olds) (low : ∀ i ∈ ls, i < 32) (distinct : ls.Nodup) :
    (∀ r i, i < 32 → ¬(i ∈ ls ∧ x.d.toNat ≤ r ∧ r < x.d.toNat + atomSize x / 4) → getReg (atomDone x now acc h) r i = getReg h r i) ∧
      ∀ p ∈ acc.olds, ∀ q, q < atomSize x / 4 →
        getReg (atomDone x now acc h) (x.d.toNat + q) p.1 = BitVec.ofNat 32 (natOfBytes ((p.2.drop (4 * q)).take 4)) := by
  have words : 4 ≤ atomSize x := by rcases atomSize_cases x with e | e <;> omega
  have lanes : ∀ o ∈ acc.olds, o.1 < 32 := fun o ho => low _ (olds.lanes ▸ List.mem_map_of_mem ho)
  refine ⟨fun r i hi away => ?_, fun p hp q hq => ?_⟩
  · rw [atomDone_getReg, takeOlds_kept words olds.length lanes h hi (by rwa [olds.lanes])]
  · rw [atomDone_getReg, takeOlds_taken words olds.length lanes (by rwa [olds.lanes]) h hp hq]

end

end Sys2Proof.Machine
end

section
/-! SUPPORT. ATOM (O24; R41, R70, R262): the lanes at their home slices, one after the other. -/

namespace Sys2Proof.Machine

/-! ## Bytes of one location -/

/-- The n bytes from pa lie in one line. -/
def InLine (n pa : Nat) : Prop := ∀ q, q < n → lineOf (pa + q) = lineOf pa

theorem inLine_of_aligned {a : AtomArgs} {pa : Nat} (h : pa % atomSize a = 0) : InLine (atomSize a) pa := by
  intro q hq
  unfold lineOf
  rcases atomSize_cases a with e | e <;> rw [e] at h hq <;> omega

/-- A translated address stands in the frame of its leaf, at the offset of the virtual one (R14). -/
theorem pa_of_checkAccess {s : State} {ctx region : Nat} {need : Need} {va : DWord} {x : Xlat}
    (h : checkAccess s ctx region need va = .ok x) : ∃ e level, x.pa = pteFrame e + va.toNat % 2 ^ pageBits level (ptePS e) := by
  unfold checkAccess at h
  split at h
  · cases h
  · split at h
    · cases h
    · split at h
      · cases h
      next level entry e _ =>
        refine ⟨e, level, ?_⟩
        dsimp only at h
        split_ifs at h
        cases h
        rfl

/-- An access that passes its checks is aligned in physical memory as its address is (R19, R254). -/
theorem aligned_of_laneCheck {s : State} {g : Gang} {need : Need} {a : AtomArgs} {va : DWord} {x : Xlat}
    (h : laneCheck s g need (atomSize a) va = .ok x) : x.pa % atomSize a = 0 := by
  unfold laneCheck at h
  split at h
  · cases h
  next aligned =>
    split at h
    next x' passed =>
      obtain rfl := LaneRes.ok.inj h
      obtain ⟨e, level, pa⟩ := pa_of_checkAccess passed
      have page : 4096 ∣ 2 ^ pageBits level (ptePS e) := by
        unfold pageBits
        split
        · exact Nat.pow_dvd_pow 2 (by decide : 12 ≤ 30)
        · exact Nat.pow_dvd_pow 2 (by decide : 12 ≤ 21)
        · split
          · exact Nat.pow_dvd_pow 2 (by decide : 12 ≤ 16)
          · exact dvd_refl _
      have fits : atomSize a ∣ 4096 := by rcases atomSize_cases a with e | e <;> rw [e] <;> decide
      have frame : atomSize a ∣ pteFrame e := fits.trans (Nat.dvd_of_mod_eq_zero (pteFrame_aligned e))
      have offset : atomSize a ∣ va.toNat % 2 ^ pageBits level (ptePS e) :=
        (Nat.dvd_mod_iff (fits.trans page)).mpr (Nat.dvd_of_mod_eq_zero (not_not.mp aligned))
      rw [pa]
      exact Nat.mod_eq_zero_of_dvd (Nat.dvd_add frame offset)
    · cases h
    · unfold ownRes at h
      split at h <;> cases h

theorem LineKept.of_memory {s t : State} (mem : t.mem = s.mem) (lineKey : t.lineKey = s.lineKey) (keys : t.keys = s.keys) (l : Nat) :
    LineKept s t l := ⟨keys, by rw [lineKey], fun a _ => by simp only [memByte, mem]⟩

theorem MemoryStands.lineKept {s t : State} (h : MemoryStands s t) (l : Nat) : LineKept s t l := .of_memory h.mem h.lineKey h.keys l

theorem LineKept.readBytes_eq {s t : State} {n pa : Nat} (place : InLine n pa) (h : LineKept s t (lineOf pa)) (key : Nat) :
    readBytes t key pa n = readBytes s key pa n := by
  unfold readBytes
  refine List.map_congr_left fun q hq => ?_
  have line := place q (List.mem_range.mp hq)
  exact LineKept.readByte_eq (line ▸ h) key

/-! ## The A and D bits, and the caches of the core (R24, R41) -/

/-- Bytes of the entry through which an access was translated lie in no line l. -/
def EntryAway (x : Xlat) (l : Nat) : Prop := ∀ e, x.entry ≤ e ∧ e < x.entry + 8 → lineOf e ≠ l

theorem setAD_frame (s : State) (x : Xlat) (w : Bool) : (setAD s x w).gangs = s.gangs ∧ (setAD s x w).relStamp = s.relStamp ∧
    (setAD s x w).keys = s.keys ∧ (setAD s x w).lineKey = s.lineKey := by
  have noted : (notePage s x).gangs = s.gangs ∧ (notePage s x).relStamp = s.relStamp ∧ (notePage s x).keys = s.keys ∧
      (notePage s x).lineKey = s.lineKey := by
    unfold notePage
    split <;> exact ⟨rfl, rfl, rfl, rfl⟩
  rcases setAD_cases s x w with e | ⟨v, e⟩
  · rwa [e]
  · rw [e]
    exact noted

theorem setAD_lineKept (s : State) {x : Xlat} (w : Bool) {l : Nat} (away : EntryAway x l) : LineKept s (setAD s x w) l := by
  obtain ⟨-, -, keys, lineKey⟩ := setAD_frame s x w
  have touched : Touches 0 (fun a => x.entry ≤ a ∧ a < x.entry + 8) (fun _ _ => True) s (setAD s x w) :=
    .setAD (fun _ => trivial) s x w fun _ h => h
  exact ⟨keys, by rw [lineKey], fun a ha => touched.mem a fun inside => away a inside ha⟩

/-- The home slice as a lane finds it: its entry's bits set, the line out of the core's caches. -/
def atHome (g : Gang) (s : State) (x : Xlat) : State := cleanUp (setAD s x true) g.core [lineOf x.pa]

theorem atHome_frame (g : Gang) (s : State) (x : Xlat) : (atHome g s x).gangs = s.gangs ∧ (atHome g s x).relStamp = s.relStamp ∧
    (atHome g s x).keys = s.keys := by
  obtain ⟨gangs, stamps, keys, -⟩ := setAD_frame s x true
  exact ⟨gangs, stamps, keys⟩

theorem atHome_lineKept (g : Gang) (s : State) {x : Xlat} {l : Nat} (away : EntryAway x l) : LineKept s (atHome g s x) l :=
  have cleaned : LineKept (setAD s x true) (atHome g s x) l := ⟨rfl, rfl, fun _ _ => rfl⟩
  (setAD_lineKept s true away).trans cleaned

/-! ## A write at its home slice (R41, R70, R71) -/

/-- The machine with the bytes written, before the write meets other spans. -/
def homeWritten (s : State) (core : Nat) (x : Xlat) (bs : List Byte) : State :=
  clearWhole (writeBytes (cleanUp s core [lineOf x.pa]) (pteKey x.pte) x.pa bs) ((List.range bs.length).map (x.pa + ·))

theorem homeWrite_eq (s : State) (core : Nat) (writer : Option Nat) (x : Xlat) (bs : List Byte) (stamp : Nat) (src : Word) :
    homeWrite s (some core) writer x bs stamp src =
      afterWrites (homeWritten s core x bs) writer ((List.range bs.length).map (x.pa + ·)) [] (boundaryCsn stamp x.pa) src := rfl

theorem homeWritten_frame (s : State) (core : Nat) (x : Xlat) (bs : List Byte) : (homeWritten s core x bs).gangs = s.gangs ∧
    (homeWritten s core x bs).relStamp = s.relStamp ∧ (homeWritten s core x bs).keys = s.keys := by
  have rest := writeBytes_rest (cleanUp s core [lineOf x.pa]) (pteKey x.pte) x.pa bs
  exact ⟨(congrArg State.gangs rest :), (congrArg State.relStamp rest :), (congrArg State.keys rest :)⟩

theorem homeWritten_lineKept (s : State) (core : Nat) {x : Xlat} {bs : List Byte} {l : Nat} (place : InLine bs.length x.pa)
    (away : lineOf x.pa ≠ l) : LineKept s (homeWritten s core x bs) l := by
  have written : LineKept (cleanUp s core [lineOf x.pa]) (writeBytes (cleanUp s core [lineOf x.pa]) (pteKey x.pte) x.pa bs) l :=
    writeBytes_lineKept _ _ _ _ fun j hj => by rw [place j hj]; exact away
  have cleaned : LineKept s (cleanUp s core [lineOf x.pa]) l := ⟨rfl, rfl, fun _ _ => rfl⟩
  have whole : LineKept (writeBytes (cleanUp s core [lineOf x.pa]) (pteKey x.pte) x.pa bs) (homeWritten s core x bs) l :=
    ⟨rfl, rfl, fun _ _ => rfl⟩
  exact cleaned.trans (written.trans whole)

theorem readBytes_homeWritten {s : State} (core : Nat) {x : Xlat} (hk : (keyPair s (pteKey x.pte)).isSome) (bs : List Byte) :
    readBytes (homeWritten s core x bs) (pteKey x.pte) x.pa bs.length = bs :=
  readBytes_writeBytes (s := cleanUp s core [lineOf x.pa]) hk x.pa bs

section
variable {s : State} {core : Nat} {writer : Option Nat} {x : Xlat} {bs : List Byte} {stamp : Nat} {src : Word}

theorem homeWrite_stands {u : Nat} {P : Gang → Prop} (h : Stands u P s) (idle : ∀ g, P g → SpanIdle g.span) :
    Stands u P (homeWrite s (some core) writer x bs stamp src) := by
  rw [homeWrite_eq]
  exact (h.congr (homeWritten_frame s core x bs).1).afterWrites idle

theorem homeWrite_relStamp : (homeWrite s (some core) writer x bs stamp src).relStamp = s.relStamp := by
  rw [homeWrite_eq]
  have rest := afterWrites_rest (homeWritten s core x bs) (writer := writer) (bytes := (List.range bs.length).map (x.pa + ·)) (samples := [])
    (csn := boundaryCsn stamp x.pa) (src := src)
  exact (congrArg State.relStamp rest :).symm.trans (homeWritten_frame s core x bs).2.1

/-- Beside victims' gangs, what follows a home write leaves the written memory. -/
theorem homeWrite_memory (pins : NoPins s) : MemoryStands (homeWritten s core x bs) (homeWrite s (some core) writer x bs stamp src) := by
  have free : NoPins (homeWritten s core x bs) := by
    rwa [NoPins, (homeWritten_frame s core x bs).1]
  rw [homeWrite_eq]
  exact afterWrites_stands free _ _ _ _ _

end

/-! ## One lane -/

/-- A lane's write: the release stamps of its bytes, then the bytes (R70). -/
def atomWrite (u : Nat) (a : AtomArgs) (g : Gang) (s : State) (x : Xlat) (bs : List Byte) : State :=
  let s := { s with relStamp := rmwStamps a g x.pa (atomSize a) s.relStamp }
  homeWrite s (some g.core) (some u) x bs (readK 0 x.pa s.relStamp) (gangSrc g)

/-- What a lane reads at its home slice. -/
def atomOld (a : AtomArgs) (g : Gang) (s : State) (x : Xlat) : List Byte := readBytes (atHome g s x) (pteKey x.pte) x.pa (atomSize a)

theorem atomOld_length (a : AtomArgs) (g : Gang) (s : State) (x : Xlat) : (atomOld a g s x).length = atomSize a := by simp [atomOld, readBytes]

section
variable {u : Nat} {a : AtomArgs} {g : Gang} {acc : AtomAcc} {o : Nat × DWord × Xlat}

theorem atomLane_none (h : atomBytes a g o.1 (atomOld a g acc.s o.2.2) = none) :
    (atomLane u a g acc o).s = atHome g acc.s o.2.2 ∧ (atomLane u a g acc o).olds = acc.olds ++ [(o.1, atomOld a g acc.s o.2.2)] ∧
      (atomLane u a g acc o).wrote = acc.wrote := by
  unfold atomOld atHome at h
  unfold atomLane homeBytes
  dsimp only
  rw [h]
  exact ⟨rfl, rfl, rfl⟩

theorem atomLane_some {bs : List Byte} (h : atomBytes a g o.1 (atomOld a g acc.s o.2.2) = some bs) :
    (atomLane u a g acc o).s = atomWrite u a g (atHome g acc.s o.2.2) o.2.2 bs ∧
      (atomLane u a g acc o).olds = acc.olds ++ [(o.1, atomOld a g acc.s o.2.2)] ∧ (atomLane u a g acc o).wrote = true := by
  unfold atomOld atHome at h
  unfold atomLane homeBytes
  dsimp only
  rw [h]
  exact ⟨rfl, rfl, rfl⟩

theorem atomLane_olds : (atomLane u a g acc o).olds = acc.olds ++ [(o.1, atomOld a g acc.s o.2.2)] := by
  cases h : atomBytes a g o.1 (atomOld a g acc.s o.2.2) with
  | none => exact (atomLane_none h).2.1
  | some bs => exact (atomLane_some h).2.1

end

/-! ## Release stamps (R70) -/

theorem readK_rmwStamps (a : AtomArgs) (g : Gang) (pa n : Nat) (l : List (Nat × Nat)) (b : Nat) : readK 0 b (rmwStamps a g pa n l) =
    if pa ≤ b ∧ b < pa + n then max (readK 0 b l) (atomStamp a g) else readK 0 b l := by
  unfold rmwStamps
  induction n generalizing b with
  | zero => simp
  | succ n ih =>
    rw [List.range_succ, List.foldl_append, List.foldl_cons, List.foldl_nil, readK_putK, ih, ih, if_neg (by omega : ¬(pa ≤ pa + n ∧ pa + n < pa + n))]
    by_cases last : b = pa + n
    · subst last
      rw [if_pos rfl, if_pos (by omega), rmwStamp]
    · have same : (pa ≤ b ∧ b < pa + n) ↔ (pa ≤ b ∧ b < pa + (n + 1)) := by omega
      simp only [if_neg last, same]

/-! ## What one lane leaves -/

section
variable {u : Nat} {a : AtomArgs} {g : Gang} {acc : AtomAcc} {o : Nat × DWord × Xlat}

/-- A property of states that both steps of a lane keep. -/
theorem atomLane_keeps {Q : State → Prop} (home : Q (atHome g acc.s o.2.2))
    (write : ∀ bs, bs.length = atomSize a → Q (atHome g acc.s o.2.2) → Q (atomWrite u a g (atHome g acc.s o.2.2) o.2.2 bs)) :
    Q (atomLane u a g acc o).s := by
  cases h : atomBytes a g o.1 (atomOld a g acc.s o.2.2) with
  | none => rwa [(atomLane_none h).1]
  | some bs =>
    rw [(atomLane_some h).1]
    exact write bs (atomBytes_length h) home

theorem atomLane_stands {P : Gang → Prop} {w : Nat} (h : Stands w P acc.s) (idle : ∀ g, P g → SpanIdle g.span) :
    Stands w P (atomLane u a g acc o).s :=
  atomLane_keeps (Q := Stands w P) (h.congr (atHome_frame g acc.s o.2.2).1) fun _ _ home =>
    homeWrite_stands (home.congr rfl) idle

/-- Memory, keys and pins while lanes are performed. -/
structure Steady (s t : State) : Prop where
  pins : NoPins t
  keys : t.keys = s.keys

theorem atomWrite_memory {s : State} {x : Xlat} {bs : List Byte} (pins : NoPins s) :
    MemoryStands (homeWritten { s with relStamp := rmwStamps a g x.pa (atomSize a) s.relStamp } g.core x bs) (atomWrite u a g s x bs) :=
  homeWrite_memory (s := { s with relStamp := rmwStamps a g x.pa (atomSize a) s.relStamp }) pins

theorem atomLane_steady {s : State} (h : Steady s acc.s) : Steady s (atomLane u a g acc o).s := by
  obtain ⟨gangs, -, keys⟩ := atHome_frame g acc.s o.2.2
  refine atomLane_keeps (Q := Steady s) ⟨?_, keys.trans h.keys⟩ fun bs _ home => ?_
  · rw [NoPins, gangs]; exact h.pins
  · have memory := atomWrite_memory (u := u) (a := a) (g := g) (x := o.2.2) (bs := bs) home.pins
    exact ⟨memory.noPins, memory.keys.trans ((homeWritten_frame _ _ _ _).2.2.trans home.keys)⟩

theorem atomLane_lineKept {l : Nat} (pins : NoPins acc.s) (place : InLine (atomSize a) o.2.2.pa) (entry : EntryAway o.2.2 l)
    (away : lineOf o.2.2.pa ≠ l) : LineKept acc.s (atomLane u a g acc o).s l := by
  have free : NoPins (atHome g acc.s o.2.2) := by rwa [NoPins, (atHome_frame g acc.s o.2.2).1]
  refine atomLane_keeps (Q := fun t => LineKept acc.s t l) (atHome_lineKept g acc.s entry) fun bs len home => ?_
  have stamped : LineKept (atHome g acc.s o.2.2)
      { atHome g acc.s o.2.2 with relStamp := rmwStamps a g o.2.2.pa (atomSize a) (atHome g acc.s o.2.2).relStamp } l :=
    ⟨rfl, rfl, fun _ _ => rfl⟩
  exact home.trans (stamped.trans ((homeWritten_lineKept _ g.core (len ▸ place) away).trans ((atomWrite_memory free).lineKept l)))

theorem atomWrite_relStamp {s : State} {x : Xlat} {bs : List Byte} (b : Nat) : readK 0 b (atomWrite u a g s x bs).relStamp =
    if x.pa ≤ b ∧ b < x.pa + atomSize a then max (readK 0 b s.relStamp) (atomStamp a g) else readK 0 b s.relStamp := by
  rw [atomWrite, homeWrite_relStamp, readK_rmwStamps]

theorem atomLane_relStamp {b : Nat} (away : ¬(o.2.2.pa ≤ b ∧ b < o.2.2.pa + atomSize a)) :
    readK 0 b (atomLane u a g acc o).s.relStamp = readK 0 b acc.s.relStamp := by
  have home : (atHome g acc.s o.2.2).relStamp = acc.s.relStamp := (atHome_frame g acc.s o.2.2).2.1
  refine atomLane_keeps (Q := fun t => readK 0 b t.relStamp = readK 0 b acc.s.relStamp) (by rw [home]) fun bs _ _ => ?_
  rw [atomWrite_relStamp, if_neg away, home]

end

/-! ## A location, lane by lane -/

/-- A location x while lanes are performed from s on: z is what the lanes there have made of it. -/
structure PlaceAt (s : State) (a : AtomArgs) (g : Gang) (x : Xlat) (z : List (Nat × List Byte) × List Byte × Bool) (acc : AtomAcc) : Prop where
  steady : Steady s acc.s
  bytes : readBytes acc.s (pteKey x.pte) x.pa (atomSize a) = z.2.1
  olds : ∀ p ∈ z.1, p ∈ acc.olds
  wrote : z.2.2 = true → acc.wrote = true
  stamps : ∀ q, q < atomSize a → readK 0 (x.pa + q) acc.s.relStamp =
    if z.2.2 then max (readK 0 (x.pa + q) s.relStamp) (atomStamp a g) else readK 0 (x.pa + q) s.relStamp

section
variable {s : State} {u : Nat} {a : AtomArgs} {g : Gang} {x : Xlat} {z : List (Nat × List Byte) × List Byte × Bool} {acc : AtomAcc}
  (h : PlaceAt s a g x z acc) (place : InLine (atomSize a) x.pa) (entry : EntryAway x (lineOf x.pa))
include h place

include entry in
/-- The next lane at the location takes its turn. -/
theorem PlaceAt.turn (keyed : (keyPair s (pteKey x.pte)).isSome) (j : Nat) (va : DWord) :
    PlaceAt s a g x (atomTurn a g z j) (atomLane u a g acc (j, va, x)) := by
  have kept := atHome_lineKept g acc.s entry
  have read : atomOld a g acc.s x = z.2.1 := (kept.readBytes_eq place _).trans h.bytes
  have steady : Steady s (atomLane u a g acc (j, va, x)).s := atomLane_steady h.steady
  obtain ⟨gangs, stamps, keys⟩ := atHome_frame g acc.s x
  have grown : ∀ p ∈ z.1 ++ [(j, z.2.1)], p ∈ (atomLane u a g acc (j, va, x)).olds := fun p hp => by
    rw [atomLane_olds, read]
    rcases List.mem_append.mp hp with hp | hp
    · exact List.mem_append_left _ (h.olds p hp)
    · exact List.mem_append_right _ hp
  cases e : atomBytes a g j z.2.1 with
  | none =>
    have e' : atomBytes a g j (atomOld a g acc.s x) = none := by rw [read]; exact e
    obtain ⟨state, -, wrote⟩ := atomLane_none (u := u) (o := (j, va, x)) e'
    rw [atomTurn_none e]
    refine ⟨steady, ?_, grown, fun w => wrote.trans (h.wrote w), fun q hq => ?_⟩
    · rw [state]; exact (kept.readBytes_eq place _).trans h.bytes
    · rw [state, stamps]; exact h.stamps q hq
  | some bs =>
    have e' : atomBytes a g j (atomOld a g acc.s x) = some bs := by rw [read]; exact e
    obtain ⟨state, -, wrote⟩ := atomLane_some (u := u) (o := (j, va, x)) e'
    have len := atomBytes_length e
    have free : NoPins (atHome g acc.s x) := by rw [NoPins, gangs]; exact h.steady.pins
    rw [atomTurn_some e]
    refine ⟨steady, ?_, grown, fun _ => wrote, fun q hq => ?_⟩
    · have keyed' : (keyPair { atHome g acc.s x with relStamp := rmwStamps a g x.pa (atomSize a) (atHome g acc.s x).relStamp }
          (pteKey x.pte)).isSome := by
        rw [keyPair] at keyed ⊢
        show (getK (pteKey x.pte) (atHome g acc.s x).keys).isSome
        rwa [keys, h.steady.keys]
      have written := readBytes_homeWritten g.core keyed' bs
      rw [len] at written
      rw [state, ((atomWrite_memory free).lineKept _).readBytes_eq place]
      exact written
    · have inside : x.pa ≤ x.pa + q ∧ x.pa + q < x.pa + atomSize a := by omega
      rw [state, atomWrite_relStamp, if_pos inside, stamps, h.stamps q hq, if_pos rfl]
      cases z.2.2 <;> simp

/-- A lane in another line leaves the location. -/
theorem PlaceAt.other {o : Nat × DWord × Xlat} (place' : InLine (atomSize a) o.2.2.pa) (entry : EntryAway o.2.2 (lineOf x.pa))
    (away : lineOf o.2.2.pa ≠ lineOf x.pa) : PlaceAt s a g x z (atomLane u a g acc o) := by
  have kept : LineKept acc.s (atomLane u a g acc o).s (lineOf x.pa) := atomLane_lineKept h.steady.pins place' entry away
  refine ⟨atomLane_steady h.steady, (kept.readBytes_eq place _).trans h.bytes, fun p hp => ?_, fun w => ?_, fun q hq => ?_⟩
  · rw [atomLane_olds]
    exact List.mem_append_left _ (h.olds p hp)
  · cases e : atomBytes a g o.1 (atomOld a g acc.s o.2.2) with
    | none => exact (atomLane_none e).2.2.trans (h.wrote w)
    | some bs => exact (atomLane_some e).2.2
  · rw [atomLane_relStamp ?_]
    · exact h.stamps q hq
    · intro inside
      have mine := place q hq
      have theirs := place' (x.pa + q - o.2.2.pa) (by omega)
      rw [Nat.add_sub_cancel' inside.1] at theirs
      exact away (theirs.symm.trans mine)

end

/-! ## All lanes -/

section
variable {s : State} {u : Nat} {a : AtomArgs} {g : Gang} {x : Nat → Xlat} {va : Nat → DWord}

/-- The lanes of the access, with their addresses and translations. -/
def atomLanes (va : Nat → DWord) (x : Nat → Xlat) (ls : List Nat) : List (Nat × DWord × Xlat) := ls.map fun i => (i, va i, x i)

theorem atomLanes_place {i : Nat} {ls : List Nat} (place : ∀ j ∈ ls, InLine (atomSize a) (x j).pa) (place' : InLine (atomSize a) (x i).pa)
    (entry : ∀ j ∈ ls, EntryAway (x j) (lineOf (x i).pa)) (own : EntryAway (x i) (lineOf (x i).pa))
    (apart : ∀ j ∈ ls, x j = x i ∨ lineOf (x j).pa ≠ lineOf (x i).pa) (keyed : (keyPair s (pteKey (x i).pte)).isSome)
    {z : List (Nat × List Byte) × List Byte × Bool} {acc : AtomAcc} (h : PlaceAt s a g (x i) z acc) :
    PlaceAt s a g (x i) ((ls.filter fun j => x j = x i).foldl (atomTurn a g) z) ((atomLanes va x ls).foldl (atomLane u a g) acc) := by
  induction ls generalizing z acc with
  | nil => exact h
  | cons j ls ih =>
    obtain ⟨place1, places⟩ := List.forall_mem_cons.mp place
    obtain ⟨entry1, entries⟩ := List.forall_mem_cons.mp entry
    obtain ⟨apart1, aparts⟩ := List.forall_mem_cons.mp apart
    rw [atomLanes, List.map_cons, List.foldl_cons, ← atomLanes]
    by_cases same : x j = x i
    · rw [List.filter_cons_of_pos (by simpa using same), List.foldl_cons, same]
      exact ih places entries aparts (h.turn place' own keyed j (va j))
    · rw [List.filter_cons_of_neg (by simpa using same)]
      exact ih places entries aparts (h.other place' place1 entry1 (apart1.resolve_left same))

theorem atomLanes_olds (ls : List Nat) {done : List Nat} {acc : AtomAcc} (h : OldsOf (atomSize a) done acc.olds) :
    OldsOf (atomSize a) (done ++ ls) ((atomLanes va x ls).foldl (atomLane u a g) acc).olds := by
  induction ls generalizing done acc with
  | nil => rwa [List.append_nil]
  | cons j ls ih =>
    rw [atomLanes, List.map_cons, List.foldl_cons, ← atomLanes, List.append_cons]
    exact ih (by rw [atomLane_olds]; exact h.append (atomOld_length a g acc.s (x j)))

theorem atomLanes_stands {P : Gang → Prop} {w : Nat} (idle : ∀ g, P g → SpanIdle g.span) (l : List (Nat × DWord × Xlat)) {acc : AtomAcc}
    (h : Stands w P acc.s) : Stands w P (l.foldl (atomLane u a g) acc).s := by
  induction l generalizing acc with
  | nil => exact h
  | cons o l ih => exact ih (atomLane_stands h idle)

theorem atomLanes_lineKept {l : Nat} {ls : List Nat} (place : ∀ j ∈ ls, InLine (atomSize a) (x j).pa) (entry : ∀ j ∈ ls, EntryAway (x j) l)
    (away : ∀ j ∈ ls, lineOf (x j).pa ≠ l) {acc : AtomAcc} (h : Steady s acc.s) :
    LineKept acc.s ((atomLanes va x ls).foldl (atomLane u a g) acc).s l := by
  induction ls generalizing acc with
  | nil => exact .refl acc.s l
  | cons j ls ih =>
    obtain ⟨place1, places⟩ := List.forall_mem_cons.mp place
    obtain ⟨entry1, entries⟩ := List.forall_mem_cons.mp entry
    obtain ⟨away1, aways⟩ := List.forall_mem_cons.mp away
    rw [atomLanes, List.map_cons, List.foldl_cons, ← atomLanes]
    exact (atomLane_lineKept h.pins place1 entry1 away1).trans (ih places entries aways (atomLane_steady h))

end

end Sys2Proof.Machine
end

section
/-! SUPPORT. ATOM as one instruction (O24; R262, R263). -/

namespace Sys2Proof.Machine

/-! ## The access goes ahead -/

section
variable {s : State} {g : Gang} {ls : List Nat} {va : Nat → DWord} {x : Nat → Xlat}

theorem checkLanes_ok {need : Need} {n : Nat} (pass : ∀ i ∈ ls, laneCheck s g need n (va i) = .ok (x i)) :
    checkLanes s g need n (ls.map fun i => (i, va i)) = ls.map fun i => (i, .ok (va i, x i)) := by
  rw [checkLanes, List.map_map]
  refine List.map_congr_left fun i hi => ?_
  simp only [Function.comp, pass i hi]

/-- Neither a page nor a line of the lanes is poisoned (R27, R376). -/
theorem failPoisoned_ok (page : ∀ i ∈ ls, (x i).poison = false) (line : ∀ i ∈ ls, lineOf (x i).pa ∉ s.linePoison) :
    failPoisoned s true (ls.map fun i => (i, .ok (va i, x i))) = ls.map fun i => (i, .ok (va i, x i)) := by
  rw [failPoisoned, List.map_map]
  refine List.map_congr_left fun i hi => ?_
  simp [page i hi, line i hi]

end

/-! ## Its last steps -/

/-- The lanes of an ATOM performed, from the state in which its requests have issued. -/
def atomPerformed (u : State) (uid : Nat) (a : AtomArgs) (h : Gang) (va : Nat → DWord) (x : Nat → Xlat) (ls : List Nat) : AtomAcc :=
  (atomLanes va x ls).foldl (atomLane uid a h) ⟨u, [], 0, false⟩

/-- With the old values in their registers and the lines written at their home slices. -/
def atomStored (u : State) (uid : Nat) (a : AtomArgs) (h : Gang) (va : Nat → DWord) (x : Nat → Xlat) (ls : List Nat) : State :=
  let acc := atomPerformed u uid a h va x ls
  let s := putOlds acc.s uid a.d acc.olds
  if acc.wrote then storeLines s (regionOf u h) (coveredLines (atomLanes va x ls)) else s

/-- The machine after an ATOM. -/
def atomEnd (u : State) (uid : Nat) (a : AtomArgs) (h : Gang) (va : Nat → DWord) (x : Nat → Xlat) (ls : List Nat) : State :=
  freshSpan (atomOrder (atomStored u uid a h va x ls) uid a (atomPerformed u uid a h va x ls)) uid

section
variable {u : State} {uid : Nat} {a : AtomArgs} {h : Gang} {va : Nat → DWord} {x : Nat → Xlat} {ls : List Nat}

theorem atomStored_keeps : keepAsks (putOlds (atomPerformed u uid a h va x ls).s uid a.d (atomPerformed u uid a h va x ls).olds)
    (atomStored u uid a h va x ls) = atomStored u uid a h va x ls := by
  unfold atomStored
  extract_lets acc s
  split
  · exact storeLines_keeps s _ _
  · rfl

/-- After the lanes, memory and stamps stand. -/
theorem atomEnd_lineKept (l : Nat) : LineKept (atomPerformed u uid a h va x ls).s (atomEnd u uid a h va x ls) l := by
  rw [atomEnd, atomLast_eq, ← atomStored_keeps]
  exact ⟨rfl, rfl, fun _ _ => rfl⟩

theorem atomEnd_relStamp : (atomEnd u uid a h va x ls).relStamp = (atomPerformed u uid a h va x ls).s.relStamp := by
  rw [atomEnd, atomLast_eq, ← atomStored_keeps]
  rfl

/-- The gang takes the old values, is ordered, and stands at the start of its next span. -/
theorem gang?_atomEnd (own : Stands uid (· = h) u) (idle : SpanIdle h.span) :
    ∃ now, gang? (atomEnd u uid a h va x ls) uid = some (atomDone a now (atomPerformed u uid a h va x ls) h) := by
  have performed : Stands uid (· = h) (atomPerformed u uid a h va x ls).s :=
    atomLanes_stands (P := (· = h)) (fun _ e => e ▸ idle) (atomLanes va x ls) own
  have taken : Stands uid (· = takeOlds a.d (atomPerformed u uid a h va x ls).olds h)
      (putOlds (atomPerformed u uid a h va x ls).s uid a.d (atomPerformed u uid a h va x ls).olds) :=
    performed.modGang (takeOlds_uid _ _) fun _ e => congrArg (takeOlds a.d _) e
  have stored := taken.congr (SameGangs.of_keepAsks atomStored_keeps).gangs
  rw [atomEnd, atomLast_eq]
  exact ⟨_, gang_modGang_self _ stored.eq (orderedGang_orders a _ _ _ _).uid⟩

theorem atomPerformed_olds : OldsOf (atomSize a) ls (atomPerformed u uid a h va x ls).olds :=
  atomLanes_olds (done := []) ls ⟨rfl, List.forall_mem_nil _⟩

end

/-! ## The instruction -/

section
variable {s t u : State} {it : Issue} {g h : Gang} {a : AtomArgs} {x : Nat → Xlat} (b : AtBoundary s it g 0 t h)
  (alive : h.live &&& h.launchMask ≠ 0#32) (occupied : lanesOf (execMask h it) ≠ [])
  (pass : ∀ i ∈ lanesOf (execMask h it), laneCheck t h .store (atomSize a)
    (globalEa h (globalBase h it (execMask h it) a.base none) a.off (atomSize a) i) = .ok (x i))
  (page : ∀ i ∈ lanesOf (execMask h it), (x i).poison = false)
  (line : ∀ i ∈ lanesOf (execMask h it), lineOf (x i).pa ∉ t.linePoison)

/-- The address of a lane. -/
def atomEa (h : Gang) (it : Issue) (a : AtomArgs) (i : Nat) : DWord :=
  globalEa h (globalBase h it (execMask h it) a.base none) a.off (atomSize a) i

include b alive occupied pass page line in
theorem exec_atom_next (free : favourBlocks t (some it.gang) (coveredBytes (atomSize a)
      ((lanesOf (execMask h it)).map fun i => (i, atomEa h it a i, x i))) [] = false)
    (granted : Granted t u (.gang it.gang it.split) (regionOf t h) ((lanesOf (execMask h it)).map x)) :
    exec (.atom a) s = .next (atomEnd u it.gang a h (atomEa h it a) x (lanesOf (execMask h it))) := by
  have kept : keepAsks t u = u := by
    have asked := askLines_keeps t (.gang it.gang it.split) (regionOf t h) ((lanesOf (execMask h it)).map x)
    rwa [granted] at asked
  obtain ⟨stands, idle, -⟩ := stands_atBoundary b
  obtain ⟨now, own⟩ := gang?_atomEnd (a := a) (va := atomEa h it a) (x := x) (ls := lanesOf (execMask h it))
    (stands.congr (SameGangs.of_keepAsks kept).gangs) idle
  have checked : checkLanes t h .store (atomSize a)
      (laneVas h (execMask h it) (globalBase h it (execMask h it) a.base none) a.off (atomSize a)) =
        (lanesOf (execMask h it)).map fun i => (i, .ok (atomEa h it a i, x i)) := checkLanes_ok pass
  have nonempty : ((lanesOf (execMask h it)).map fun i => (i, atomEa h it a i, x i)).isEmpty = false := by simpa using occupied
  rw [exec_atom, execAtom, boundary_at b]
  dsimp only
  rw [checked, failPoisoned_ok page line]
  simp only [laneOwn_ok, laneOks_ok, laneFails_ok, free, Bool.false_eq_true, if_false, withLines, List.map_map, Function.comp_def]
  rw [granted]
  simp only [nonempty, Bool.false_eq_true, if_false]
  exact finishLanes_done own (atomDone_alive alive) ..

end

/-! ## What O24 says of memory -/

section
variable {t u : State} {uid : Nat} {a : AtomArgs} {h : Gang} {va : Nat → DWord} {x : Nat → Xlat} {ls : List Nat}
  (kept : keepAsks t u = u) (pins : NoPins t) (place : ∀ j ∈ ls, InLine (atomSize a) (x j).pa)
include kept pins place

theorem atomEnd_readByte {l key b : Nat} (at' : lineOf b = l) (entry : ∀ j ∈ ls, EntryAway (x j) l) (away : ∀ j ∈ ls, lineOf (x j).pa ≠ l) :
    readByte (atomEnd u uid a h va x ls) key b = readByte t key b := by
  have asked : LineKept t u l := by rw [← kept]; exact ⟨rfl, rfl, fun _ _ => rfl⟩
  have steady : Steady u u := ⟨by rw [← kept]; exact pins, rfl⟩
  have performed : LineKept u (atomPerformed u uid a h va x ls).s l :=
    atomLanes_lineKept (acc := ⟨u, [], 0, false⟩) place entry away steady
  exact LineKept.readByte_eq (at' ▸ asked.trans (performed.trans (atomEnd_lineKept l))) key

/-- A location after all lanes: what the lanes there made of it in turn. -/
theorem atomPerformed_place {i : Nat} (hi : i ∈ ls) (entry : ∀ j ∈ ls, EntryAway (x j) (lineOf (x i).pa))
    (apart : ∀ j ∈ ls, x j = x i ∨ lineOf (x j).pa ≠ lineOf (x i).pa) (keyed : (keyPair t (pteKey (x i).pte)).isSome) :
    PlaceAt t a h (x i) (atomTurns a h (ls.filter fun j => x j = x i) (readBytes t (pteKey (x i).pte) (x i).pa (atomSize a)))
      (atomPerformed u uid a h va x ls) := by
  have asked : LineKept t u (lineOf (x i).pa) := by rw [← kept]; exact ⟨rfl, rfl, fun _ _ => rfl⟩
  have steady : Steady t u := by rw [← kept]; exact ⟨pins, rfl⟩
  have stamps : u.relStamp = t.relStamp := by rw [← kept]; rfl
  exact atomLanes_place place (place i hi) entry (entry i hi) apart keyed
    ⟨steady, asked.readBytes_eq (place i hi) _, List.forall_mem_nil _, fun w => (Bool.noConfusion w), fun q _ => by rw [stamps]; rfl⟩

end

/-- The stamp of an atomic's write, by its ordering (log 83). -/
theorem atomStamp_eq (a : AtomArgs) (h : Gang) : atomStamp a h =
    if a.ord = .rel ∨ a.ord = .acqRel then h.floor else if a.ord = .relaxed then h.relFloor else h.fenceFloor := by
  simp [atomStamp, atomReleases]

/-- The second clause of O24, for ATOM. -/
theorem atom_clause {s t : State} {it : Issue} {g h : Gang} {a : AtomArgs} (b : AtBoundary s it g 0 t h)
    (alive : h.live &&& h.launchMask ≠ 0#32) (occupied : lanesOf (execMask h it) ≠ []) {x : Nat → Xlat}
    (pass : ∀ i ∈ lanesOf (execMask h it), laneCheck t h .store (atomSize a) (atomEa h it a i) = .ok (x i) ∧ (x i).poison = false ∧
      lineOf (x i).pa ∉ t.linePoison ∧ (keyPair t (pteKey (x i).pte)).isSome)
    (free : favourBlocks t (some it.gang) (coveredBytes (atomSize a)
      ((lanesOf (execMask h it)).map fun i => (i, atomEa h it a i, x i))) [] = false) {u : State}
    (granted : Granted t u (.gang it.gang it.split) (regionOf t h) ((lanesOf (execMask h it)).map x)) :
    ∃ v k, exec (.atom a) s = .next v ∧ gang? v it.gang = some k ∧
      (∀ r i, i < 32 → ¬(i ∈ lanesOf (execMask h it) ∧ a.d.toNat ≤ r ∧ r < a.d.toNat + atomSize a / 4) → getReg k r i = getReg h r i) ∧
      k.span.count = 0 ∧ ((a.ord = .acq ∨ a.ord = .acqRel) → h.floor ≤ k.floor) ∧
      (NoPins t →
        (∀ key b, (∀ i ∈ lanesOf (execMask h it), EntryAway (x i) (lineOf b)) → (∀ i ∈ lanesOf (execMask h it), lineOf (x i).pa ≠ lineOf b) →
          readByte v key b = readByte t key b) ∧
        ∀ i ∈ lanesOf (execMask h it), (∀ j ∈ lanesOf (execMask h it), x j = x i ∨ lineOf (x j).pa ≠ lineOf (x i).pa) →
          (∀ j ∈ lanesOf (execMask h it), EntryAway (x j) (lineOf (x i).pa)) →
          let z := atomTurns a h ((lanesOf (execMask h it)).filter fun j => x j = x i) (readBytes t (pteKey (x i).pte) (x i).pa (atomSize a))
          (∀ p ∈ z.1, ∀ q, q < atomSize a / 4 →
            getReg k (a.d.toNat + q) p.1 = BitVec.ofNat 32 (natOfBytes ((p.2.drop (4 * q)).take 4))) ∧
          readBytes v (pteKey (x i).pte) (x i).pa (atomSize a) = z.2.1 ∧
          (z.2.2 = true → ((a.ord = .rel ∨ a.ord = .acqRel) → k.relFloor = h.floor) ∧
            ∀ q, q < atomSize a → readK 0 ((x i).pa + q) v.relStamp = max (readK 0 ((x i).pa + q) t.relStamp)
              (if a.ord = .rel ∨ a.ord = .acqRel then h.floor else if a.ord = .relaxed then h.relFloor else h.fenceFloor))) := by
  have kept : keepAsks t u = u := by
    have asked := askLines_keeps t (.gang it.gang it.split) (regionOf t h) ((lanesOf (execMask h it)).map x)
    rwa [granted] at asked
  have performed := exec_atom_next b alive occupied (fun i hi => (pass i hi).1) (fun i hi => (pass i hi).2.1) (fun i hi => (pass i hi).2.2.1)
    free granted
  have place : ∀ j ∈ lanesOf (execMask h it), InLine (atomSize a) (x j).pa :=
    fun j hj => inLine_of_aligned (aligned_of_laneCheck (pass j hj).1)
  obtain ⟨stands, idle, -⟩ := stands_atBoundary b
  obtain ⟨now, own⟩ := gang?_atomEnd (a := a) (va := atomEa h it a) (x := x) (ls := lanesOf (execMask h it))
    (stands.congr (SameGangs.of_keepAsks kept).gangs) idle
  obtain ⟨dest, taken⟩ := atomDone_registers (now := now) (h := h)
    (atomPerformed_olds (u := u) (uid := it.gang) (a := a) (h := h) (va := atomEa h it a) (x := x) (ls := lanesOf (execMask h it)))
    (fun _ hi => (mem_lanesOf.mp hi).1) (nodup_lanesOf _)
  refine ⟨_, _, performed, own, dest, rfl, fun _ => atomDone_floor, fun pins => ⟨fun key b entry away => ?_, fun i hi apart entry => ?_⟩⟩
  · exact atomEnd_readByte kept pins place rfl entry away
  · have out := atomPerformed_place (uid := it.gang) (h := h) (va := atomEa h it a) kept pins place hi entry apart (pass i hi).2.2.2
    refine ⟨fun p hp => taken p (out.olds p hp), ?_, fun w => ⟨fun rel => ?_, fun q hq => ?_⟩⟩
    · exact ((atomEnd_lineKept _).readBytes_eq (place i hi) _).trans out.bytes
    · exact atomDone_relFloor (by simpa [atomReleases] using rel) (out.wrote w)
    · rw [atomEnd_relStamp, out.stamps q hq, if_pos w, atomStamp_eq]

end Sys2Proof.Machine
end

section
/-! SUPPORT. ATOML (O24; R31, R262, R263): the lanes in local memory, one after the other; and the theorem of both forms. -/

namespace Sys2Proof.Machine

/-! ## One write of local memory -/

/-- A lane's write: the bytes, then their release stamps. -/
def atomlWrite (a : AtomArgs) (g : Gang) (s : State) (y : LocalAddr) (bs : List Byte) : State :=
  setLocalStamp (localWrite s g.cohort y.wg y.off bs) a g y (atomSize a)

/-- A location of local memory that is there and not poisoned. -/
structure Usable (a : AtomArgs) (g : Gang) (s : State) (y : LocalAddr) : Prop where
  there : HasWg s g.cohort y.wg
  clean : localPoisoned s g.cohort y.wg y.off (atomSize a) = false

theorem localPoisoned_modWg {s : State} {c wg off n : Nat} (there : HasWg s c wg) (w : Nat) {f : Workgroup → Workgroup}
    (less : ∀ x, ∀ p ∈ (f x).poison, p ∈ x.poison) (h : localPoisoned s c wg off n = false) :
    localPoisoned (modWg s c w f) c wg off n = false := by
  obtain ⟨k, hk, hw⟩ := there
  rw [localPoisoned, hk, Option.bind_some, workgroup?, List.getElem?_eq_getElem hw] at h
  rw [localPoisoned, cohort_modWg_self hk, Option.bind_some, workgroup?, List.getElem?_modify, List.getElem?_eq_getElem hw]
  have none : ∀ p ∈ k.wgs[wg].poison, ¬(p < off + n ∧ off < p + 4) := by simpa using h
  have still : ∀ x : Workgroup, (∀ p ∈ x.poison, p ∈ k.wgs[wg].poison) →
      (x.poison.any fun p => decide (p < off + n) && decide (off < p + 4)) = false := fun x sub => by
    simpa using fun p hp => not_and.mp (none p (sub p hp))
  by_cases e : w = wg
  · simpa [e] using still (f k.wgs[wg]) (less _)
  · simpa [e] using still k.wgs[wg] fun _ hp => hp

section
variable {a : AtomArgs} {g : Gang} {s : State} {y : LocalAddr} {bs : List Byte}

theorem localByte_atomlWrite (there : HasWg s g.cohort y.wg) (w o : Nat) : localByte (atomlWrite a g s y bs) g.cohort w o =
    if w = y.wg ∧ y.off ≤ o ∧ o < y.off + bs.length then bs.getD (o - y.off) 0 else localByte s g.cohort w o := by
  rw [atomlWrite, setLocalStamp, localByte_modWg_of_mem _ _ (by exact fun _ => rfl), localByte_localWrite there]

theorem atomlWrite_usable {y' : LocalAddr} (h : Usable a g s y') : Usable a g (atomlWrite a g s y bs) y' := by
  have written : Usable a g (localWrite s g.cohort y.wg y.off bs) y' :=
    ⟨h.there.modWg _ _, localPoisoned_modWg h.there _ (fun _ _ hp => (List.mem_filter.mp hp).1) h.clean⟩
  exact ⟨written.there.modWg _ _, localPoisoned_modWg written.there _ (fun _ _ hp => hp) written.clean⟩

theorem atomlWrite_frame : (atomlWrite a g s y bs).mem = s.mem ∧ (atomlWrite a g s y bs).gangs = s.gangs := ⟨rfl, rfl⟩

end

/-! ## One lane -/

/-- What a lane reads of local memory. -/
def atomlOld (a : AtomArgs) (g : Gang) (s : State) (y : LocalAddr) : List Byte := localBytes s g.cohort y.wg y.off (atomSize a)

section
variable {a : AtomArgs} {g : Gang} {acc : AtomAcc} {j : Nat} {y : LocalAddr} (h : Usable a g acc.s y)

/-- One lane's turn, no lane being dead. -/
def atomlStep (a : AtomArgs) (g : Gang) (acc : AtomAcc) (j : Nat) (y : LocalAddr) : AtomAcc := (atomlLane a g (acc, []) (j, y)).1

include h

theorem atomlLane_eq : atomlLane a g (acc, []) (j, y) = (atomlStep a g acc j y, []) := by
  unfold atomlStep atomlLane
  dsimp only
  rw [h.clean]
  simp only [Bool.false_eq_true, if_false]
  split <;> rfl

theorem atomlStep_none (e : atomBytes a g j (atomlOld a g acc.s y) = none) : (atomlStep a g acc j y).s = acc.s ∧
    (atomlStep a g acc j y).olds = acc.olds ++ [(j, atomlOld a g acc.s y)] := by
  unfold atomlOld at e
  unfold atomlStep atomlLane
  dsimp only
  rw [h.clean]
  simp only [Bool.false_eq_true, if_false]
  rw [e]
  exact ⟨rfl, rfl⟩

theorem atomlStep_some {bs : List Byte} (e : atomBytes a g j (atomlOld a g acc.s y) = some bs) :
    (atomlStep a g acc j y).s = atomlWrite a g acc.s y bs ∧ (atomlStep a g acc j y).olds = acc.olds ++ [(j, atomlOld a g acc.s y)] := by
  unfold atomlOld at e
  unfold atomlStep atomlLane
  dsimp only
  rw [h.clean]
  simp only [Bool.false_eq_true, if_false]
  rw [e]
  exact ⟨rfl, rfl⟩

theorem atomlStep_olds : (atomlStep a g acc j y).olds = acc.olds ++ [(j, atomlOld a g acc.s y)] := by
  cases e : atomBytes a g j (atomlOld a g acc.s y) with
  | none => exact (atomlStep_none h e).2
  | some bs => exact (atomlStep_some h e).2

/-- A property of states that a lane's write keeps. -/
theorem atomlStep_keeps {Q : State → Prop} (start : Q acc.s) (write : ∀ bs, bs.length = atomSize a → Q (atomlWrite a g acc.s y bs)) :
    Q (atomlStep a g acc j y).s := by
  cases e : atomBytes a g j (atomlOld a g acc.s y) with
  | none => rwa [(atomlStep_none h e).1]
  | some bs =>
    rw [(atomlStep_some h e).1]
    exact write bs (atomBytes_length e)

theorem atomlStep_usable {y' : LocalAddr} (h' : Usable a g acc.s y') : Usable a g (atomlStep a g acc j y).s y' :=
  atomlStep_keeps h (Q := fun s => Usable a g s y') h' fun _ _ => atomlWrite_usable h'

theorem atomlStep_frame : (atomlStep a g acc j y).s.mem = acc.s.mem ∧ (atomlStep a g acc j y).s.gangs = acc.s.gangs :=
  atomlStep_keeps h (Q := fun s => s.mem = acc.s.mem ∧ s.gangs = acc.s.gangs) ⟨rfl, rfl⟩ fun _ _ => atomlWrite_frame

theorem atomlStep_localByte {w o : Nat} (away : ¬(w = y.wg ∧ y.off ≤ o ∧ o < y.off + atomSize a)) :
    localByte (atomlStep a g acc j y).s g.cohort w o = localByte acc.s g.cohort w o :=
  atomlStep_keeps h (Q := fun s => localByte s g.cohort w o = localByte acc.s g.cohort w o) rfl fun bs len => by
    rw [localByte_atomlWrite h.there, len, if_neg away]

end

/-! ## A location, lane by lane -/

/-- A location while lanes are performed: z is what the lanes there have made of it. -/
structure LocalAt (a : AtomArgs) (g : Gang) (y : LocalAddr) (z : List (Nat × List Byte) × List Byte × Bool) (acc : AtomAcc) : Prop where
  bytes : localBytes acc.s g.cohort y.wg y.off (atomSize a) = z.2.1
  olds : ∀ p ∈ z.1, p ∈ acc.olds

theorem localBytes_congr {s t : State} {c wg off n : Nat} (h : ∀ q, q < n → localByte t c wg (off + q) = localByte s c wg (off + q)) :
    localBytes t c wg off n = localBytes s c wg off n :=
  List.map_congr_left fun q hq => h q (List.mem_range.mp hq)

section
variable {a : AtomArgs} {g : Gang} {y : LocalAddr} {z : List (Nat × List Byte) × List Byte × Bool} {acc : AtomAcc}

theorem LocalAt.turn (h : LocalAt a g y z acc) (usable : Usable a g acc.s y) (j : Nat) :
    LocalAt a g y (atomTurn a g z j) (atomlStep a g acc j y) := by
  have read : atomlOld a g acc.s y = z.2.1 := h.bytes
  have grown : ∀ p ∈ z.1 ++ [(j, z.2.1)], p ∈ (atomlStep a g acc j y).olds := fun p hp => by
    rw [atomlStep_olds usable, read]
    rcases List.mem_append.mp hp with hp | hp
    · exact List.mem_append_left _ (h.olds p hp)
    · exact List.mem_append_right _ hp
  cases e : atomBytes a g j z.2.1 with
  | none =>
    rw [atomTurn_none e]
    exact ⟨by rw [(atomlStep_none usable (read ▸ e)).1]; exact h.bytes, grown⟩
  | some bs =>
    rw [atomTurn_some e]
    refine ⟨?_, grown⟩
    have len := atomBytes_length e
    rw [(atomlStep_some usable (read ▸ e)).1]
    refine List.ext_getElem (by simp [localBytes, len]) fun q hq _ => ?_
    have inside : q < bs.length := by simpa [localBytes, len] using hq
    simp [localBytes, localByte_atomlWrite usable.there, inside]

/-- A lane elsewhere leaves the location. -/
theorem LocalAt.other (h : LocalAt a g y z acc) {y' : LocalAddr} (usable : Usable a g acc.s y') (j : Nat)
    (apart : y'.wg ≠ y.wg ∨ y'.off + atomSize a ≤ y.off ∨ y.off + atomSize a ≤ y'.off) : LocalAt a g y z (atomlStep a g acc j y') := by
  refine ⟨(localBytes_congr fun q hq => atomlStep_localByte usable ?_).trans h.bytes, fun p hp => ?_⟩
  · rintro ⟨same, inside⟩
    rcases apart with e | e | e
    · exact e same.symm
    · omega
    · omega
  · rw [atomlStep_olds usable]
    exact List.mem_append_left _ (h.olds p hp)

end

/-! ## All lanes -/

section
variable {a : AtomArgs} {g : Gang} {y : Nat → LocalAddr}

/-- The lanes of an ATOML, performed. -/
def atomlLanes (a : AtomArgs) (g : Gang) (y : Nat → LocalAddr) (ls : List Nat) (acc : AtomAcc) : AtomAcc :=
  ls.foldl (fun acc j => atomlStep a g acc j (y j)) acc

theorem foldl_atomlLane {ls : List Nat} {acc : AtomAcc} (usable : ∀ j ∈ ls, Usable a g acc.s (y j)) :
    (ls.map fun i => (i, y i)).foldl (atomlLane a g) (acc, []) = (atomlLanes a g y ls acc, []) := by
  induction ls generalizing acc with
  | nil => rfl
  | cons j ls ih =>
    obtain ⟨first, rest⟩ := List.forall_mem_cons.mp usable
    rw [List.map_cons, List.foldl_cons, atomlLane_eq first, ih fun k hk => atomlStep_usable first (rest k hk)]
    rfl

theorem atomlLanes_frame {ls : List Nat} {acc : AtomAcc} (usable : ∀ j ∈ ls, Usable a g acc.s (y j)) :
    (atomlLanes a g y ls acc).s.mem = acc.s.mem ∧ (atomlLanes a g y ls acc).s.gangs = acc.s.gangs := by
  induction ls generalizing acc with
  | nil => exact ⟨rfl, rfl⟩
  | cons j ls ih =>
    obtain ⟨first, rest⟩ := List.forall_mem_cons.mp usable
    obtain ⟨mem, gangs⟩ := ih fun k hk => atomlStep_usable (j := j) first (rest k hk)
    obtain ⟨mem', gangs'⟩ := atomlStep_frame (j := j) first
    exact ⟨mem.trans mem', gangs.trans gangs'⟩

theorem atomlLanes_localByte {ls : List Nat} {acc : AtomAcc} (usable : ∀ j ∈ ls, Usable a g acc.s (y j)) {w o : Nat}
    (away : ∀ j ∈ ls, ¬((y j).wg = w ∧ (y j).off ≤ o ∧ o < (y j).off + atomSize a)) :
    localByte (atomlLanes a g y ls acc).s g.cohort w o = localByte acc.s g.cohort w o := by
  induction ls generalizing acc with
  | nil => rfl
  | cons j ls ih =>
    obtain ⟨first, rest⟩ := List.forall_mem_cons.mp usable
    obtain ⟨away1, aways⟩ := List.forall_mem_cons.mp away
    exact (ih (fun k hk => atomlStep_usable (j := j) first (rest k hk)) aways).trans
      (atomlStep_localByte first fun c => away1 ⟨c.1.symm, c.2⟩)

theorem atomlLanes_olds {ls done : List Nat} {acc : AtomAcc} (usable : ∀ j ∈ ls, Usable a g acc.s (y j))
    (h : OldsOf (atomSize a) done acc.olds) : OldsOf (atomSize a) (done ++ ls) (atomlLanes a g y ls acc).olds := by
  induction ls generalizing done acc with
  | nil => rwa [List.append_nil]
  | cons j ls ih =>
    obtain ⟨first, rest⟩ := List.forall_mem_cons.mp usable
    rw [List.append_cons]
    exact ih (fun k hk => atomlStep_usable (j := j) first (rest k hk))
      (by rw [atomlStep_olds first]; exact h.append (by simp [atomlOld, localBytes]))

theorem atomlLanes_place {ls : List Nat} {i : Nat} {z : List (Nat × List Byte) × List Byte × Bool} {acc : AtomAcc}
    (usable : ∀ j ∈ ls, Usable a g acc.s (y j))
    (apart : ∀ j ∈ ls, y j = y i ∨ (y j).wg ≠ (y i).wg ∨ (y j).off + atomSize a ≤ (y i).off ∨ (y i).off + atomSize a ≤ (y j).off)
    (h : LocalAt a g (y i) z acc) :
    LocalAt a g (y i) ((ls.filter fun j => y j = y i).foldl (atomTurn a g) z) (atomlLanes a g y ls acc) := by
  induction ls generalizing z acc with
  | nil => exact h
  | cons j ls ih =>
    obtain ⟨first, rest⟩ := List.forall_mem_cons.mp usable
    obtain ⟨apart1, aparts⟩ := List.forall_mem_cons.mp apart
    have later : ∀ k ∈ ls, Usable a g (atomlStep a g acc j (y j)).s (y k) := fun k hk => atomlStep_usable first (rest k hk)
    rw [atomlLanes, List.foldl_cons, ← atomlLanes]
    by_cases same : y j = y i
    · rw [List.filter_cons_of_pos (by simpa using same), List.foldl_cons]
      refine ih later aparts ?_
      rw [same] at first ⊢
      exact h.turn first j
    · rw [List.filter_cons_of_neg (by simpa using same)]
      exact ih later aparts (h.other first j (apart1.resolve_left same))

end

/-! ## The instruction -/

/-- The lanes of an ATOML, performed from t. -/
def atomlPerformed (t : State) (a : AtomArgs) (h : Gang) (y : Nat → LocalAddr) (ls : List Nat) : AtomAcc :=
  atomlLanes a h y ls ⟨t, [], 0, false⟩

/-- The machine after an ATOML. -/
def atomlEnd (t : State) (uid : Nat) (a : AtomArgs) (h : Gang) (y : Nat → LocalAddr) (ls : List Nat) : State :=
  let acc := atomlPerformed t a h y ls
  freshSpan (atomOrder (putOlds acc.s uid a.d acc.olds) uid a acc) uid

/-- The address of a lane (R190). -/
def atomlEa (h : Gang) (it : Issue) (a : AtomArgs) (i : Nat) : Word :=
  localEa h (localBase h it (execMask h it) a.base none) a.off (atomSize a) i

theorem hasWg_of_localCheck {s : State} {g : Gang} {n : Nat} {ea : Word} {y : LocalAddr} (h : localCheck s g n ea = .ok y) :
    HasWg s g.cohort y.wg := by
  unfold localCheck at h
  split at h
  · cases h
  · split at h
    next ok => exact LaneRes.ok.inj h ▸ hasWg_of_localOk ok
    · cases h

section
variable {t : State} {uid : Nat} {a : AtomArgs} {h : Gang} {y : Nat → LocalAddr} {ls : List Nat}

/-- The last steps leave local memory. -/
theorem atomlEnd_frame : (atomlEnd t uid a h y ls).mem = (atomlPerformed t a h y ls).s.mem ∧
    ∀ c w o, localByte (atomlEnd t uid a h y ls) c w o = localByte (atomlPerformed t a h y ls).s c w o := by
  rw [atomlEnd, atomLast_eq]
  exact ⟨rfl, fun _ _ _ => rfl⟩

theorem gang?_atomlEnd (own : gang? t uid = some h) (usable : ∀ j ∈ ls, Usable a h t (y j)) :
    ∃ now, gang? (atomlEnd t uid a h y ls) uid = some (atomDone a now (atomlPerformed t a h y ls) h) := by
  have gangs : (atomlPerformed t a h y ls).s.gangs = t.gangs := (atomlLanes_frame (acc := ⟨t, [], 0, false⟩) usable).2
  have performed : gang? (atomlPerformed t a h y ls).s uid = some h := by rw [← own, gang?, gang?, gangs]
  have taken : gang? (putOlds (atomlPerformed t a h y ls).s uid a.d (atomlPerformed t a h y ls).olds) uid =
      some (takeOlds a.d (atomlPerformed t a h y ls).olds h) := gang_modGang_self _ performed (takeOlds_uid _ _ _)
  rw [atomlEnd, atomLast_eq]
  exact ⟨_, gang_modGang_self _ taken (orderedGang_orders a _ _ _ _).uid⟩

end

section
variable {s t : State} {it : Issue} {g h : Gang} {a : AtomArgs} {y : Nat → LocalAddr} (b : AtBoundary s it g 0 t h)
  (alive : h.live &&& h.launchMask ≠ 0#32) (occupied : lanesOf (execMask h it) ≠ [])
  (pass : ∀ i ∈ lanesOf (execMask h it), localCheck t h (atomSize a) (atomlEa h it a i) = .ok (y i) ∧
    localPoisoned t h.cohort (y i).wg (y i).off (atomSize a) = false)
  (free : ∀ i ∈ lanesOf (execMask h it), overlaps t h.cohort (y i).wg (y i).off ((y i).off + atomSize a) = [])

include pass in
theorem usable_of_pass : ∀ j ∈ lanesOf (execMask h it), Usable a h t (y j) :=
  fun j hj => ⟨hasWg_of_localCheck (pass j hj).1, (pass j hj).2⟩

include b alive occupied pass free

theorem exec_atoml_next : exec (.atoml a) s = .next (atomlEnd t it.gang a h y (lanesOf (execMask h it))) := by
  obtain ⟨now, own⟩ := gang?_atomlEnd (uid := it.gang) b.gang (usable_of_pass pass)
  have checked : localLanes t h (execMask h it) (localBase h it (execMask h it) a.base none) a.off (atomSize a) =
      (lanesOf (execMask h it)).map fun i => (i, .ok (y i)) :=
    List.map_congr_left fun i hi => by rw [← (pass i hi).1]; rfl
  have clear : scoreWait t h.cohort (localRanges (atomSize a) ((lanesOf (execMask h it)).map fun i => (i, y i))) = some t := by
    refine scoreWait_clear fun r hr => ?_
    obtain ⟨i, hi, rfl⟩ : ∃ i ∈ lanesOf (execMask h it), ((y i).wg, (y i).off, (y i).off + atomSize a) = r := by
      simpa [localRanges] using hr
    exact free i hi
  have nonempty : ((lanesOf (execMask h it)).map fun i => (i, y i)).isEmpty = false := by simpa using occupied
  rw [exec_atoml, execAtoml, boundary_at b]
  dsimp only
  rw [checked, laneOks_ok, laneFails_ok, clear]
  dsimp only
  rw [foldl_atomlLane (acc := ⟨t, [], 0, false⟩) (usable_of_pass pass)]
  simp only [nonempty, Bool.false_eq_true, if_false]
  exact finishLanes_done own (atomDone_alive alive) ..

/-- The third clause of O24, for ATOML. -/
theorem atoml_clause : ∃ v k, exec (.atoml a) s = .next v ∧ gang? v it.gang = some k ∧
    (∀ r i, i < 32 → ¬(i ∈ lanesOf (execMask h it) ∧ a.d.toNat ≤ r ∧ r < a.d.toNat + atomSize a / 4) → getReg k r i = getReg h r i) ∧
    k.span.count = 0 ∧ v.mem = t.mem ∧
    (∀ w o, (∀ i ∈ lanesOf (execMask h it), ¬((y i).wg = w ∧ (y i).off ≤ o ∧ o < (y i).off + atomSize a)) →
      localByte v h.cohort w o = localByte t h.cohort w o) ∧
    ∀ i ∈ lanesOf (execMask h it), (∀ j ∈ lanesOf (execMask h it),
        y j = y i ∨ (y j).wg ≠ (y i).wg ∨ (y j).off + atomSize a ≤ (y i).off ∨ (y i).off + atomSize a ≤ (y j).off) →
      let z := atomTurns a h ((lanesOf (execMask h it)).filter fun j => y j = y i)
        (localBytes t h.cohort (y i).wg (y i).off (atomSize a))
      (∀ p ∈ z.1, ∀ q, q < atomSize a / 4 →
        getReg k (a.d.toNat + q) p.1 = BitVec.ofNat 32 (natOfBytes ((p.2.drop (4 * q)).take 4))) ∧
      localBytes v h.cohort (y i).wg (y i).off (atomSize a) = z.2.1 := by
  have usable := usable_of_pass pass
  obtain ⟨now, own⟩ := gang?_atomlEnd (uid := it.gang) b.gang usable
  obtain ⟨mem, bytes⟩ := atomlEnd_frame (t := t) (uid := it.gang) (a := a) (h := h) (y := y) (ls := lanesOf (execMask h it))
  have olds : OldsOf (atomSize a) (lanesOf (execMask h it)) (atomlPerformed t a h y (lanesOf (execMask h it))).olds :=
    atomlLanes_olds (done := []) usable ⟨rfl, List.forall_mem_nil _⟩
  obtain ⟨dest, taken⟩ := atomDone_registers (now := now) (h := h) olds (fun _ hi => (mem_lanesOf.mp hi).1) (nodup_lanesOf _)
  refine ⟨_, _, exec_atoml_next b alive occupied pass free, own, dest, rfl, mem.trans (atomlLanes_frame usable).1, fun w o away => ?_,
    fun i hi apart => ?_⟩
  · rw [bytes]
    exact atomlLanes_localByte usable away
  · have out : LocalAt a h (y i) _ (atomlPerformed t a h y (lanesOf (execMask h it))) :=
      atomlLanes_place (z := ([], localBytes t h.cohort (y i).wg (y i).off (atomSize a), false)) (acc := ⟨t, [], 0, false⟩) usable apart
        ⟨rfl, List.forall_mem_nil _⟩
    exact ⟨fun p hp => taken p (out.olds p hp), (localBytes_congr fun q _ => bytes h.cohort _ _).trans out.bytes⟩

end

/-! ## Both forms -/

/-- The first clause of O24. -/
theorem atomNew_values {w : Nat} (old c n : BitVec w) :
    atomNew .add old c n = some (old + c) ∧ atomNew .xchg old c n = some c ∧
    (old = c → atomNew .cas old c n = some n) ∧ (old ≠ c → atomNew .cas old c n = none) ∧
    atomNew .and old c n = some (old &&& c) ∧ atomNew .or old c n = some (old ||| c) ∧ atomNew .xor old c n = some (old ^^^ c) ∧
    (∃ r, atomNew .min old c n = some r ∧ r.toInt = min old.toInt c.toInt) ∧
    (∃ r, atomNew .max old c n = some r ∧ r.toInt = max old.toInt c.toInt) ∧
    (∃ r, atomNew .minu old c n = some r ∧ r.toNat = min old.toNat c.toNat) ∧
    ∃ r, atomNew .maxu old c n = some r ∧ r.toNat = max old.toNat c.toNat :=
  ⟨rfl, rfl, fun e => if_pos e, fun e => if_neg e, rfl, rfl, rfl, ⟨_, rfl, toInt_minS old c⟩, ⟨_, rfl, toInt_maxS old c⟩,
    ⟨_, rfl, toNat_minU old c⟩, ⟨_, rfl, toNat_maxU old c⟩⟩

/-- Settles O24: the lanes of each form are one fold, through which each location keeps what the lanes there have made of it
(`PlaceAt`, `LocalAt`); the gang takes the old values and is ordered after it. -/
theorem atomics : Obligations.Atomics := by
  unfold Obligations.Atomics
  refine ⟨fun w old c n => atomNew_values old c n, ?_⟩
  intro s t it g h a b alive lanes n dest turns taken occupied
  refine ⟨?atom, ?atoml⟩
  case atom =>
    intro x base entry pass free granted
    obtain ⟨u, granted⟩ := granted
    obtain ⟨v, k, performed, own, kept, count, floor, memory⟩ := atom_clause b alive occupied pass free granted
    refine ⟨v, k, performed, own, kept, count, floor, fun pins => ⟨fun key c away apart => ?_, fun i hi apart away => ?_⟩⟩
    · exact (memory pins).1 key c (fun j hj e inside => away e ⟨j, hj, inside⟩) apart
    · exact (memory pins).2 i hi apart fun j hj e inside => away e ⟨j, hj, inside⟩
  case atoml =>
    intro y base pass free
    exact atoml_clause b alive occupied pass free

end Sys2Proof.Machine
end
